-- ==== Sys2Proof/Word.lean ====
section
/-! DEFINITION. The word types of the Tamnyx TX9 (R2, R22): a vector word is 32 bits, a scalar register 64 bits,
a lane mask 96 bits (one bit for each lane of a group, R18). -/

namespace Sys2Proof

/-- One byte of memory; memory is little-endian (R2). -/
abbrev Byte := BitVec 8

/-- A vector word (R22): one coil slot or frame slot of one lane. -/
abbrev Word := BitVec 32

/-- A 64-bit word: a scalar register, a constant register, an address, an instruction word. -/
abbrev DWord := BitVec 64

/-- A set of lanes of a group, bit L for lane L (R18, R192). -/
abbrev LaneMask := BitVec 96

end Sys2Proof
end

