-- ==== Sys2Proof/Syntax.lean ====
section
/-! DEFINITION. The instructions and events of the opcode table, one constructor for each of its 257 rows: the 175
instructions of R83, with their operands decoded from formats V, S, M, B, E and T (R62 to R82), and the 82 events
(the steps of the part that no instruction word stands for), with operands that name where they happen. -/

namespace Sys2Proof

/-- A guard: the predicate of a lane, and whether it is inverted (R62, R63). -/
structure Guard where
  inv : Bool
  p : Fin 8
deriving DecidableEq, Repr

/-- The guard that every lane passes (p0, R63). -/
def Guard.always : Guard := ⟨false, 0⟩

/-- The specials a vector name can supply (R78). -/
inductive Special where
  | lane | quad | qlane | gid | wgid | wgn | clrank | core | die | chunk
deriving DecidableEq, Repr

/-- A vector name (R78). `age a` is coil age a + 1, as the code is age − 1. -/
inductive VName where
  | age (a : Fin 64)
  | frame (n : Fin 704)
  | konst (n : Fin 128)
  | scalar (n : Fin 64)
  | special (x : Special)
  | zero
  | imm
deriving DecidableEq, Repr

/-- A scalar name of format S (R81). -/
inductive SName where
  | scalar (n : Fin 64)
  | konst (n : Fin 128)
  | gid | wgid | wgn | clrank | core | die | job | part | vf
  | zero
  | imm
deriving DecidableEq, Repr

/-- The type codes of R68. -/
inductive Ty where
  | i32 | n32 | f32 | f16x2 | bf16x2 | i16x2 | n16x2 | i8x4 | n8x4 | d8x4 | e4m3x4 | f4x8 | i64 | n64
deriving DecidableEq, Repr

/-- The operands of format V (R67): guards, three vector sources, type, modifiers and imm8. -/
structure VOps where
  g1 : Guard
  g2 : Guard
  a : VName
  b : VName
  c : VName
  ty : Ty
  mod : BitVec 4
  imm : BitVec 8
deriving DecidableEq, Repr

/-- The operands of PLOP (R188): truth table, destination and two source predicates. -/
structure PlopOps where
  g1 : Guard
  g2 : Guard
  table : BitVec 4
  pd : Fin 8
  pa : Fin 8
  pb : Fin 8
deriving DecidableEq, Repr

/-- The operands of format S (R70). -/
structure SOps where
  g1 : Guard
  g2 : Guard
  d : Fin 64
  a : SName
  b : SName
  c : SName
  ty : Ty
  mod : BitVec 4
  imm : BitVec 8
deriving DecidableEq, Repr

/-- The operands of SMOVI (R233), whose name fields carry raw bits of the literal. -/
structure SmoviOps where
  g1 : Guard
  g2 : Guard
  d : Fin 64
  ty : Ty
  hi : Bool
  lit : BitVec 32
deriving DecidableEq, Repr

/-- The scopes of R71 and R314. -/
inductive Scope where
  | group | workgroup | cluster | die | device | system
deriving DecidableEq, Repr

/-- The operands of format M (R71). `size` is the access size or the atomic operation, `scale` bits [16:15]. -/
structure MOps where
  g1 : Guard
  g2 : Guard
  base : Fin 64
  ofs : VName
  data : VName
  size : BitVec 4
  scale : BitVec 2
  scope : Scope
  order : BitVec 2
  hint : BitVec 2
  disp : BitVec 8
deriving DecidableEq, Repr

/-- The operands of the branches of format B (R75): displacements in bundles, condition, aux. -/
structure BOps where
  g1 : Guard
  g2 : Guard
  disp : BitVec 20
  disp2 : BitVec 20
  cond : Guard
  aux : BitVec 3
deriving DecidableEq, Repr

/-- The operands of JMPI and CALLI (R75): the target scalar. -/
structure BIOps where
  g1 : Guard
  g2 : Guard
  t : Fin 64
  aux : BitVec 3
deriving DecidableEq, Repr

/-- The operands of format E (R76). -/
structure EOps where
  g1 : Guard
  g2 : Guard
  tile : Fin 4
  an : VName
  p : Fin 64
  q : Fin 64
  kix : Fin 128
  cnt : BitVec 8
  reuse : Bool
  commit : Bool
  mode : BitVec 6
deriving DecidableEq, Repr

/-- The operands of format T (R77). -/
structure TOps where
  g1 : Guard
  g2 : Guard
  d : Fin 64
  a : Fin 64
  b : Fin 64
  kix : Fin 128
  imm : BitVec 8
  op : BitVec 14
deriving DecidableEq, Repr

/-- What a frame of Osier asks of its target (R459, R461): write bytes, read bytes, add to elements, add 1 to a
notification counter. -/
inductive FKind where
  | put | get | add | note
deriving DecidableEq, Repr

/-- A frame that another device sends to this one (R459): the port it comes by, the endpoint, what it asks at which offset of
the endpoint's window, its payload, the bytes it reads, and the element size of an add. -/
structure Arrival where
  port : Nat
  oep : Nat
  kind : FKind
  ofs : Nat
  data : List Byte
  len : Nat
  elem : Nat
deriving DecidableEq, Repr

/-- Which frame an arrival is about: one that the module knows, by its number, or what another device sends. -/
inductive FrameIn where
  | known (id : Nat)
  | sent (a : Arrival)
deriving DecidableEq, Repr

/-- Where a host-side access comes from (R430, R440, R445): the function's own driver, or an operator-side reader. -/
inductive HostPath where
  | tenant | operator
deriving DecidableEq, Repr

/-- The instructions and events of the opcode table, in its order. -/
inductive Instr where
  /-- NOP (R202). Does nothing in any lane; only the program counter advances. -/
  | nop (f : BOps)
  /-- BR (R203). Uniform branch of the current path, which faults UNIFORM_BREACH if the condition differs among the lanes of E. -/
  | br (f : BOps)
  /-- BRC (R204). Divergent branch that splits E into taken and not-taken paths and creates or refreshes a reconvergence entry. -/
  | brc (f : BOps)
  /-- JMPI (R205). Indirect jump of the current path to the ENTRY bundle whose address is in a scalar. -/
  | jmpi (f : BIOps)
  /-- BRK (R206). Sends the lanes of E to the innermost reconvergence point with side code 2 or 3. -/
  | brk (f : BOps)
  /-- YLDP (R207). Yields the current path to the topmost sibling pending path. -/
  | yldp (f : BOps)
  /-- EXIT (R208). Retires the lanes of E from every path and entry, and retires the group when no lane remains. -/
  | exit (f : BOps)
  /-- CALL (R190). Creates a callee activation, copies n arguments into the new coil and transfers to the target. -/
  | call (f : BOps)
  /-- CALLI (R190). Indirect call through a scalar to an ENTRY bundle, with n arguments. -/
  | calli (f : BIOps)
  /-- RET (R191). Returns m values to the caller, frees the callee activation and resumes at the return PC, even when E is empty. -/
  | ret (f : BOps)
  /-- PICK (R182). Pushes the word that source a supplies. -/
  | pick (f : VOps)
  /-- PICK2 (R182). Pushes two words, or a pair low word first. -/
  | pick2 (f : VOps)
  /-- SAVE (R183). Writes source b to a frame slot, or to two slots for a pair type. -/
  | save (f : VOps)
  /-- SAVEM (R184). Copies c consecutive coil values into c consecutive frame slots. -/
  | savem (f : VOps)
  /-- FRAME (R185). Sets the frame size of the current activation. -/
  | frame (f : VOps)
  /-- RJN (R186). Applies a rejoin descriptor to the arrived lanes of the completing reconvergence entry and removes that entry. -/
  | rjn (f : VOps)
  /-- SETP (R187). Sets a predicate from the zero test or a bit test of a source word. -/
  | setp (f : VOps)
  /-- PLOP (R188). Sets a predicate by a truth table over two predicates. -/
  | plop (f : PlopOps)
  /-- P2V (R189). Pushes the predicates, or one predicate, as a word. -/
  | p2v (f : VOps)
  /-- IADD (R212). Element-wise integer addition, wrapping. -/
  | iadd (f : VOps)
  /-- ISUB (R212). Element-wise integer subtraction, wrapping. -/
  | isub (f : VOps)
  /-- IMUL (R212). Element-wise integer multiplication, low bits. -/
  | imul (f : VOps)
  /-- IMULH (R213). High 32 bits of the 64-bit product of two words. -/
  | imulh (f : VOps)
  /-- IMAD (R212). Element-wise integer multiply-add. -/
  | imad (f : VOps)
  /-- IMADW (R213). Widening multiply-add into a 64-bit pair. -/
  | imadw (f : VOps)
  /-- IDIVM (R214). Pushes the quotient and then the remainder, and sets IDZ on division by zero. -/
  | idivm (f : VOps)
  /-- IMIN (R212). Element-wise integer minimum. -/
  | imin (f : VOps)
  /-- IMAX (R212). Element-wise integer maximum. -/
  | imax (f : VOps)
  /-- IABS (R212). Element-wise absolute value, with optional saturation. -/
  | iabs (f : VOps)
  /-- INEG (R212). Element-wise negation, with optional saturation. -/
  | ineg (f : VOps)
  /-- IADDS (R212). Element-wise saturating addition. -/
  | iadds (f : VOps)
  /-- ISUBS (R212). Element-wise saturating subtraction. -/
  | isubs (f : VOps)
  /-- AND (R215). Bitwise AND of two words. -/
  | and (f : VOps)
  /-- OR (R215). Bitwise OR of two words. -/
  | or (f : VOps)
  /-- XOR (R215). Bitwise XOR of two words. -/
  | xor (f : VOps)
  /-- ANDN (R215). a AND NOT b. -/
  | andn (f : VOps)
  /-- NOT (R215). Bitwise complement of a word. -/
  | not (f : VOps)
  /-- SHL (R216). Shift left by an unsigned count. -/
  | shl (f : VOps)
  /-- SHR (R216). Logical shift right by an unsigned count. -/
  | shr (f : VOps)
  /-- SAR (R216). Arithmetic shift right by an unsigned count. -/
  | sar (f : VOps)
  /-- FUNSH (R217). Funnel shift of the 64-bit value b:a, left or right. -/
  | funsh (f : VOps)
  /-- BFX (R218). Bit-field extract, signed or unsigned. -/
  | bfx (f : VOps)
  /-- BFI (R218). Bit-field insert of a into b. -/
  | bfi (f : VOps)
  /-- POPC (R219). Population count of a word. -/
  | popc (f : VOps)
  /-- CLZ (R219). Count of leading zero bits of a word. -/
  | clz (f : VOps)
  /-- CTZ (R219). Count of trailing zero bits of a word. -/
  | ctz (f : VOps)
  /-- BREV (R219). Bit reversal of a word. -/
  | brev (f : VOps)
  /-- PRMB (R220). Byte permutation from eight source bytes under nibble control. -/
  | prmb (f : VOps)
  /-- ICMP (R221). Integer compare that writes a predicate. -/
  | icmp (f : VOps)
  /-- ISEL (R222). Selects a or b by whether the third source is nonzero. -/
  | isel (f : VOps)
  /-- IADDC (R223). Add with carry-in, pushing the sum or the carry-out. -/
  | iaddc (f : VOps)
  /-- AGEN (R225). Forms a 64-bit address from a pair, a scaled index and a displacement. -/
  | agen (f : VOps)
  /-- IADD64 (R224). 64-bit addition or subtraction of pairs. -/
  | iadd64 (f : VOps)
  /-- IEXT (R226). Extracts one packed element, extended to 32 bits. -/
  | iext (f : VOps)
  /-- IDOT4 (R227). Four-way byte dot product added to an accumulator. -/
  | idot4 (f : VOps)
  /-- FADD (R241). FP32 addition, correctly rounded. -/
  | fadd (f : VOps)
  /-- FSUB (R241). FP32 subtraction, correctly rounded. -/
  | fsub (f : VOps)
  /-- FMUL (R241). FP32 multiplication, correctly rounded. -/
  | fmul (f : VOps)
  /-- FFMA (R241). FP32 fused multiply-add with one rounding. -/
  | ffma (f : VOps)
  /-- FMIN (R242). FP32 minimum, returning one operand bit for bit. -/
  | fmin (f : VOps)
  /-- FMAX (R242). FP32 maximum, returning one operand bit for bit. -/
  | fmax (f : VOps)
  /-- FCMP (R244). Floating compare that writes a predicate. -/
  | fcmp (f : VOps)
  /-- FCLASS (R245). Pushes a class mask for each floating element. -/
  | fclass (f : VOps)
  /-- FRND (R246). Rounds each element to an integral value. -/
  | frnd (f : VOps)
  /-- FSCALE (R247). Multiplies each element by 2^n with one rounding. -/
  | fscale (f : VOps)
  /-- FRCP (R248). Approximate reciprocal on the special-function pipe. -/
  | frcp (f : VOps)
  /-- FRSQ (R248). Approximate reciprocal square root. -/
  | frsq (f : VOps)
  /-- FSQRT (R241). Correctly rounded FP32 square root. -/
  | fsqrt (f : VOps)
  /-- FDIV (R241). Correctly rounded FP32 division. -/
  | fdiv (f : VOps)
  /-- FEX2 (R248). Approximate 2^x. -/
  | fex2 (f : VOps)
  /-- FLG2 (R248). Approximate log2 x. -/
  | flg2 (f : VOps)
  /-- FSIN (R248). Approximate sine. -/
  | fsin (f : VOps)
  /-- FCOS (R248). Approximate cosine. -/
  | fcos (f : VOps)
  /-- FTANH (R248). Approximate hyperbolic tangent. -/
  | ftanh (f : VOps)
  /-- FCVT (R251). Converts floating elements between formats, merging when it narrows. -/
  | fcvt (f : VOps)
  /-- FCVTI (R252). Converts one floating element to a 32-bit integer with saturation. -/
  | fcvti (f : VOps)
  /-- ICVTF (R253). Converts integer elements to a floating type. -/
  | icvtf (f : VOps)
  /-- HADD2 (R243). Packed FP16 or BF16 addition. -/
  | hadd2 (f : VOps)
  /-- HMUL2 (R243). Packed FP16 or BF16 multiplication. -/
  | hmul2 (f : VOps)
  /-- HFMA2 (R243). Packed FP16 or BF16 fused multiply-add. -/
  | hfma2 (f : VOps)
  /-- HMIN2 (R243). Packed FP16 or BF16 minimum. -/
  | hmin2 (f : VOps)
  /-- HMAX2 (R243). Packed FP16 or BF16 maximum. -/
  | hmax2 (f : VOps)
  /-- QSCL (R255). Turns a block maximum into an E8M0 scale byte. -/
  | qscl (f : VOps)
  /-- FPACK (R256). Quantises elements against a scale and packs them into a merge word. -/
  | fpack (f : VOps)
  /-- FUNPK (R257). Expands quantised elements times a scale into a floating type. -/
  | funpk (f : VOps)
  /-- QSWP (R261). Swaps words within a quad: horizontally, vertically or diagonally. -/
  | qswp (f : VOps)
  /-- QBC (R261). Broadcasts one quad lane's word within each quad. -/
  | qbc (f : VOps)
  /-- SHFL (R262). Shuffles words within segments by index, up, down or xor. -/
  | shfl (f : VOps)
  /-- VOTE (R264). Any, all, uniform or ballot vote over the contributing lanes. -/
  | vote (f : VOps)
  /-- REDV (R265). Reduces over the contributing lanes and pushes the result into every lane of E. -/
  | redv (f : VOps)
  /-- SCAN (R266). Inclusive or exclusive prefix over the lanes, using the REDV tree. -/
  | scan (f : VOps)
  /-- MATCH (R267). Pushes the mask of contributing lanes that hold an equal word. -/
  | matchLanes (f : VOps)
  /-- XSEND (R269). Offers a vector to another group of the workgroup at a rendezvous slot, parking until matched. -/
  | xsend (f : VOps)
  /-- XRECV (R269). Receives a vector at a rendezvous slot, parking until matched. -/
  | xrecv (f : VOps)
  /-- RDLANE (R261). Broadcasts lane n's word. -/
  | rdlane (f : VOps)
  /-- WRLANE (R263). Writes a frame slot of lane n alone. -/
  | wrlane (f : VOps)
  /-- SADD (R230). Scalar addition. -/
  | sadd (f : SOps)
  /-- SSUB (R230). Scalar subtraction. -/
  | ssub (f : SOps)
  /-- SMUL (R230). Scalar multiplication. -/
  | smul (f : SOps)
  /-- SAND (R230). Scalar AND. -/
  | sand (f : SOps)
  /-- SOR (R230). Scalar OR. -/
  | sor (f : SOps)
  /-- SXOR (R230). Scalar XOR. -/
  | sxor (f : SOps)
  /-- SSHL (R230). Scalar shift left. -/
  | sshl (f : SOps)
  /-- SSHR (R230). Scalar logical shift right. -/
  | sshr (f : SOps)
  /-- SSAR (R230). Scalar arithmetic shift right. -/
  | ssar (f : SOps)
  /-- SMIN (R230). Scalar minimum. -/
  | smin (f : SOps)
  /-- SMAX (R230). Scalar maximum. -/
  | smax (f : SOps)
  /-- SCMP (R231). Scalar compare that writes a scalar and a predicate in every lane of E. -/
  | scmp (f : SOps)
  /-- SSEL (R232). Scalar select by a nonzero selector. -/
  | ssel (f : SOps)
  /-- SMOVK (R232). Moves an indexed constant register into a scalar. -/
  | smovk (f : SOps)
  /-- SMOVI (R233). Writes a 32-bit literal, or the high half of a scalar. -/
  | smovi (f : SmoviOps)
  /-- SLD (R234). Scalar load of 1 to 8 bytes. -/
  | sld (f : SOps)
  /-- SST (R234). Scalar store of 1 to 8 bytes. -/
  | sst (f : SOps)
  /-- SPOPC (R230). Scalar population count. -/
  | spopc (f : SOps)
  /-- SCLZ (R230). Scalar count of leading zeros. -/
  | sclz (f : SOps)
  /-- SMOVS (R236). Scalar move, mask clip or member-word read. -/
  | smovs (f : SOps)
  /-- SBFX (R230). Scalar bit-field extract. -/
  | sbfx (f : SOps)
  /-- LD (R304). Loads one value per lane of E and pushes it. -/
  | ld (f : MOps)
  /-- ST (R305). Stores a value from each non-helper lane of E. -/
  | st (f : MOps)
  /-- LDL (R307). Reads one 128-byte line per beat as one event. -/
  | ldl (f : MOps)
  /-- STL (R307). Writes one 128-byte line per beat as one event. -/
  | stl (f : MOps)
  /-- ATOM (R308). Atomic read-modify-write at the single copy, pushing the old value. -/
  | atom (f : MOps)
  /-- ACAS (R309). Atomic compare-and-swap, pushing the old value. -/
  | acas (f : MOps)
  /-- FENCE (R310). Memory fence of the given order at the given scope. -/
  | fence (f : MOps)
  /-- PREF (R311). Prefetches a global line under a hint and never faults. -/
  | pref (f : MOps)
  /-- SPRES (R312). Pushes the presence bit of a scratchpad line. -/
  | spres (f : MOps)
  /-- INVL (R313). Drops the group's L1 line for an address at cluster scope or wider. -/
  | invl (f : MOps)
  /-- CPY (R333). Issues a strided copy command on timeline t0. -/
  | cpy (f : EOps)
  /-- CPYG (R334). Issues a gather command with optional pooling on t0. -/
  | cpyg (f : EOps)
  /-- CPYS (R335). Issues a scatter-add command on t0. -/
  | cpys (f : EOps)
  /-- CMT (R337). Commits a timeline's open batch and returns its number. -/
  | cmt (f : TOps)
  /-- WAITT (R338). Waits for a timeline batch count, or for a memory counter to reach a value. -/
  | waitt (f : TOps)
  /-- TLRD (R339). Reads a timeline's completed or committed count. -/
  | tlrd (f : TOps)
  /-- BAR (R340). Arrives at a workgroup barrier and parks until its phase completes. -/
  | bar (f : TOps)
  /-- BARC (R340). Arrives at a cluster barrier and parks until its phase completes. -/
  | barc (f : TOps)
  /-- ARV (R344). Arrives n times at a phase object as one atomic event. -/
  | arv (f : TOps)
  /-- WPH (R345). Waits until a phase of a phase object has completed. -/
  | wph (f : TOps)
  /-- YIELD (R346). Makes the group a swap candidate. -/
  | yield (f : TOps)
  /-- BTAKE (R353). Takes the core's baton, or queues in its FIFO and parks. -/
  | btake (f : TOps)
  /-- BPASS (R353). Passes the baton to the head of the FIFO and invalidates the A latch. -/
  | bpass (f : TOps)
  /-- MMS (R364). Queues one matrix step with A taken from six vector names. -/
  | mms (f : EOps)
  /-- MML (R365). Queues cnt matrix steps with A and B taken from scratchpad. -/
  | mml (f : EOps)
  /-- ACLR (R366). Clears a tile and sets its mode, optionally fixing its anchor. -/
  | aclr (f : EOps)
  /-- ALD (R368). Loads a tile region from scratchpad. -/
  | ald (f : EOps)
  /-- ADRN (R369). Drains a tile region to scratchpad, with optional scale generation. -/
  | adrn (f : EOps)
  /-- ADRV (R371). Drains tile cells into 40 frame slots per lane. -/
  | adrv (f : EOps)
  /-- TALLOC (R357). Allocates a tile, or parks until the tile is free. -/
  | talloc (f : EOps)
  /-- TFREE (R357). Gives up ownership of a tile. -/
  | tfree (f : EOps)
  /-- MCNT (R386). Queues one four-bit counting step. -/
  | mcnt (f : EOps)
  /-- MCNTL (R387). Queues cnt counting steps with operands from scratchpad. -/
  | mcntl (f : EOps)
  /-- MMRG (R388). Merges the counting run exactly into the COUNT tile's window. -/
  | mmrg (f : EOps)
  /-- CNTZ (R389). Empties the counting run without merging. -/
  | cntz (f : EOps)
  /-- BFLY (R397). Runs one transform stage on a REAL32 or CPLX32 tile. -/
  | bfly (f : EOps)
  /-- BFLYP (R397). Runs a plan of 1 to 16 transform stages as one command. -/
  | bflyp (f : EOps)
  /-- TWG (R391). Pushes the complex twiddle G(n, k) or its inverse. -/
  | twg (f : VOps)
  /-- ENQ (R119). Enters a job card into a job queue and returns its sequence number. -/
  | enq (f : TOps)
  /-- ENQD (R120). Publishes one data-queue record per non-helper lane. -/
  | enqd (f : TOps)
  /-- DEQ (R121). Takes one data-queue record per non-helper lane, waiting until published. -/
  | deq (f : TOps)
  /-- DCADD (R122). Adds to a dependence counter and releases held cards when it reaches zero. -/
  | dcadd (f : TOps)
  /-- DCRD (R123). Reads a dependence counter. -/
  | dcrd (f : TOps)
  /-- FRES (R124). Resolves or resets a future. -/
  | fres (f : TOps)
  /-- FJOIN (R125). Registers a continuation card on up to four futures with a join count. -/
  | fjoin (f : TOps)
  /-- FGET (R126). Reads a future, optionally waiting until it is resolved. -/
  | fget (f : TOps)
  /-- NEXTCH (R127). Claims a further chunk of the job for the calling group. -/
  | nextch (f : TOps)
  /-- TINFO (R128). Writes one selected fact of the group's job. -/
  | tinfo (f : TOps)
  /-- TRAP (R408). Raises SOFTWARE_TRAP with a code. -/
  | trap (f : TOps)
  /-- BPT (R408). Raises BREAKPOINT, or debug-stops the group when BPSTOP is set. -/
  | bpt (f : TOps)
  /-- TRET (R409). Leaves the handler: resumes, skips the faulting instruction or terminates. -/
  | tret (f : TOps)
  /-- CSRR (R410). Reads a control register. -/
  | csrr (f : TOps)
  /-- CSRW (R410). Writes a control register. -/
  | csrw (f : TOps)
  /-- TIME (R412). Reads the virtual time of the VF. -/
  | time (f : TOps)
  /-- CTRRD (R413). Reads a programmable counter. -/
  | ctrrd (f : TOps)
  /-- CTRCFG (R413). Configures a programmable counter. -/
  | ctrcfg (f : TOps)
  /-- FLAGS (R411). Pushes the sticky flags and reported bits of each lane. -/
  | flags (f : VOps)
  /-- FLCLR (R411). Clears selected sticky flags and reported bits. -/
  | flclr (f : VOps)
  /-- MISS_DATA_RETURN (R304). The data of an L1 miss or a long-latency access returns and lands in its reserved slot. -/
  | missDataReturn (core slot id : Nat)
  /-- STORE_QUEUE_DRAIN (R306). The oldest beat leaves the store queue and is performed. -/
  | storeQueueDrain (core slot : Nat)
  /-- PAGE_WALK (R295). A translation walk completes, setting A and D bits or finding a translation fault. -/
  | pageWalk (part die : Nat)
  /-- ACCESS_REPLAY (R299). A waiting access is replayed after RESUME and retranslated from the start. -/
  | accessReplay (core slot : Nat)
  /-- ICACHE_FILL (R144). A bundle fetched for a miss or a prefetch arrives in the instruction cache. -/
  | icacheFill (core slot : Nat) (bundle : DWord)
  /-- BUNDLE_REFETCH (R47). A bundle that failed its check is refetched and checked again. -/
  | bundleRefetch (core slot : Nat)
  /-- CARD_PARSE (R96). The job dealer parses an entered card, refusing it if any check fails. -/
  | cardParse (vf q : Nat)
  /-- FENCE_CONDITION_MET (R102). The conditions of a FENCE card hold and the card completes. -/
  | fenceConditionMet (vf q : Nat)
  /-- DEAL_CHUNK (R104). The dealer deals a sized chunk of a ready job to a fitting core. -/
  | dealChunk (part : Nat)
  /-- STEAL_CHUNK (R107). An idle core steals the latter half of an unstarted chunk. -/
  | stealChunk (core : Nat)
  /-- WORKGROUP_START (R61). A workgroup starts on a dealt chunk once its rows and k table are ready. -/
  | workgroupStart (core : Nat)
  /-- JOB_COMPLETE (R108). A job completes and the dealer performs its completion actions in order. -/
  | jobComplete (job : Nat)
  /-- COPY_PIECE (R322). The copy engine reads or writes one aligned line piece of a copy command. -/
  | copyPiece (core cmd : Nat) (write : Bool) (row ofs : Nat)
  /-- COPY_COMPLETE (R333). A copy command completes, with notification and future resolution. -/
  | copyComplete (core cmd : Nat)
  /-- ENGINE_COMMAND_START (R351). A queued matrix-engine command starts on its path once earlier commands allow. -/
  | engineCommandStart (core cmd : Nat) (early : List Nat)
  /-- ENGINE_COMMAND_COMPLETE (R352). A matrix, counting or butterfly command writes its last effect and completes. -/
  | engineCommandComplete (core cmd : Nat)
  /-- ADRV_DRAIN (R371). An issued ADRV drains the tile into its pending frame slots after the tile's commands complete. -/
  | adrvDrain (core cmd : Nat)
  /-- SCHEDULER_SWAP (R149). A swap candidate exchanges its active slot with the best ready pending group. -/
  | schedulerSwap (core act : Nat)
  /-- FORCED_SWAP (R150). A pending group ready for 2048 clocks is swapped in. -/
  | forcedSwap (core : Nat)
  /-- FREE_SLOT_FILL (R494). A free active slot is filled by the best ready pending group. -/
  | freeSlotFill (core : Nat)
  /-- GATING_ENTRY (R167). A core idle for GIDLE clocks enters power gating. -/
  | gatingEntry (core : Nat)
  /-- GATING_HOLDOFF_EXPIRE (R168). The 4096-clock hold-off after an abort expires. -/
  | gatingHoldoffExpire (core : Nat)
  /-- GATING_EXIT_DONE (R169). Exit from gating completes after 1100 clocks and held wakes are delivered. -/
  | gatingExitDone (core : Nat)
  /-- PREEMPT_REQ (R414). A write of REQ starts stopping a VF and stops its dealing. -/
  | preemptReq (vf : Nat)
  /-- GROUP_PREEMPT_STOP (R415). A group of the stopping VF halts at a listed bundle or where it is parked. -/
  | groupPreemptStop (core slot : Nat)
  /-- PREEMPT_TIMEOUT (R415). A group not stopped 2^20 clocks after REQ stops with whole state. -/
  | preemptTimeout (core slot : Nat)
  /-- PREEMPT_RESUME (R420). A write of RESUME starts resuming a halted VF. -/
  | preemptResume (vf : Nat)
  /-- GROUP_RESUME (R420). A halted group regains its rows, spilled bytes and tiles and resumes. -/
  | groupResume (core slot : Nat)
  /-- ROW_CLAIM_COMPLETE (R418). The spill writes of claimed rows are accepted and the rows pass to the new owner. -/
  | rowClaimComplete (core : Nat)
  /-- TILE_SPILL (R419). A halted group's tile or run is spilled to the tile save pool. -/
  | tileSpill (core : Nat) (tile : Fin 4)
  /-- QUANTUM_EXPIRE (R425). A sliced turn's quantum ends and a world switch takes place. -/
  | quantumExpire (part : Nat)
  /-- GROUP_RETIRE (R422). A group whose last lane exits retires through its ordered steps. -/
  | groupRetire (core slot : Nat)
  /-- GROUP_TERMINATE (R405). A group terminated by a fault commits, waits and releases its resources. -/
  | groupTerminate (core slot : Nat)
  /-- ENGINE_FAULT_DELIVERY (R404). A queued engine fault is delivered at the group's next instruction boundary. -/
  | engineFaultDelivery (core slot : Nat)
  /-- DEBUG_HALT (R448). The HALT debug command stops the target group. -/
  | debugHalt (vf gid : Nat)
  /-- DEBUG_STEP (R448). The STEP debug command issues one instruction, then stops. -/
  | debugStep (vf gid : Nat)
  /-- DEBUG_FOCUS (R449). The FOCUS debug command defers all lanes but one into a pending entry. -/
  | debugFocus (vf gid : Nat) (lane : Nat)
  /-- DEBUG_UNFOCUS (R448). The UNFOCUS debug command clears the focus. -/
  | debugUnfocus (vf gid : Nat)
  /-- DEBUG_RUN (R448). The RUN debug command ends a debug stop. -/
  | debugRun (vf gid : Nat)
  /-- DEBUG_DUMP (R450). The DUMP debug command writes the stopped group's context to DUMPVA. -/
  | debugDump (vf gid : Nat)
  /-- INSTRUCTION_SAMPLE (R451). The sample period expires and a sample record is written. -/
  | instructionSample (core act : Nat)
  /-- JOB_QUEUE_DOORBELL (R99). A JQDOOR write is accepted or ignored, and enters ring cards for parsing. -/
  | jobQueueDoorbell (vf q : Nat) (p : BitVec 32)
  /-- QUEUE_EN_WRITE (R98). A write of EN enables a queue with counters reset, or disables it. -/
  | queueEnWrite (vf : Nat) (data : Bool) (q : Nat) (value : DWord)
  /-- FAULT_RESUME (R298). A RESUME write replays every access waiting on records up to SEQ. -/
  | faultResume (fn : Nat) (seq : BitVec 32)
  /-- FQCONS_WRITE (R299). Writing FQCONS frees ring space and retries withheld records. -/
  | fqconsWrite (fn : Nat) (value : BitVec 32)
  /-- BIAS_FLIP_TO_DEVICE (R292). A PAGE write with TARGET 0 starts a flip to device bias. -/
  | biasFlipToDevice (vf : Nat) (page : DWord)
  /-- BIAS_FLIP_TO_HOST (R292). A PAGE write with TARGET 1 starts a flip to host bias. -/
  | biasFlipToHost (vf : Nat) (page : DWord)
  /-- BIAS_FLIP_COMPLETE (R293). A bias flip completes and BUSY clears with a RESULT. -/
  | biasFlipComplete (vf : Nat)
  /-- TLB_INVALIDATE_RANGE (R296). An INVVA write invalidates INVLEN pages of the context. -/
  | tlbInvalidateRange (vf : Nat) (va : DWord)
  /-- TLB_INVALIDATE_ALL (R296). Writing ALL invalidates every entry of the context. -/
  | tlbInvalidateAll (vf : Nat)
  /-- STAGE2_INVALIDATE (R296). An INV2 write invalidates every entry of a VF. -/
  | stage2Invalidate (vf : Nat)
  /-- INVALIDATION_COMPLETE (R296). The entries are dropped and their accesses served, so BUSY clears. -/
  | invalidationComplete (vf : Nat) (stage2 : Bool)
  /-- PLACEMENT_WRITE (R133). A placement block write is applied, or ignored with a PLERR bit set. -/
  | placementWrite (die : Nat) (ofs : Nat) (value : DWord)
  /-- VFBIND_WRITE (R134). Binds a VF to a partition, or is ignored with a PLERR bit set. -/
  | vfbindWrite (vf : Nat) (value : DWord)
  /-- POLICY_SUBMIT (R443). A POLSUB write passes a policy blob to the Afnan controller. -/
  | policySubmit (value : DWord)
  /-- POLICY_VERIFY_DONE (R443). Verification ends, locking the policy or refusing it with a reason. -/
  | policyVerifyDone (part : Nat)
  /-- POLICY_TEARDOWN (R443). Tears down a partition's policy and draws a new nonce. -/
  | policyTeardown (part : Nat)
  /-- QUOTE_REQUEST (R464). A QREQ write requests a signed attestation quote. -/
  | quoteRequest (value : DWord)
  /-- QUOTE_COMPLETE (R464). The quote is signed and written, or refused, and BUSY clears. -/
  | quoteComplete
  /-- LATENCY_MONITOR_CONFIG (R437). A write to the monitor configuration starts a fresh window. -/
  | latencyMonitorConfig (vf q : Nat) (value : DWord)
  /-- LOG_OVF_CLEAR (R435). Clearing LOG_OVF resumes dirty-page logging from the next event. -/
  | logOvfClear (vf : Nat)
  /-- HALF_READ_LOW (R430). A 32-bit low-half read returns bits 31:0 and latches the high half into the path's shadow. -/
  | halfReadLow (path : HostPath) (vf ofs : Nat)
  /-- HALF_READ_HIGH (R430). A 32-bit high-half read returns the path's shadow. -/
  | halfReadHigh (path : HostPath) (vf ofs : Nat)
  /-- WARM_START (R465). A write of WARM starts a warm start. -/
  | warmStart
  /-- REGISTER_WRITE (R5). A write to a register that has no behaviour of its own updates its writable fields. -/
  | registerWrite (fn ofs : Nat) (value : DWord)
  /-- COLD_START (R465). Power-on runs the cold start sequence. -/
  | coldStart
  /-- PCIE_RESET (R465). A reset requested through PCI Express runs the warm start sequence. -/
  | pcieReset
  /-- SOFT_ERROR (R300). An ECC error is corrected and counted, or marks its data poisoned. -/
  | softError (die : Nat) (correctable : Bool) (pa : Nat)
  /-- HOST_MEM_ACCESS (R292). A host access through CXL.mem is served at the owning slice. -/
  | hostMemAccess (write : Bool) (pa : Nat) (bytes : List Byte)
  /-- REMOTE_FRAME_RECEIVE (R461). An Osier frame arrives and its piece is applied at the target: one that the module knows, or
  what another device sends. -/
  | remoteFrameReceive (frame : FrameIn)
  /-- OSIER_RETRANSMIT (R457). A frame unacknowledged for 4 µs is retransmitted. -/
  | osierRetransmit (frame : Nat)
  /-- OSIER_PORT_FAIL (R460). A port unacknowledged for 1 ms fails, and its frames are rerouted or ended. -/
  | osierPortFail (port : Nat)
  /-- DROOP_DETECT (R467). A supply droop stretches the core clock to 7/8. -/
  | droopDetect (core : Nat)
  /-- CLOCK_RETURN_STEP (R467). Each µs after a sag the clock returns by 1/64. -/
  | clockReturnStep (core : Nat)
  /-- POWER_CAP_STEP (R468). Each ms the averaged power adjusts core clocks by 1/64 against the cap. -/
  | powerCapStep (watts : Nat)
  /-- THERMAL_THROTTLE (R468). A die above 105 °C is throttled. -/
  | thermalThrottle (die : Nat) (tenths : Nat)
  /-- THERMAL_SHUTDOWN (R468). At 115 °C every core stops and a record is written. -/
  | thermalShutdown (die : Nat) (tenths : Nat)
  /-- SAG_END (R467). The droop detector reports that a supply sag has ended, which starts the clock's return from 7/8 in steps of 1/64. -/
  | sagEnd (core : Nat)
  /-- POWER_LOSS (R463). Supply power is lost, and only counter-protected non-volatile state such as the signature index and the anti-rollback counter survives. -/
  | powerLoss
  /-- OSIER_PORT_ENABLE (R458). A write to PEN enables an Osier port, which starts its training, or disables it, which takes the port down. -/
  | osierPortEnable (port : Nat) (enable : Bool)
  /-- OSIER_PORT_UP (R458). An Osier port finishes training and its PSTATE moves from training to up. -/
  | osierPortUp (port : Nat)
  /-- SPILLED_LINE_ARRIVAL (R420). A spilled scratchpad line read back from the save area arrives at resume, which sets its presence bit and releases accesses waiting on it. -/
  | spilledLineArrival (core wg line : Nat)
deriving DecidableEq, Repr

end Sys2Proof
end

