-- ==== Sys2Proof/Machine/Admit.lean ====
section
/-! DEFINITION. Which field values each instruction admits (R63 to R82 and the tables of R181, R201, R210, R229, R239,
R259 and of the entries of formats M, E and T), as data: one row per opcode, and the causes of R65 that a word can
have once its fields are read. -/

namespace Sys2Proof.Machine

/-! ## Codes of types, scopes and names (R68, R71, R78, R81) -/

/-- The code of a type (R68). -/
def tyCode : Ty → Nat
  | .i32 => 0
  | .n32 => 1
  | .f32 => 2
  | .f16x2 => 3
  | .bf16x2 => 4
  | .i16x2 => 5
  | .n16x2 => 6
  | .i8x4 => 7
  | .n8x4 => 8
  | .d8x4 => 9
  | .e4m3x4 => 10
  | .f4x8 => 11
  | .i64 => 12
  | .n64 => 13

/-- The type of a code: 0 to 13 stand for the types of R68, 14 and 15 are reserved. -/
def tyOfCode (n : Nat) : Option Ty :=
  match n with
  | 0 => some .i32
  | 1 => some .n32
  | 2 => some .f32
  | 3 => some .f16x2
  | 4 => some .bf16x2
  | 5 => some .i16x2
  | 6 => some .n16x2
  | 7 => some .i8x4
  | 8 => some .n8x4
  | 9 => some .d8x4
  | 10 => some .e4m3x4
  | 11 => some .f4x8
  | 12 => some .i64
  | 13 => some .n64
  | _ => none

/-- A pair type (R79). -/
def tyPair (t : Ty) : Bool := t == .i64 || t == .n64

/-- Elements of one word of a type (R209, R238). -/
def tyElems : Ty → Nat
  | .i32 | .n32 | .f32 | .i64 | .n64 => 1
  | .f16x2 | .bf16x2 | .i16x2 | .n16x2 => 2
  | .i8x4 | .n8x4 | .d8x4 | .e4m3x4 => 4
  | .f4x8 => 8

/-- Bits of one element of a type. -/
def tyWidth (t : Ty) : Nat := if tyPair t then 64 else 32 / tyElems t

def scopeCode : Scope → Nat
  | .group => 0
  | .workgroup => 1
  | .cluster => 2
  | .die => 3
  | .device => 4
  | .system => 5

def scopeOfCode (n : Nat) : Option Scope :=
  match n with
  | 0 => some .group
  | 1 => some .workgroup
  | 2 => some .cluster
  | 3 => some .die
  | 4 => some .device
  | 5 => some .system
  | _ => none

def specialCode : Special → Nat
  | .lane => 0
  | .quad => 1
  | .qlane => 2
  | .gid => 3
  | .wgid => 4
  | .wgn => 5
  | .clrank => 6
  | .core => 7
  | .die => 8
  | .chunk => 9

def specialOfCode (n : Nat) : Option Special :=
  match n with
  | 0 => some .lane
  | 1 => some .quad
  | 2 => some .qlane
  | 3 => some .gid
  | 4 => some .wgid
  | 5 => some .wgn
  | 6 => some .clrank
  | 7 => some .core
  | 8 => some .die
  | 9 => some .chunk
  | _ => none

/-- The 10-bit code of a vector name (R78). -/
def vnameCode : VName → Nat
  | .age a => a.val
  | .frame n => 0x40 + n.val
  | .konst n => 0x300 + n.val
  | .scalar n => 0x380 + n.val
  | .special x => 0x3C0 + specialCode x
  | .zero => 0x3E0
  | .imm => 0x3E1

/-- The vector name of a 10-bit code; none for a reserved code (R78). -/
def vnameOfCode (c : Nat) : Option VName :=
  if h : c < 0x40 then some (.age ⟨c, h⟩)
  else if h2 : c < 0x300 then some (.frame ⟨c - 0x40, by omega⟩)
  else if h3 : c < 0x380 then some (.konst ⟨c - 0x300, by omega⟩)
  else if h4 : c < 0x3C0 then some (.scalar ⟨c - 0x380, by omega⟩)
  else if c < 0x3E0 then (specialOfCode (c - 0x3C0)).map .special
  else if c = 0x3E0 then some .zero
  else if c = 0x3E1 then some .imm
  else none

/-- The 8-bit code of a scalar name (R81). -/
def snameCode : SName → Nat
  | .scalar n => n.val
  | .konst n => 0x40 + n.val
  | .gid => 0xC0
  | .wgid => 0xC1
  | .wgn => 0xC2
  | .clrank => 0xC3
  | .core => 0xC4
  | .die => 0xC5
  | .job => 0xC6
  | .part => 0xC7
  | .vf => 0xC8
  | .zero => 0xFE
  | .imm => 0xFF

/-- The scalar name of an 8-bit code; none for a reserved code (R81). -/
def snameOfCode (c : Nat) : Option SName :=
  if h : c < 0x40 then some (.scalar ⟨c, h⟩)
  else if h2 : c < 0xC0 then some (.konst ⟨c - 0x40, by omega⟩)
  else match c with
    | 0xC0 => some .gid
    | 0xC1 => some .wgid
    | 0xC2 => some .wgn
    | 0xC3 => some .clrank
    | 0xC4 => some .core
    | 0xC5 => some .die
    | 0xC6 => some .job
    | 0xC7 => some .part
    | 0xC8 => some .vf
    | 0xFE => some .zero
    | 0xFF => some .imm
    | _ => none

/-- The 4-bit code of a guard (R62). -/
def guardCode (g : Guard) : Nat := (if g.inv then 8 else 0) + g.p.val

def guardOfCode (c : Nat) : Guard := ⟨decide (8 ≤ c % 16), ⟨c % 8, Nat.mod_lt _ (by decide)⟩⟩

/-- A guard or condition encoded !p0 (R63, R75). -/
def guardBad (g : Guard) : Bool := g.inv && g.p == 0

/-- Guards that must be 0000 (R181, R201). -/
def guardsNull (g1 g2 : Guard) : Bool := guardCode g1 == 0 && guardCode g2 == 0

/-! ## Format V (R67, R181, R210, R239, R259) -/

/-- What an instruction does with a vector name field: leaves it unused, reads a word, reads a pair, writes one frame
slot or two, or computes a range from it by its own entry. -/
inductive Use where
  | no | word | pair | dest | dest2 | range
deriving DecidableEq, Repr

/-- Whether the field is a source that can name imm8. -/
def useReads (u : Use) : Bool := u == .word || u == .pair

/-- The row of an instruction of format V: the types it admits, the use of its three name fields, whether imm8 has a
role of its own, whether it writes a predicate through imm8, and the other field values it admits (0x07). -/
structure VRule where
  types : List Ty
  uses : VOps → Use × Use × Use
  immOwn : VOps → Bool := fun _ => false
  immPred : VOps → Bool := fun _ => false
  ok : VOps → Bool

def tyInts : List Ty := [.i32, .n32, .i16x2, .n16x2, .i8x4, .n8x4]
def tyWords2 : List Ty := [.i32, .n32]
def tyNoPair : List Ty :=
  [.i32, .n32, .f32, .f16x2, .bf16x2, .i16x2, .n16x2, .i8x4, .n8x4, .d8x4, .e4m3x4, .f4x8]
def tyAll : List Ty := tyNoPair ++ [.i64, .n64]
def tyFloats : List Ty := [.f32, .f16x2, .bf16x2]
def tyCvt : List Ty := [.f32, .f16x2, .bf16x2, .d8x4, .e4m3x4, .f4x8]

def uses1 : VOps → Use × Use × Use := fun _ => (.word, .no, .no)
def uses2 : VOps → Use × Use × Use := fun _ => (.word, .word, .no)
def uses3 : VOps → Use × Use × Use := fun _ => (.word, .word, .word)

def isFrame : VName → Bool
  | .frame _ => true
  | _ => false

def isAge : VName → Bool
  | .age _ => true
  | _ => false

def isScalarOrK : VName → Bool
  | .konst _ => true
  | .scalar _ => true
  | _ => false

/-- imm8 as a number. -/
def immN (f : VOps) : Nat := f.imm.toNat
def modN (f : VOps) : Nat := f.mod.toNat
/-- MOD[10:9]. -/
def modLow (f : VOps) : Nat := f.mod.toNat % 4
/-- MOD[12:11]. -/
def modHigh (f : VOps) : Nat := f.mod.toNat / 4

def modZero (f : VOps) : Bool := modN f == 0

/-- Destination types of FCVT and ICVTF (R251): 2, 3, 4, 9, 10, 11. -/
def cvtDest (n : Nat) : Bool := [2, 3, 4, 9, 10, 11].contains n

/-- Elements of a destination type code. -/
def codeElems (n : Nat) : Nat := match tyOfCode n with
  | some t => tyElems t
  | none => 1

/-- Whether a conversion with `es` source and `ed` destination elements narrows. -/
def narrows (es ed : Nat) : Bool := decide (es < ed)

/-- The limit on the group index j (R250). -/
def jOk (es ed j : Nat) : Bool :=
  if ed < es then decide (j < es / ed) else if es < ed then decide (j < ed / es) else j == 0

/-- Elements per word of an element format code (R254). -/
def fmtElems (c : Nat) : Nat := if c = 2 ∨ c = 4 then 8 else 4

/-- The fields of a conversion to a floating destination (R251, R253). -/
def cvtOk (es : Nat) (f : VOps) : Bool :=
  let d := immN f % 16
  let s := immN f / 16 % 2
  let j := immN f / 32
  cvtDest d && jOk es (codeElems d) j && (s == 0 || d == 9 || d == 10) &&
    ((d != 9 && d != 11) || modLow f == 0)

/-- The name fields of a conversion: b is the merge word where the conversion narrows (R250); a destination that is not
admitted says nothing of b. -/
def cvtUses (f : VOps) : Use × Use × Use :=
  let d := immN f % 16
  (.word, if !cvtDest d || narrows (tyElems f.ty) (codeElems d) then .word else .no, .no)

/-- The MOD and imm8 values of REDV and SCAN (R259, R265, R266). -/
def redvOk (op : Nat) (f : VOps) : Bool :=
  let o := immN f % 8
  let num := immN f / 8 % 2
  let fields := if f.ty = .f32 then decide (o ≤ 2) && (modLow f == 0 || o == 0) && (num == 0 || o == 1 || o == 2)
    else modZero f && decide (o ≤ 5) && num == 0
  fields && (if op = 0x0C4 then immN f / 16 == 0 else immN f / 32 == 0)

/-- The row of an opcode of format V; PLOP is not here. An imm8 that R187 or R189 wants zero is a field value that is not
admitted (DEDUCED, assumption 27). -/
def vrule (op : Nat) : VRule :=
  match op with
  | 0x020 => { types := tyNoPair, uses := uses1, ok := modZero }
  | 0x021 => { types := tyAll, uses := fun f => if tyPair f.ty then (.pair, .no, .no) else (.word, .word, .no),
               ok := modZero }
  | 0x022 => { types := tyAll, uses := fun f => if tyPair f.ty then (.dest2, .pair, .no) else (.dest, .word, .no),
               ok := fun f => modZero f && isFrame f.a }
  | 0x023 => { types := [.i32], uses := fun _ => (.range, .range, .no), immOwn := fun _ => true,
               ok := fun f => modZero f && isFrame f.a && isAge f.b && decide (1 ≤ immN f) && decide (immN f ≤ 64) }
  | 0x024 => { types := [.i32], uses := uses1, ok := fun f => modZero f && (isScalarOrK f.a || f.a == .imm) }
  | 0x025 => { types := [.i32], uses := fun _ => (.no, .no, .no), immOwn := fun _ => true,
               ok := fun f => modZero f && guardsNull f.g1 f.g2 && decide (immN f ≤ 126) }
  | 0x026 => { types := [.i32], uses := uses1, immOwn := fun _ => true, immPred := fun _ => true,
               ok := fun f => decide (modN f ≤ 3) && (decide (2 ≤ modN f) || immN f / 8 == 0) }
  | 0x028 => { types := [.i32], uses := fun _ => (.no, .no, .no), immOwn := fun _ => true,
               ok := fun f => decide (modN f ≤ 2) && (if modN f = 0 then immN f == 0 else immN f / 8 == 0) }
  | 0x040 | 0x041 | 0x042 | 0x047 | 0x048 | 0x04B | 0x04C => { types := tyInts, uses := uses2, ok := modZero }
  | 0x043 | 0x046 => { types := tyWords2, uses := uses2, ok := modZero }
  | 0x044 => { types := tyInts, uses := uses3, ok := modZero }
  | 0x045 => { types := tyWords2, uses := fun _ => (.word, .word, .pair), ok := modZero }
  | 0x049 | 0x04A => { types := [.i32, .i16x2, .i8x4], uses := uses1, ok := fun f => decide (modN f ≤ 1) }
  | 0x04D | 0x04E | 0x04F | 0x050 => { types := tyNoPair, uses := uses2, ok := modZero }
  | 0x051 => { types := tyNoPair, uses := uses1, ok := modZero }
  | 0x052 | 0x053 | 0x054 | 0x056 => { types := tyWords2, uses := uses2, ok := modZero }
  | 0x055 | 0x05F => { types := tyWords2, uses := uses3, ok := fun f => decide (modN f ≤ 1) }
  | 0x057 | 0x05C => { types := tyWords2, uses := uses3, ok := modZero }
  | 0x058 | 0x059 | 0x05A | 0x05B => { types := tyWords2, uses := uses1, ok := modZero }
  | 0x05D => { types := [.i32, .n32, .i64, .n64],
               uses := fun f => if tyPair f.ty then (.pair, .pair, .no) else (.word, .word, .no),
               immOwn := fun _ => true, immPred := fun _ => true,
               ok := fun f => modZero f && decide (immN f / 8 ≤ 5) }
  | 0x05E => { types := tyNoPair, uses := uses3, ok := modZero }
  | 0x060 => { types := [.i64, .n64], uses := fun _ => (.pair, .word, .word), ok := fun f => modHigh f == 0 }
  | 0x061 => { types := [.i64, .n64], uses := fun _ => (.pair, .pair, .no), ok := fun f => decide (modN f ≤ 1) }
  | 0x062 => { types := [.i16x2, .n16x2, .i8x4, .n8x4, .f4x8], uses := uses1, immOwn := fun _ => true,
               ok := fun f => modZero f && decide (immN f < tyElems f.ty) }
  | 0x063 => { types := [.i8x4, .n8x4], uses := uses3, ok := fun f => modHigh f == 0 }
  | 0x080 | 0x081 | 0x082 | 0x08D => { types := [.f32], uses := uses2, ok := fun _ => true }
  | 0x083 => { types := [.f32], uses := uses3, ok := fun _ => true }
  | 0x084 | 0x085 => { types := [.f32], uses := uses2, ok := fun f => modLow f % 2 == 0 }
  | 0x086 => { types := [.f32], uses := uses2, immOwn := fun _ => true, immPred := fun _ => true,
               ok := fun f => modLow f / 2 == 0 && immN f / 128 == 0 &&
                 (decide (immN f / 8 % 8 ≤ 5) || immN f / 64 % 2 == 0) }
  | 0x087 => { types := tyFloats, uses := uses1, ok := fun f => modLow f == 0 }
  | 0x088 => { types := tyFloats, uses := uses1, immOwn := fun _ => true, ok := fun f => decide (immN f ≤ 1) }
  | 0x089 => { types := tyFloats, uses := uses2, ok := fun _ => true }
  | 0x08A | 0x08B | 0x08E | 0x08F | 0x090 | 0x091 | 0x092 =>
    { types := [.f32], uses := uses1, ok := fun f => modLow f == 0 }
  | 0x08C => { types := [.f32], uses := uses1, ok := fun _ => true }
  | 0x093 => { types := tyCvt,
               uses := cvtUses, immOwn := fun _ => true, ok := fun f => cvtOk (tyElems f.ty) f }
  | 0x094 => { types := tyCvt, uses := uses1, immOwn := fun _ => true,
               ok := fun f => decide (immN f % 16 ≤ 1) && decide (immN f / 32 < tyElems f.ty) }
  | 0x095 => { types := [.i32, .n32, .i16x2, .n16x2, .i8x4, .n8x4, .f4x8],
               uses := cvtUses, immOwn := fun _ => true, ok := fun f => modHigh f == 0 && cvtOk (tyElems f.ty) f }
  | 0x096 | 0x097 => { types := [.f16x2, .bf16x2], uses := uses2, ok := fun _ => true }
  | 0x098 => { types := [.f16x2, .bf16x2], uses := uses3, ok := fun _ => true }
  | 0x099 | 0x09A => { types := [.f16x2, .bf16x2], uses := uses2, ok := fun f => modLow f % 2 == 0 }
  | 0x09B => { types := [.f32], uses := uses1, immOwn := fun _ => true,
               ok := fun f => modLow f == 0 && decide (immN f ≤ 4) }
  | 0x09C => { types := tyFloats, uses := uses3, immOwn := fun _ => true,
               ok := fun f => decide (immN f % 8 ≤ 4) && immN f / 8 % 2 == 0 &&
                 (immN f / 16 % 2 == 0 || decide (immN f % 8 ≤ 1)) && (modLow f == 0 || immN f % 8 == 1) &&
                 jOk (tyElems f.ty) (fmtElems (immN f % 8)) (immN f / 32) }
  | 0x09D => { types := tyFloats, uses := uses2, immOwn := fun _ => true,
               ok := fun f => modHigh f == 0 && decide (immN f % 8 ≤ 4) && immN f / 8 % 4 == 0 &&
                 jOk (fmtElems (immN f % 8)) (tyElems f.ty) (immN f / 32) }
  | 0x0C0 => { types := tyNoPair, uses := uses1, ok := fun f => decide (modN f ≤ 2) }
  | 0x0C1 => { types := tyNoPair, uses := uses1, immOwn := fun _ => true,
               ok := fun f => modZero f && decide (immN f ≤ 3) }
  | 0x0C2 => { types := tyNoPair, uses := uses2, immOwn := fun _ => true,
               ok := fun f => modHigh f == 0 && decide (immN f ≤ 5) }
  | 0x0C3 => { types := tyNoPair, uses := uses1, immOwn := fun _ => true, immPred := fun f => modLow f != 3,
               ok := fun f => modHigh f == 0 && (if modLow f = 3 then decide (immN f ≤ 2) else immN f / 8 == 0) }
  | 0x0C4 | 0x0C5 => { types := [.i32, .n32, .f32], uses := uses1, immOwn := fun _ => true,
                       ok := redvOk op }
  | 0x0C6 => { types := tyNoPair, uses := uses1, immOwn := fun _ => true,
               ok := fun f => modZero f && decide (immN f ≤ 2) }
  | 0x0C7 => { types := tyNoPair, uses := uses1, immOwn := fun _ => true,
               ok := fun f => modZero f && decide (immN f ≤ 15) }
  | 0x0C8 => { types := [.i32], uses := fun _ => (.no, .no, .no), immOwn := fun _ => true,
               ok := fun f => modZero f && decide (immN f ≤ 15) }
  | 0x166 => { types := tyWords2, uses := uses2, ok := fun f => decide (modN f ≤ 1) }
  | 0x1A5 => { types := [.i32], uses := fun _ => (.no, .no, .no), ok := modZero }
  | 0x1A6 => { types := [.i32], uses := fun _ => (.no, .no, .no), immOwn := fun _ => true,
               ok := fun f => modZero f && decide (immN f ≤ 63) }
  | 0x0C9 => { types := tyNoPair, uses := uses1, immOwn := fun _ => true,
               ok := fun f => modZero f && decide (immN f ≤ 95) }
  | 0x0CA => { types := tyWords2, uses := fun _ => (.dest, .word, .no), immOwn := fun _ => true,
               ok := fun f => modZero f && decide (immN f ≤ 95) && isFrame f.a && (isScalarOrK f.b || f.b == .zero) }
  | _ => { types := [], uses := fun _ => (.no, .no, .no), ok := fun _ => false }

/-- The first cause that holds, of causes listed in rising subcode order (R65). -/
def firstCause : List (Nat × Bool) → Option Nat
  | [] => none
  | (n, b) :: r => if b then some n else firstCause r

/-- Whether some source field that is read names imm8. -/
def namesImm (u : Use × Use × Use) (f : VOps) : Bool :=
  (useReads u.1 && f.a == .imm) || (useReads u.2.1 && f.b == .imm) || (useReads u.2.2 && f.c == .imm)

/-- An unused name field that does not hold 0x3E0. -/
def nameUnnull (u : Use) (x : VName) : Bool := u == .no && x != .zero

/-- The lowest subcode of a word of format V whose fields are f (R65, R82); a type outside the list of the instruction's rule is
0x03 (R68). -/
def admitV (op : Nat) (f : VOps) : Option Nat :=
  let r := vrule op
  let u := r.uses f
  let own := r.immOwn f
  let prd := r.immPred f
  firstCause [
    (3, !r.types.contains f.ty),
    (5, nameUnnull u.1 f.a || nameUnnull u.2.1 f.b || nameUnnull u.2.2 f.c || (!own && !namesImm u f && immN f != 0)),
    (6, guardBad f.g1 || guardBad f.g2),
    (7, !r.ok f || (own && !prd && namesImm u f) || (!own && namesImm u f && f.ty == .f4x8 && immN f / 16 != 0)),
    (8, prd && (namesImm u f || immN f % 8 == 0))]

/-- PLOP (R188): TYPE carries pb; bit [16] is marked zero, so the word's decoder checks it (DEDUCED, assumption 10). -/
def admitPlop (f : PlopOps) : Option Nat :=
  firstCause [(6, guardBad f.g1 || guardBad f.g2), (8, f.pd == 0)]

/-! ## Format S (R70, R229 to R236) -/

def sTypes : List Ty := [.i32, .n32, .i64, .n64]

/-- The row of an opcode of format S: types, uses of SD, SSA, SSB, SSC, whether imm8 has a role of its own, admitted
field values. -/
structure SRule where
  types : List Ty
  d : SOps → Bool := fun _ => true
  a : SOps → Bool := fun _ => true
  b : SOps → Bool := fun _ => true
  c : SOps → Bool := fun _ => false
  immOwn : SOps → Bool := fun _ => false
  ok : SOps → Bool := fun f => f.mod == 0

def srule (op : Nat) : SRule :=
  match op with
  | 0x0E0 | 0x0E1 | 0x0E2 | 0x0E3 | 0x0E4 | 0x0E5 | 0x0E6 | 0x0E7 | 0x0E8 | 0x0E9 | 0x0EA | 0x0F4 =>
    { types := sTypes }
  | 0x0EB => { types := sTypes, immOwn := fun _ => true,
               ok := fun f => decide (f.mod.toNat ≤ 5) && f.imm.toNat / 8 == 0 }
  | 0x0EC => { types := [.n64], c := fun _ => true }
  | 0x0ED => { types := [.n64], b := fun _ => false, immOwn := fun _ => true }
  | 0x0EF => { types := [.i32, .n32], b := fun _ => false, immOwn := fun _ => true,
               ok := fun f => decide (f.mod.toNat ≤ 7) }
  | 0x0F0 => { types := [.i32, .n32], d := fun _ => false, immOwn := fun _ => true,
               ok := fun f => decide (f.mod.toNat ≤ 7) }
  | 0x0F1 | 0x0F2 => { types := sTypes, b := fun _ => false }
  | 0x0F3 => { types := [.n64], a := fun f => f.mod != 2, b := fun _ => false, immOwn := fun f => f.mod != 0 && f.mod != 1,
               ok := fun f => decide (f.mod.toNat ≤ 2) && (f.mod != 1 || decide (61 ≤ f.d.val)) &&
                 (f.mod != 2 || decide (f.imm.toNat ≤ 2)) }
  | _ => { types := [] }

def snameNull (used : Bool) (x : SName) : Bool := used || x == .scalar 0

def sNamesImm (r : SRule) (f : SOps) : Bool :=
  (r.a f && f.a == .imm) || (r.b f && f.b == .imm) || (r.c f && f.c == .imm)

def admitS (op : Nat) (f : SOps) : Option Nat :=
  let r := srule op
  firstCause [
    (3, !r.types.contains f.ty),
    (5, !(r.d f || f.d == 0) || !snameNull (r.a f) f.a || !snameNull (r.b f) f.b || !snameNull (r.c f) f.c ||
        (!r.immOwn f && !sNamesImm r f && f.imm != 0)),
    (6, guardBad f.g1 || guardBad f.g2),
    (7, !r.ok f),
    (8, op == 0x0EB && (sNamesImm r f || f.imm.toNat % 8 == 0))]

def admitSmovi (f : SmoviOps) : Option Nat :=
  firstCause [(3, !(f.ty == .i32 || f.ty == .n32)), (6, guardBad f.g1 || guardBad f.g2), (7, f.hi && f.ty == .i32)]

/-! ## Format M (R71 to R73, R301) -/

/-- The SIZE codes that each memory instruction admits (R72, R301). -/
def mSizeOk (op : Nat) (f : MOps) : Bool :=
  let n := f.size.toNat
  match op with
  | 0x100 => decide (n ≤ 4)
  | 0x101 => [0, 2, 4, 5].contains n
  | 0x102 | 0x103 => n == 4
  | 0x104 => decide (n ≤ 11) && (decide (n ≤ 8) || !f.scale.getLsbD 1)
  | _ => n == 0

/-- ATOM and ACAS, whose SCALE field holds WIDE. -/
def mAtomic (op : Nat) : Bool := op == 0x104 || op == 0x105

/-- The orders that each memory instruction admits (R73). -/
def mOrderOk (op : Nat) (f : MOps) : Bool :=
  let n := f.order.toNat
  match op with
  | 0x100 | 0x102 => decide (n ≤ 1)
  | 0x101 | 0x103 => n == 0 || n == 2
  | 0x104 | 0x105 => true
  | 0x106 => decide (1 ≤ n)
  | _ => n == 0

/-- The scopes that each admits (R73): PREF and SPRES only scope 0; a reserved code is none of them. -/
def mScopeOk (op : Nat) (f : MOps) : Bool := (op != 0x107 && op != 0x108) || f.scope == .group

/-- The hints that each admits (R73). -/
def mHintOk (op : Nat) (f : MOps) : Bool :=
  op == 0x100 || op == 0x101 || op == 0x102 || op == 0x103 || op == 0x107 || f.hint == 0

/-- FENCE holds the null value in BASE, OFS, SIZE, SCALE, HINT and DISP (R73), and in DATA, which it does not read. -/
def fenceNull (f : MOps) : Bool :=
  f.base == 0 && f.ofs == .zero && f.size == 0 && f.scale == 0 && f.hint == 0 && f.disp == 0

/-- The field values that a memory instruction admits; any other faults with subcode 0x07 (R73). -/
def mFieldsOk (op : Nat) (f : MOps) : Bool :=
  mSizeOk op f && mOrderOk op f && mScopeOk op f && mHintOk op f &&
    (if op = 0x100 ∨ op = 0x101 then f.ofs != .zero || f.scale == 0 else mAtomic op || f.scale == 0) &&
    f.ofs != .imm && f.data != .imm &&
    (op != 0x105 || !f.scale.getLsbD 1 || isAge f.data || isFrame f.data)

/-- Whether DATA is a source. -/
def mData (op : Nat) : Bool := op == 0x101 || op == 0x103 || op == 0x104 || op == 0x105

/-- `scopeBad`: the word's SCOPE field held a reserved code. -/
def admitM (op : Nat) (f : MOps) (scopeBad : Bool := false) : Option Nat :=
  firstCause [
    (4, mAtomic op && f.scale.getLsbD 0),
    (5, (!mData op && f.data != .zero) ||
        (op == 0x106 && !fenceNull f)),
    (6, guardBad f.g1 || guardBad f.g2),
    (7, scopeBad || !mFieldsOk op f)]

/-! ## Format B (R75, R201) -/

def bAuxOk (op aux : Nat) : Bool :=
  match op with
  | 0x004 => aux == 2 || aux == 3
  | 0x007 | 0x008 | 0x009 => true
  | _ => aux == 0

/-- Instructions whose guards may be used. -/
def bGuards (op : Nat) : Bool := op == 0x000 || op == 0x004 || op == 0x006

def admitB (op : Nat) (f : BOps) : Option Nat :=
  let target := op == 0x001 || op == 0x002 || op == 0x007
  let cond := op == 0x001 || op == 0x002
  firstCause [
    (5, (!target && f.disp != 0) || (op != 0x002 && f.disp2 != 0) || (!cond && guardCode f.cond != 0)),
    (6, guardBad f.g1 || guardBad f.g2 || (cond && guardBad f.cond)),
    (7, (!bGuards op && !guardsNull f.g1 f.g2) || !bAuxOk op f.aux.toNat)]

def admitBI (op : Nat) (f : BIOps) : Option Nat :=
  firstCause [
    (6, guardBad f.g1 || guardBad f.g2),
    (7, !guardsNull f.g1 f.g2 || !bAuxOk op f.aux.toNat)]

/-! ## Format E (R76, R328, R357, R360, R384) -/

/-- Six consecutive names that stay in one class (R361). -/
def sixNames : VName → Bool
  | .age a => decide (a.val + 5 < 64)
  | .frame n => decide (n.val + 5 < 704)
  | _ => false

/-- The row of an opcode of format E: uses of TILE, AN, P, Q, KIX, CNT, whether REUSE and MODE are unused, and admitted
values. -/
structure ERule where
  tile : Bool := true
  an : Bool := false
  p : EOps → Bool := fun _ => false
  q : Bool := false
  kix : Bool := false
  cnt : Bool := false
  plain : Bool := false
  ok : EOps → Bool

def eNoReuse (f : EOps) : Bool := !f.reuse

def erule (op : Nat) : ERule :=
  match op with
  | 0x120 => { tile := false, p := fun _ => true, q := true, kix := true, plain := true, ok := fun f => f.kix != 127 }
  | 0x121 => { tile := false, an := true, p := fun _ => true, q := true, kix := true, cnt := true, plain := true,
               ok := fun f => f.kix != 127 }
  | 0x122 => { tile := false, an := true, p := fun _ => true, q := true, kix := true, plain := true,
               ok := fun f => f.kix != 127 }
  | 0x142 => { an := true, p := fun _ => true, kix := true, ok := fun f => f.mode == 0 && sixNames f.an }
  | 0x143 => { p := fun _ => true, q := true, kix := true, cnt := true,
               ok := fun f => eNoReuse f && f.mode == 0 && f.kix != 127 }
  | 0x144 => { p := fun f => f.mode.getLsbD 2,
               ok := fun f => eNoReuse f && decide (f.mode.toNat ≤ 7) &&
                 (!f.mode.getLsbD 2 || f.mode.toNat % 4 == 0 || f.mode.toNat % 4 == 3) }
  | 0x145 => { p := fun _ => true, kix := true,
               ok := fun f => eNoReuse f && decide (f.mode.toNat ≤ 2) && f.kix != 127 }
  | 0x146 => { p := fun _ => true, kix := true,
               ok := fun f => eNoReuse f && decide (f.mode.toNat ≤ 7) && f.kix != 127 }
  | 0x147 => { an := true, ok := fun f => eNoReuse f && !f.commit && decide (f.mode.toNat ≤ 1) && isFrame f.an }
  | 0x148 | 0x149 => { plain := true, ok := fun f => !f.commit }
  | 0x160 => { an := true, p := fun _ => true, kix := true,
               ok := fun f => eNoReuse f && f.mode == 0 && sixNames f.an }
  | 0x161 => { p := fun _ => true, q := true, kix := true, cnt := true,
               ok := fun f => eNoReuse f && f.mode == 0 && f.kix != 127 }
  | 0x162 | 0x163 => { ok := fun f => eNoReuse f && f.mode == 0 }
  | 0x164 => { kix := true, cnt := true,
               ok := fun f => eNoReuse f && f.mode == 0 && decide (1 ≤ f.cnt.toNat) && decide (f.cnt.toNat ≤ 80) }
  | 0x165 => { kix := true, cnt := true,
               ok := fun f => eNoReuse f && f.mode == 0 && decide (1 ≤ f.cnt.toNat) && decide (f.cnt.toNat ≤ 16) }
  | _ => { ok := fun _ => false }

def admitE (op : Nat) (f : EOps) : Option Nat :=
  let r := erule op
  firstCause [
    (5, (!r.tile && f.tile != 0) || (!r.an && f.an != .zero) || (!r.p f && f.p != 0) || (!r.q && f.q != 0) ||
        (!r.kix && f.kix != 0) || (!r.cnt && f.cnt != 0) || (r.plain && (f.reuse || f.mode != 0)) ||
        ((op == 0x148 || op == 0x149) && f.commit)),
    (6, guardBad f.g1 || guardBad f.g2),
    (7, !r.ok f)]

/-! ## Format T (R77, R117, R336, R342, R354, R407) -/

structure TRule where
  d : TOps → Bool := fun _ => false
  a : TOps → Bool := fun _ => false
  b : TOps → Bool := fun _ => false
  imm : TOps → Bool := fun _ => false
  op : Bool := false
  ok : TOps → Bool := fun _ => true

def tYes : TOps → Bool := fun _ => true
/-- SD is not one of s61 to s63. -/
def tDst (f : TOps) : Bool := decide (f.d.val < 61)
def tDst2 (f : TOps) : Bool := decide (f.d.val < 60)
def opN (f : TOps) : Nat := f.op.toNat

/-- The control registers that CSRR reads and that CSRW may name (R406, R410). -/
def csrKnown (n : Nat) : Bool := decide (n ≤ 0x0E)
def csrWritable (n : Nat) : Bool := [0x07, 0x08, 0x09, 0x0A, 0x0B].contains n

def trule (op : Nat) : TRule :=
  match op with
  | 0x123 => { d := tYes, op := true, ok := fun f => tDst f && decide (opN f ≤ 1) }
  | 0x124 => { a := fun f => !f.op.getLsbD 2, b := fun f => f.op.getLsbD 1, imm := fun f => f.op.getLsbD 2,
               op := true,
               ok := fun f => decide (opN f ≤ 15) && !(f.op.getLsbD 1 && (f.op.getLsbD 2 || f.op.getLsbD 0)) &&
                 (!f.op.getLsbD 3 || f.op.getLsbD 1) }
  | 0x125 => { d := tYes, op := true, ok := fun f => tDst f && decide (opN f ≤ 3) }
  | 0x126 => { imm := tYes, ok := fun f => decide (f.imm.toNat ≤ 15) }
  | 0x127 => { imm := tYes, ok := fun f => decide (f.imm.toNat ≤ 3) }
  | 0x128 => { d := tYes, a := tYes, imm := tYes, ok := fun f => f.imm != 0 }
  | 0x129 => { a := tYes, b := tYes, imm := tYes, ok := fun f => f.imm == 0 }
  | 0x12A => { imm := tYes, ok := fun f => f.imm == 0 }
  | 0x140 | 0x141 => {}
  | 0x180 => { d := tYes, a := tYes, b := tYes, op := true, ok := fun f => tDst f && decide (opN f ≤ 1) }
  | 0x181 | 0x182 => { a := tYes }
  | 0x183 => { d := tYes, a := tYes, b := fun f => !f.op.getLsbD 0, imm := fun f => f.op.getLsbD 0, op := true,
               ok := fun f => tDst f && decide (opN f ≤ 1) }
  | 0x184 => { d := tYes, a := tYes, ok := tDst }
  | 0x185 => { a := tYes, b := fun f => !f.op.getLsbD 0, op := true, ok := fun f => decide (opN f ≤ 1) }
  | 0x186 => { d := tYes, a := tYes, b := tYes, imm := tYes, op := true,
               ok := fun f => tDst f && decide (opN f ≤ 15) &&
                 (let n := f.imm.toNat % 8
                  let j := f.imm.toNat / 16
                  f.imm.toNat / 8 % 2 == 0 && decide (1 ≤ n) && decide (n ≤ 4) && decide (1 ≤ j) && decide (j ≤ n)) }
  | 0x187 => { d := tYes, a := tYes, op := true, ok := fun f => tDst2 f && decide (opN f ≤ 1) }
  | 0x188 => { d := tYes, ok := tDst2 }
  | 0x189 => { d := tYes, imm := tYes, ok := fun f => tDst f && decide (f.imm.toNat ≤ 8) }
  | 0x1A0 | 0x1A1 => { imm := tYes }
  | 0x1A2 => { op := true, ok := fun f => decide (opN f ≤ 2) }
  | 0x1A3 => { d := tYes, imm := tYes, ok := fun f => tDst f && csrKnown f.imm.toNat }
  | 0x1A4 => { a := tYes, imm := tYes, ok := fun f => csrWritable f.imm.toNat }
  | 0x1A7 => { d := tYes, ok := tDst }
  | 0x1A8 => { d := tYes, a := tYes, ok := tDst }
  | 0x1A9 => { a := tYes, b := tYes }
  | _ => { ok := fun _ => false }

def admitT (op : Nat) (f : TOps) : Option Nat :=
  let r := trule op
  firstCause [
    (5, (!r.d f && f.d != 0) || (!r.a f && f.a != 0) || (!r.b f && f.b != 0) || f.kix != 0 ||
        (!r.imm f && f.imm != 0) || (!r.op && f.op != 0)),
    (6, guardBad f.g1 || guardBad f.g2),
    (7, !r.ok f)]

end Sys2Proof.Machine
end

