-- ==== Sys2Proof/Config.lean ====
section
/-! DEFINITION. What an implementation of the spec fixes and the spec leaves open: free values. Each is an opaque
constant, so nothing can be proved about the value it takes; each is named in a row of notes/assumptions. -/

namespace Sys2Proof.Config

/-- FREE VALUE (assumption 1): which of the results that R248 allows a special-function instruction returns; a
function of the operation and the input word alone, as R248 says of every module. -/
opaque sfuChoice : Nat → Word → Nat

/-- FREE VALUE (assumption 2): the choices whose rule the spec does not give (a TLB or directory victim, the port an
Osier frame takes, what another device answers), one for each value of the model's own counter `State.fresh`. -/
opaque freeNat : Nat → Nat

/-- FREE VALUE (assumption 45): the order in which products whose sum leaves a cell's window arrive, and overlapping lines of
a drain are written: a function of the inputs alone, as R44 wants. -/
opaque inputOrder : List Int → Nat → Nat

/-- FREE VALUE (assumption 67): the set of a die's directory that a line's entry lies in, modulo 16384 (R291 gives the ways
and the entries alone). -/
opaque dirSet : Nat → Nat

/-- FREE VALUE (assumption 3): the nonce the device draws for a partition after a start, at its n-th teardown (R443,
"random"): partition, start, teardown. -/
opaque policyNonce : Nat → Nat → Nat → DWord

/-- FREE VALUE (assumption 4): SHAKE256 with a 32-byte result, the published function R443 and R462 name and do not
restate. -/
opaque shake256 : List Byte → Vector Byte 32

/-- FREE VALUE (assumption 4): whether a signature verifies under the published scheme that R442 names (parameter
set, message, public key, signature). -/
opaque xmssVerify : Nat → List Byte → List Byte → List Byte → Bool

/-- FREE VALUE (assumption 4): the signature the module's identity key gives (index, message; R463, R464). -/
opaque xmssSign : Nat → List Byte → List Byte

/-- FREE VALUE (assumption 4): the bytes of an attestation quote made of its parts, whose layout R464 does not give. -/
opaque quoteForm : List (List Byte) → List Byte

/-- FREE VALUE (assumption 5): silicon stepping, firmware version and serial number of the module (R456). -/
opaque stepping : BitVec 8
opaque fwver : BitVec 16
opaque serial : DWord

/-- FREE VALUE (assumption 5): the firmware image that each start loads (R462), whether the signature of an image is valid,
and the security version that an image bears. -/
opaque fwImage : Nat → List Byte
opaque fwSigned : List Byte → Bool
opaque fwVersion : List Byte → Nat

/-- FREE VALUE (assumption 6): the result of each start-up self test (R465): which start, which step, whether it
passes. -/
opaque startStepPasses : Nat → Nat → Bool

/-- FREE VALUE (assumption 6): what BERR shows for a start that failed at a step (R456 and R466 give no encoding). -/
opaque bootError : Nat → Nat → BitVec 8

/-- FREE VALUE (assumption 18): the detail word in which DC_NEGATIVE reports its index and the value it refuses (R122
names the two and not their places). -/
opaque dcDetail : Nat → Int → DWord

/-- FREE VALUE (assumption 25): the detail address of a fault record for which the spec names none (R400 gives the field
and not its content there), one for each value of `State.fresh`. -/
opaque faultDetail : Nat → DWord

/-- FREE VALUE (assumption 21): the function vector of the pre-emption interrupt (R414 names none). -/
opaque preemptVector : Nat

/-- FREE VALUE (assumption 22): the bytes in which a group's control rows hold what they have no layout for (R57, R418, R421,
R450): a function of what they hold, by its bytes, and of the offset. -/
opaque controlByte : List Byte → Nat → Byte

/-- FREE VALUE (assumption 22): where in the two control rows their contents begin, in units of 8 bytes (R163 and R195 give the
layout of an entry and of the wait record and not their place). -/
opaque controlPlace : Nat

end Sys2Proof.Config
end

