-- ==== Sys2Proof/Machine/Formats.lean ====
section
/-! DEFINITION. The number formats of R22 to R35 and exact arithmetic on them: decoding to exact values, one
rounding function, D8, E4M3 and FP4, and E8M0 scales. Every value is exact (a dyadic m * 2^e) until it is rounded
once. -/

namespace Sys2Proof.Machine

/-- The sticky flag bits of R32. -/
abbrev Flags := BitVec 6

def flNV : Flags := 1#6
def flDZ : Flags := 2#6
def flOF : Flags := 4#6
def flUF : Flags := 8#6
def flNX : Flags := 16#6
def flIDZ : Flags := 32#6

/-- The rounding modes of R69: 00 RNE, 01 RTZ, 10 RUP, 11 RDN. -/
inductive RMode where
  | rne | rtz | rup | rdn
deriving DecidableEq, Repr

def RMode.ofBits (b : BitVec 2) : RMode :=
  if b = 0#2 then .rne else if b = 1#2 then .rtz else if b = 2#2 then .rup else .rdn

/-- An exact value: a NaN, an infinity, or (−1)^neg * m * 2^e; m = 0 is a signed zero. -/
inductive FVal where
  | nan (signalling : Bool)
  | inf (neg : Bool)
  | fin (neg : Bool) (m : Nat) (e : Int)
deriving DecidableEq, Repr

/-- 2^n for an integer exponent, on naturals, when n is not negative; 1 otherwise. -/
def pow2 (n : Int) : Nat := 2 ^ n.toNat

/-- m * 2^s for a signed s, rounding towards minus infinity. -/
def shiftFloor (m : Int) (s : Int) : Int :=
  if 0 ≤ s then m * (2 ^ s.toNat : Nat) else m.fdiv (2 ^ (-s).toNat : Nat)

/-- Whether m * 2^s is an integer. -/
def shiftExact (m : Int) (s : Int) : Bool :=
  decide (0 ≤ s) || decide (m.fmod (2 ^ (-s).toNat : Nat) = 0)

/-- floor(log2 m) of a positive m, plus the exponent: the exponent of the leading bit of m * 2^e. -/
def leadExp (m : Nat) (e : Int) : Int := (m.log2 : Int) + e

/-- The signed integer (−1)^neg * m. -/
def signed (neg : Bool) (m : Nat) : Int := if neg then -(m : Int) else (m : Int)

/-- An IEEE interchange format (R23): precision, exponent bias; the exponent field has `ebits` bits. -/
structure FFmt where
  prec : Nat
  ebits : Nat
deriving DecidableEq, Repr

def fp32 : FFmt := ⟨24, 8⟩
def fp16 : FFmt := ⟨11, 5⟩
def bfp16 : FFmt := ⟨8, 8⟩

namespace FFmt

def bias (f : FFmt) : Nat := 2 ^ (f.ebits - 1) - 1
def emin (f : FFmt) : Int := 1 - (f.bias : Int)
def emax (f : FFmt) : Int := (f.bias : Int)
def fracBits (f : FFmt) : Nat := f.prec - 1
/-- The exponent of the least subnormal. -/
def least (f : FFmt) : Int := f.emin - (f.fracBits : Int)
def width (f : FFmt) : Nat := f.ebits + f.prec
def signBit (f : FFmt) : Nat := 2 ^ (f.width - 1)
def infBits (f : FFmt) : Nat := (2 ^ f.ebits - 1) * 2 ^ f.fracBits
/-- The canonical NaN (R23): 0x7FC0_0000, 0x7E00, 0x7FC0. -/
def nanBits (f : FFmt) : Nat := f.infBits + 2 ^ (f.fracBits - 1)
def maxBits (f : FFmt) : Nat := f.infBits - 1

/-- The exact value of a code (R23, R24: subnormals are honoured). -/
def decode (f : FFmt) (bits : Nat) : FVal :=
  let neg := decide (f.signBit ≤ bits % 2 ^ f.width)
  let ef := bits / 2 ^ f.fracBits % 2 ^ f.ebits
  let fr := bits % 2 ^ f.fracBits
  if ef = 2 ^ f.ebits - 1 then
    if fr = 0 then .inf neg else .nan (decide (fr < 2 ^ (f.fracBits - 1)))
  else if ef = 0 then .fin neg fr f.least
  else .fin neg (fr + 2 ^ f.fracBits) (f.least + (ef : Int) - 1)

end FFmt

/-- Whether an inexact magnitude `kept` (in units of the last place) goes up: `twice` compares twice the discarded
part with one unit. -/
def roundsUp (rm : RMode) (neg : Bool) (kept : Nat) (twice : Ordering) : Bool :=
  match rm with
  | .rne => match twice with
    | .gt => true
    | .eq => kept % 2 == 1
    | .lt => false
  | .rtz => false
  | .rup => !neg
  | .rdn => neg

/-- Round the magnitude m * 2^e (plus a positive part below 2^e when `sticky`) to a multiple of 2^q: the multiple,
and whether it was inexact. -/
def roundAt (rm : RMode) (neg : Bool) (m : Nat) (e : Int) (sticky : Bool) (q : Int) : Nat × Bool :=
  if q ≤ e then
    (m * pow2 (e - q), sticky)
  else
    let u := pow2 (q - e)
    let kept := m / u
    let rest := m % u
    let inexact := decide (rest ≠ 0) || sticky
    if inexact then
      let tw := if 2 * rest < u then Ordering.lt
        else if 2 * rest = u then (if sticky then .gt else .eq) else .gt
      (if roundsUp rm neg kept tw then kept + 1 else kept, true)
    else (kept, false)

/-- Round to a format: `RNE(fmt, x)` and its directed fellows (R6, R24), the code and the flags. Tininess is
detected after rounding; underflow is tiny and inexact; an overflow gives an infinity or the largest finite value as
the mode says. A `sticky` value must carry at least two bits more than the precision. -/
def FFmt.round (f : FFmt) (rm : RMode) (neg : Bool) (m : Nat) (e : Int) (sticky : Bool := false) : Nat × Flags :=
  let sb := if neg then f.signBit else 0
  if m = 0 then (sb, if sticky then flUF ||| flNX else 0)
  else
    let lead := leadExp m e
    let q := max (lead - (f.fracBits : Int)) f.least
    let (kept, inexact) := roundAt rm neg m e sticky q
    let tiny := decide (lead < f.emin) &&
      (let (k', _) := roundAt rm neg m e sticky (lead - (f.fracBits : Int))
       decide ((k' : Int) * (pow2 (lead - (f.fracBits : Int) - (f.least - 200)) : Nat) <
         (pow2 (f.emin - (f.least - 200)) : Nat)))
    let code :=
      if kept < 2 ^ f.fracBits then kept
      else ((q - f.least).toNat + 1) * 2 ^ f.fracBits + (kept - 2 ^ f.fracBits)
    if f.infBits ≤ code then
      let toInf := match rm with
        | .rne => true
        | .rtz => false
        | .rup => !neg
        | .rdn => neg
      (sb + (if toInf then f.infBits else f.maxBits), flOF ||| flNX)
    else
      (sb + code, (if inexact then flNX else 0) ||| (if tiny && inexact then flUF else 0))

/-- Round an exact value to a format; a NaN becomes the canonical NaN (R24). -/
def FFmt.ofVal (f : FFmt) (rm : RMode) : FVal → Nat × Flags
  | .nan sig => (f.nanBits, if sig then flNV else 0)
  | .inf neg => ((if neg then f.signBit else 0) + f.infBits, 0)
  | .fin neg m e => f.round rm neg m e

/-! ## Exact arithmetic on values -/

/-- The sum of two finite values; an exact zero sum is +0, or −0 under RDN, and two zeros of one sign keep it
(R241). -/
def finAdd (rm : RMode) (n1 : Bool) (m1 : Nat) (e1 : Int) (n2 : Bool) (m2 : Nat) (e2 : Int) : FVal :=
  let e := min e1 e2
  let s := signed n1 (m1 * pow2 (e1 - e)) + signed n2 (m2 * pow2 (e2 - e))
  if s = 0 then
    .fin (if m1 = 0 && m2 = 0 && n1 == n2 then n1 else decide (rm = .rdn)) 0 0
  else .fin (decide (s < 0)) s.natAbs e

def FVal.isNan : FVal → Bool
  | .nan _ => true
  | _ => false

def FVal.isSig : FVal → Bool
  | .nan true => true
  | _ => false

def FVal.isInf : FVal → Bool
  | .inf _ => true
  | _ => false

def FVal.isZero : FVal → Bool
  | .fin _ m _ => m == 0
  | _ => false

def FVal.neg : FVal → FVal
  | .nan s => .nan s
  | .inf n => .inf (!n)
  | .fin n m e => .fin (!n) m e

def FVal.abs : FVal → FVal
  | .nan s => .nan s
  | .inf _ => .inf false
  | .fin _ m e => .fin false m e

def FVal.negative : FVal → Bool
  | .nan _ => false
  | .inf n => n
  | .fin n _ _ => n

/-- NV for a signalling NaN among the operands (R241). -/
def sigFlag (xs : List FVal) : Flags := if xs.any FVal.isSig then flNV else 0

/-- A quiet NaN, the result of an invalid operation once NV is raised. -/
def qnan : FVal := .nan false

/-- x + y as an exact value, with the flags of an invalid operation (R241). -/
def addVal (rm : RMode) (x y : FVal) : FVal × Flags :=
  match x, y with
  | .fin n1 m1 e1, .fin n2 m2 e2 => (finAdd rm n1 m1 e1 n2 m2 e2, 0)
  | .inf n1, .inf n2 => if n1 = n2 then (.inf n1, 0) else (qnan, flNV)
  | .inf n, .fin _ _ _ => (.inf n, 0)
  | .fin _ _ _, .inf n => (.inf n, 0)
  | x, y => (qnan, sigFlag [x, y])

/-- x * y as an exact value, with the flags of an invalid operation (R241). -/
def mulVal (x y : FVal) : FVal × Flags :=
  match x, y with
  | .fin n1 m1 e1, .fin n2 m2 e2 => (.fin (n1 != n2) (m1 * m2) (e1 + e2), 0)
  | .inf n1, .inf n2 => (.inf (n1 != n2), 0)
  | .inf n1, .fin n2 m _ => if m = 0 then (qnan, flNV) else (.inf (n1 != n2), 0)
  | .fin n1 m _, .inf n2 => if m = 0 then (qnan, flNV) else (.inf (n1 != n2), 0)
  | x, y => (qnan, sigFlag [x, y])

/-- x * y + z with one rounding (R241): 0 * ∞ is invalid whatever z holds. -/
def fmaVal (rm : RMode) (x y z : FVal) : FVal × Flags :=
  let (p, f) := mulVal x y
  if p.isNan then (qnan, f ||| sigFlag [z])
  else
    let (r, g) := addVal rm p z
    (r, f ||| g)

/-- x / y of R241, rounded into the format. -/
def FFmt.div (f : FFmt) (rm : RMode) (x y : FVal) : Nat × Flags :=
  let sb (n : Bool) : Nat := if n then f.signBit else 0
  match x, y with
  | .fin n1 m1 e1, .fin n2 m2 e2 =>
    let n := n1 != n2
    if m2 = 0 then
      if m1 = 0 then (f.nanBits, flNV) else (sb n + f.infBits, flDZ)
    else if m1 = 0 then (sb n, 0)
    else
      let k := m2.log2 + f.prec + 4
      let num := m1 * 2 ^ k
      f.round rm n (num / m2) (e1 - e2 - (k : Int)) (decide (num % m2 ≠ 0))
  | .inf _, .inf _ => (f.nanBits, flNV)
  | .inf n1, .fin n2 _ _ => (sb (n1 != n2) + f.infBits, 0)
  | .fin n1 _ _, .inf n2 => (sb (n1 != n2), 0)
  | x, y => (f.nanBits, sigFlag [x, y])

/-- The square root of R241, rounded into the format; sqrt(−0) is −0. -/
def FFmt.sqrt (f : FFmt) (rm : RMode) (x : FVal) : Nat × Flags :=
  match x with
  | .nan s => (f.nanBits, if s then flNV else 0)
  | .inf neg => if neg then (f.nanBits, flNV) else (f.infBits, 0)
  | .fin neg m e =>
    if m = 0 then ((if neg then f.signBit else 0), 0)
    else if neg then (f.nanBits, flNV)
    else
      let (m1, e1) := if e.fmod 2 = 0 then (m, e) else (2 * m, e - 1)
      let k := f.prec + 4
      let big := m1 * 4 ^ k
      let r := big.sqrt
      f.round rm false r (e1.fdiv 2 - (k : Int)) (decide (r * r ≠ big))

/-- Compare two values that are not NaN; −0 equals +0. -/
def cmpVal (x y : FVal) : Ordering :=
  match x, y with
  | .inf n1, .inf n2 => if n1 = n2 then .eq else if n1 then .lt else .gt
  | .inf n, _ => if n then .lt else .gt
  | _, .inf n => if n then .gt else .lt
  | .fin n1 m1 e1, .fin n2 m2 e2 =>
    let e := min e1 e2
    compare (signed n1 (m1 * pow2 (e1 - e))) (signed n2 (m2 * pow2 (e2 - e)))
  | _, _ => .eq

/-- Round to an integer under a mode: the magnitude, and whether it changed (R246, R252). -/
def roundInt (rm : RMode) (neg : Bool) (m : Nat) (e : Int) : Nat × Bool := roundAt rm neg m e false 0

/-! ## D8 (R25 to R28) -/

/-- The magnitude of a D8 code's low seven bits in units of 2^-7 (R25, R26). -/
def d8Mag (c : Nat) : Nat :=
  let d := c / 64 % 2
  let t := c % 64
  if t = 0 then (if d = 1 then 1 else 0)
  else
    let f := t.log2
    let z := 5 - f
    let frac := t - 2 ^ f
    if d = 0 then 2 ^ (z + 7) * (2 ^ f + frac) / 2 ^ f
    else 2 ^ (6 - z) * (2 ^ f + frac) / 2 ^ f

/-- The value of a D8 code (R25); NaR counts as a quiet NaN (R251). -/
def d8Decode (c : Nat) : FVal :=
  if c % 256 = 0x80 then .nan false else .fin (decide (128 ≤ c % 256)) (d8Mag (c % 128)) (-7)

/-- The nearest of the 128 magnitude codes to the magnitude m * 2^e; at a tie the code whose bit 0 is 0, and of two
such the smaller magnitude (R27). -/
def d8Nearest (m : Nat) (e : Int) : Nat :=
  -- all distances in units of 2^min(e,-7)
  let b := min e (-7)
  let x := m * pow2 (e - b)
  let u := pow2 (-7 - b)
  let dist (c : Nat) : Nat := (signed false (d8Mag c * u) - (x : Int)).natAbs
  (List.range 128).foldl (fun best c =>
    let dc := dist c
    let db := dist best
    if dc < db then c
    else if dc = db then
      if c % 2 < best % 2 then c
      else if c % 2 = best % 2 && decide (d8Mag c < d8Mag best) then c else best
    else best) 0

/-- Convert into D8 (R27); `strict` gives NaR on overflow. -/
def d8Encode (strict : Bool) : FVal → Nat × Flags
  | .nan sig => (0x80, if sig then flNV else 0)
  | .inf _ => (0x80, flNV)
  | .fin neg m e =>
    if cmpVal (.fin false m e) (.fin false 32 0) = .gt then
      (if strict then 0x80 else (if neg then 0x81 else 0x01), flOF ||| flNX)
    else
      let c := d8Nearest m e
      let exact := cmpVal (.fin false m e) (.fin false (d8Mag c) (-7)) == .eq
      let under := decide (m ≠ 0) && (cmpVal (.fin false m e) (.fin false 1 (-7)) == .lt) && !exact
      let code := if c = 0 then 0 else if neg then c + 128 else c
      (code, (if exact then 0 else flNX) ||| (if under then flUF else 0))

/-! ## E4M3 and FP4 (R29, R30) -/

def e4m3Decode (c : Nat) : FVal :=
  let neg := decide (128 ≤ c % 256)
  let e := c / 8 % 16
  let m := c % 8
  if c % 128 = 127 then .nan false
  else if e = 0 then .fin neg m (-9) else .fin neg (m + 8) ((e : Int) - 10)

/-- Convert into E4M3 (R29): saturating unless `nsat`. -/
def e4m3Encode (rm : RMode) (nsat : Bool) : FVal → Nat × Flags
  | .nan sig => (0x7F, if sig then flNV else 0)
  | .inf neg => (if nsat then 0x7F else (if neg then 0xFE else 0x7E), flNV)
  | .fin neg m e =>
    let sb := if neg then 128 else 0
    if m = 0 then (sb, 0)
    else
      let lead := leadExp m e
      let q := max (lead - 3) (-9)
      let (kept, inexact) := roundAt rm neg m e false q
      if (448 : Int) * 512 < (kept : Int) * pow2 (q + 9) then
        (if nsat then 0x7F else sb + 0x7E, flOF ||| flNX)
      else
        let code := if kept < 8 then kept else ((q + 9).toNat + 1) * 8 + (kept - 8)
        let under := inexact && (cmpVal (.fin false m e) (.fin false 1 (-9)) == .lt)
        (sb + code, (if inexact then flNX else 0) ||| (if under then flUF else 0))

/-- The magnitude of an FP4 code's low three bits in halves (R30): 0, 1, 2, 3, 4, 6, 8, 12. -/
def fp4Mag (c : Nat) : Nat :=
  let e := c / 2 % 4
  let m := c % 2
  if e = 0 then m else 2 ^ (e - 1) * (2 + m)

def fp4Decode (c : Nat) : FVal := .fin (decide (8 ≤ c % 16)) (fp4Mag (c % 8)) (-1)

/-- Convert into FP4 (R30): RNE, a tie to m = 0. It overflows where the rounded value exceeds 6 (DESIGN CHOICE, assumption
83). -/
def fp4Encode : FVal → Nat × Flags
  | .nan _ => (0, flNV)
  | .inf neg => (if neg then 0xF else 0x7, flOF ||| flNX)
  | .fin neg m e =>
    let sb := if neg then 8 else 0
    if m = 0 then (sb, 0)
    else
      let lead := leadExp m e
      let q := max (lead - 1) (-1)
      let (kept, inexact) := roundAt .rne neg m e false q
      if (12 : Int) < (kept : Int) * pow2 (q + 1) then (sb + 7, flOF ||| flNX)
      else
        let code := if kept < 2 then kept else ((q + 1).toNat + 1) * 2 + (kept - 2)
        let under := inexact && (cmpVal (.fin false m e) (.fin false 1 (-1)) == .lt)
        (sb + code, (if inexact then flNX else 0) ||| (if under then flUF else 0))

/-- Round to a signed integer of w bits, RNE, saturating; NX if changed by rounding or saturation (R35, R256). -/
def intEncode (w : Nat) : FVal → Nat × Flags
  | .nan _ => (0, flNV)
  | .inf neg => (if neg then 2 ^ (w - 1) else 2 ^ (w - 1) - 1, flNV)
  | .fin neg m e =>
    let (mag, inexact) := roundInt .rne neg m e
    let v := signed neg mag
    let c := max (-(2 ^ (w - 1) : Nat) : Int) (min v ((2 ^ (w - 1) : Nat) - 1))
    ((c.emod (2 ^ w : Nat)).toNat, if inexact || decide (c ≠ v) then flNX else 0)

/-- A two's-complement element of w bits as an exact value. -/
def intVal (w : Nat) (isSigned : Bool) (c : Nat) : FVal :=
  let u := c % 2 ^ w
  if isSigned && decide (2 ^ (w - 1) ≤ u) then .fin true (2 ^ w - u) 0 else .fin false u 0

/-! ## The floating types as element formats -/

/-- The floating element formats (R68, R349, R254): what a code of one element means. -/
inductive Elem where
  | f32 | f16 | bf16 | d8 | e4m3 | fp4 | i8 | n8 | i4
deriving DecidableEq, Repr

def Elem.width : Elem → Nat
  | .f32 => 32
  | .f16 | .bf16 => 16
  | .d8 | .e4m3 | .i8 | .n8 => 8
  | .fp4 | .i4 => 4

def Elem.decode : Elem → Nat → FVal
  | .f32, c => fp32.decode c
  | .f16, c => fp16.decode c
  | .bf16, c => bfp16.decode c
  | .d8, c => d8Decode c
  | .e4m3, c => e4m3Decode c
  | .fp4, c => fp4Decode c
  | .i8, c => intVal 8 true c
  | .n8, c => intVal 8 false c
  | .i4, c => intVal 4 true c

/-- Encode a value into an element format; `opt` is the strict mode of D8 and the non-saturating mode of E4M3. -/
def Elem.encode (el : Elem) (rm : RMode) (opt : Bool) (v : FVal) : Nat × Flags :=
  match el with
  | .f32 => fp32.ofVal rm v
  | .f16 => fp16.ofVal rm v
  | .bf16 => bfp16.ofVal rm v
  | .d8 => d8Encode opt v
  | .e4m3 => e4m3Encode rm opt v
  | .fp4 => fp4Encode v
  | .i8 => intEncode 8 v
  | .n8 => (0, 0)
  | .i4 => intEncode 4 v

/-- The least exponents of R39 (FP32 as R368 gives it); BF16 has none. -/
def Elem.leastExp : Elem → Option Int
  | .f16 => some (-24)
  | .bf16 => none
  | .d8 => some (-7)
  | .e4m3 => some (-9)
  | .fp4 => some (-1)
  | .i8 | .n8 | .i4 => some 0
  | .f32 => some (-149)

/-! ## E8M0 scales (R33, R35) -/

/-- emax of R35 for the formats that scale generation admits. -/
def Elem.emaxScale : Elem → Int
  | .d8 => 5
  | .e4m3 => 8
  | .fp4 => 2
  | .i8 => 6
  | _ => 2

/-- The scale byte for a block maximum m (R35, R255). -/
def scaleByte (el : Elem) (m : FVal) : Nat :=
  match m with
  | .nan _ => 0xFF
  | .inf _ => 254
  | .fin _ k e =>
    if k = 0 then 127 else (max 0 (min 254 (leadExp k e - el.emaxScale + 127))).toNat

/-- v / 2^(s − 127), exact (R256); v itself for the NaN scale. -/
def scaleDown (s : Nat) : FVal → FVal
  | .fin n m e => if s = 255 then .fin n m e else .fin n m (e - ((s : Int) - 127))
  | v => v

/-- v * 2^(s − 127), exact (R257). -/
def scaleUp (s : Nat) : FVal → FVal
  | .fin n m e => .fin n m (e + ((s : Int) - 127))
  | v => v

/-- The larger magnitude of two values; NaN wins, then infinity (R35). -/
def maxMag (x y : FVal) : FVal :=
  if x.isNan then x else if y.isNan then y
  else if cmpVal x.abs y.abs = .lt then y.abs else x.abs

/-! ## The operations that the vector and atomic instructions share (R241, R242) -/

def FFmt.add (f : FFmt) (rm : RMode) (a b : Nat) : Nat × Flags :=
  let (v, fl) := addVal rm (f.decode a) (f.decode b)
  let (r, g) := f.ofVal rm v
  (r, fl ||| g)

def FFmt.sub (f : FFmt) (rm : RMode) (a b : Nat) : Nat × Flags :=
  let (v, fl) := addVal rm (f.decode a) (f.decode b).neg
  let (r, g) := f.ofVal rm v
  (r, fl ||| g)

def FFmt.mul (f : FFmt) (rm : RMode) (a b : Nat) : Nat × Flags :=
  let (v, fl) := mulVal (f.decode a) (f.decode b)
  let (r, g) := f.ofVal rm v
  (r, fl ||| g)

def FFmt.fma (f : FFmt) (rm : RMode) (a b c : Nat) : Nat × Flags :=
  let (v, fl) := fmaVal rm (f.decode a) (f.decode b) (f.decode c)
  let (r, g) := f.ofVal rm v
  (r, fl ||| g)

/-- FMIN and FMAX (R242): one operand bit for bit; `num` selects minimumNumber and maximumNumber. -/
def FFmt.minmax (f : FFmt) (isMax num : Bool) (a b : Nat) : Nat × Flags :=
  let x := f.decode a
  let y := f.decode b
  let fl := sigFlag [x, y]
  if x.isNan || y.isNan then
    if num && !(x.isNan && y.isNan) then (if x.isNan then b else a, fl) else (f.nanBits, fl)
  else
    let aLess := match cmpVal x y with
      | .lt => true
      | .gt => false
      | .eq => x.negative
    (if aLess != isMax then a else b, 0)

end Sys2Proof.Machine
end

