-- ==== Sys2Proof/Machine/IntOps.lean ====
section
/-! DEFINITION. What each lane computes: the inputs and outputs of one lane of a vector instruction, and the 36 integer
instructions (R209 to R227) with the operand-class ones that work on one lane's words (R182, R187 to R189). -/

namespace Sys2Proof.Machine

/-- The values that sources a, b and the third supply in one lane: a word zero-extended, or a pair (R79). -/
structure LaneIn where
  a : DWord
  b : DWord
  c : DWord
deriving DecidableEq, Repr

/-- What one lane does: words pushed in order, sticky flags raised, and a predicate value written. -/
structure LaneOut where
  push : List Word := []
  flags : Flags := 0
  pred : Option Bool := none
deriving DecidableEq, Repr

def lowWord (x : DWord) : Word := x.setWidth 32
def highWord (x : DWord) : Word := (x >>> 32).setWidth 32
def joinPair (lo hi : Word) : DWord := (hi ++ lo : BitVec 64)

def LaneIn.wa (x : LaneIn) : Word := lowWord x.a
def LaneIn.wb (x : LaneIn) : Word := lowWord x.b
def LaneIn.wc (x : LaneIn) : Word := lowWord x.c

def pushWord (w : Word) : LaneOut := { push := [w] }
/-- Push a 64-bit value, low word first (R213, R224). -/
def pushPair (v : DWord) : LaneOut := { push := [lowWord v, highWord v] }
def setPred (b : Bool) : LaneOut := { pred := some b }
def wordOfInt (v : Int) : Word := BitVec.ofInt 32 v
def wordOfNat (v : Nat) : Word := BitVec.ofNat 32 v

/-- Whether integer elements of a type are signed (R209). -/
def tySigned : Ty → Bool
  | .i32 | .i16x2 | .i8x4 | .i64 | .f4x8 => true
  | _ => false

/-- Element i of width w of a word (R22). -/
def elemNat (w i : Nat) (x : Word) : Nat := x.toNat / 2 ^ (w * i) % 2 ^ w

/-- A w-bit code as a signed or unsigned integer. -/
def codeInt (isSigned : Bool) (w n : Nat) : Int :=
  if isSigned && decide (2 ^ (w - 1) ≤ n % 2 ^ w) then (n % 2 ^ w : Nat) - (2 ^ w : Nat) else ((n % 2 ^ w : Nat) : Int)

def elemInt (t : Ty) (i : Nat) (x : Word) : Int := codeInt (tySigned t) (tyWidth t) (elemNat (tyWidth t) i x)

/-- A word from its elements, element 0 in the low bits (R22). -/
def packElems (w : Nat) (l : List Nat) : Word := wordOfNat (l.foldr (fun e acc => e % 2 ^ w + 2 ^ w * acc) 0)

/-- An integer mod 2^w. -/
def wrapNat (w : Nat) (v : Int) : Nat := (v.emod (2 ^ w : Nat)).toNat

/-- sat(v) of R31: clamp to the range of the element's type. -/
def satInt (t : Ty) (v : Int) : Int :=
  if tySigned t then max (-(2 ^ (tyWidth t - 1) : Nat) : Int) (min v ((2 ^ (tyWidth t - 1) : Nat) - 1))
  else max 0 (min v ((2 ^ tyWidth t : Nat) - 1))

/-- Element by element, wrapped to the width (R212). -/
def eachElem (t : Ty) (f : Nat → Int) : LaneOut :=
  pushWord (packElems (tyWidth t) ((List.range (tyElems t)).map fun i => wrapNat (tyWidth t) (f i)))

def elems2 (t : Ty) (x : LaneIn) (f : Int → Int → Int) : LaneOut :=
  eachElem t fun i => f (elemInt t i x.wa) (elemInt t i x.wb)

def opIadd (f : VOps) (x : LaneIn) : LaneOut := elems2 f.ty x (· + ·)
def opIsub (f : VOps) (x : LaneIn) : LaneOut := elems2 f.ty x (· - ·)
def opImul (f : VOps) (x : LaneIn) : LaneOut := elems2 f.ty x (· * ·)
def opImad (f : VOps) (x : LaneIn) : LaneOut :=
  eachElem f.ty fun i => elemInt f.ty i x.wa * elemInt f.ty i x.wb + elemInt f.ty i x.wc
def opImin (f : VOps) (x : LaneIn) : LaneOut := elems2 f.ty x min
def opImax (f : VOps) (x : LaneIn) : LaneOut := elems2 f.ty x max
def opIadds (f : VOps) (x : LaneIn) : LaneOut := elems2 f.ty x fun u v => satInt f.ty (u + v)
def opIsubs (f : VOps) (x : LaneIn) : LaneOut := elems2 f.ty x fun u v => satInt f.ty (u - v)
def satIf (f : VOps) (v : Int) : Int := if f.mod.getLsbD 0 then satInt f.ty v else v
def opIabs (f : VOps) (x : LaneIn) : LaneOut := eachElem f.ty fun i => satIf f ((elemInt f.ty i x.wa).natAbs : Int)
def opIneg (f : VOps) (x : LaneIn) : LaneOut := eachElem f.ty fun i => satIf f (-(elemInt f.ty i x.wa))

/-- A word read as the 32-bit type says (R213, R214). -/
def wordInt (t : Ty) (w : Word) : Int := if tySigned t then w.toInt else (w.toNat : Int)
def pairInt (t : Ty) (w : DWord) : Int := if tySigned t then w.toInt else (w.toNat : Int)

def opImulh (f : VOps) (x : LaneIn) : LaneOut :=
  pushWord (wordOfInt ((wordInt f.ty x.wa * wordInt f.ty x.wb).fdiv (2 ^ 32)))

def opImadw (f : VOps) (x : LaneIn) : LaneOut :=
  pushPair (BitVec.ofInt 64 (wordInt f.ty x.wa * wordInt f.ty x.wb + pairInt f.ty x.c))

/-- IDIVM (R214). -/
def opIdivm (f : VOps) (x : LaneIn) : LaneOut :=
  let u := wordInt f.ty x.wa
  let v := wordInt f.ty x.wb
  if v = 0 then { push := [0xFFFFFFFF#32, x.wa], flags := flIDZ }
  else
    let q := u.tdiv v
    { push := [wordOfInt q, wordOfInt (u - q * v)] }

def opAnd (_ : VOps) (x : LaneIn) : LaneOut := pushWord (x.wa &&& x.wb)
def opOr (_ : VOps) (x : LaneIn) : LaneOut := pushWord (x.wa ||| x.wb)
def opXor (_ : VOps) (x : LaneIn) : LaneOut := pushWord (x.wa ^^^ x.wb)
def opAndn (_ : VOps) (x : LaneIn) : LaneOut := pushWord (x.wa &&& ~~~x.wb)
def opNot (_ : VOps) (x : LaneIn) : LaneOut := pushWord (~~~x.wa)

/-- The shifts of R216: the whole of b is the count. -/
def opShl (_ : VOps) (x : LaneIn) : LaneOut := pushWord (if x.wb.toNat < 32 then x.wa <<< x.wb.toNat else 0)
def opShr (_ : VOps) (x : LaneIn) : LaneOut := pushWord (if x.wb.toNat < 32 then x.wa >>> x.wb.toNat else 0)
def opSar (_ : VOps) (x : LaneIn) : LaneOut :=
  pushWord (if x.wb.toNat < 32 then x.wa.sshiftRight x.wb.toNat else if x.wa.msb then 0xFFFFFFFF#32 else 0)

/-- FUNSH (R217). -/
def opFunsh (f : VOps) (x : LaneIn) : LaneOut :=
  let u := joinPair x.wa x.wb
  let n := min x.wc.toNat 32
  pushWord (if f.mod.getLsbD 0 then lowWord (u >>> n) else
    if n = 32 then x.wa else highWord (u <<< n))

/-- The field rule of R218 on a W-bit value: position, length, signed or not. -/
def bitField (isSigned : Bool) (w : Nat) (x : Nat) (ctl : Nat) : Int :=
  let pos := ctl % 256
  let len := min (ctl / 256 % 256) w
  let v := (codeInt isSigned w x).fdiv (2 ^ pos : Nat) |>.emod (2 ^ len : Nat)
  if isSigned && decide (0 < len) && decide ((2 ^ (len - 1) : Nat) ≤ v) then v - (2 ^ len : Nat) else v

def opBfx (f : VOps) (x : LaneIn) : LaneOut :=
  pushWord (wordOfInt (bitField (tySigned f.ty) 32 x.wa.toNat x.wb.toNat))

def opBfi (_ : VOps) (x : LaneIn) : LaneOut :=
  let ctl := x.wc.toNat
  let pos := ctl % 256
  let len := min (ctl / 256 % 256) 32
  let m := wordOfNat ((2 ^ len - 1) * 2 ^ pos)
  pushWord ((x.wb &&& ~~~m) ||| (wordOfNat (x.wa.toNat * 2 ^ pos) &&& m))

/-- The number of set bits, leading zeros and trailing zeros of a w-bit value (R219, R230). -/
def popCount (w n : Nat) : Nat := (List.range w).countP fun i => n / 2 ^ i % 2 == 1
def leadZeros (w n : Nat) : Nat := if n % 2 ^ w = 0 then w else w - 1 - (n % 2 ^ w).log2
def trailZeros (w n : Nat) : Nat := ((List.range w).find? fun i => n / 2 ^ i % 2 == 1).getD w

def opPopc (_ : VOps) (x : LaneIn) : LaneOut := pushWord (wordOfNat (popCount 32 x.wa.toNat))
def opClz (_ : VOps) (x : LaneIn) : LaneOut := pushWord (wordOfNat (leadZeros 32 x.wa.toNat))
def opCtz (_ : VOps) (x : LaneIn) : LaneOut := pushWord (wordOfNat (trailZeros 32 x.wa.toNat))
def opBrev (_ : VOps) (x : LaneIn) : LaneOut := pushWord x.wa.reverse

/-- PRMB (R220). -/
def opPrmb (_ : VOps) (x : LaneIn) : LaneOut :=
  let u := (joinPair x.wa x.wb).toNat
  let byte (i : Nat) : Nat :=
    let nib := x.wc.toNat / 16 ^ i % 16
    let v := u / 256 ^ (nib % 8) % 256
    if 8 ≤ nib then (if 128 ≤ v then 255 else 0) else v
  pushWord (packElems 8 [byte 0, byte 1, byte 2, byte 3])

/-- The condition codes of R221. -/
def intCond (code : Nat) (x y : Int) : Bool :=
  match code with
  | 0 => x == y
  | 1 => x != y
  | 2 => decide (x < y)
  | 3 => decide (x ≤ y)
  | 4 => decide (y < x)
  | _ => decide (y ≤ x)

def opIcmp (f : VOps) (x : LaneIn) : LaneOut :=
  let c := f.imm.toNat / 8 % 8
  setPred (if tyPair f.ty then intCond c (pairInt f.ty x.a) (pairInt f.ty x.b)
    else intCond c (wordInt f.ty x.wa) (wordInt f.ty x.wb))

def opIsel (_ : VOps) (x : LaneIn) : LaneOut := pushWord (if x.wc ≠ 0 then x.wa else x.wb)

/-- IADDC (R223). -/
def opIaddc (f : VOps) (x : LaneIn) : LaneOut :=
  let u := x.wa.toNat + x.wb.toNat + x.wc.toNat % 2
  pushWord (wordOfNat (if f.mod.getLsbD 0 then u / 2 ^ 32 else u))

/-- AGEN (R225). -/
def opAgen (f : VOps) (x : LaneIn) : LaneOut :=
  let j : DWord := if tySigned f.ty then x.wb.signExtend 64 else x.wb.setWidth 64
  pushPair (x.a + (j <<< (f.mod.toNat % 4)) + x.wc.signExtend 64)

def opIadd64 (f : VOps) (x : LaneIn) : LaneOut := pushPair (if f.mod.getLsbD 0 then x.a - x.b else x.a + x.b)

def opIext (f : VOps) (x : LaneIn) : LaneOut := pushWord (wordOfInt (elemInt f.ty (f.imm.toNat % 8) x.wa))

/-- IDOT4 (R227). -/
def opIdot4 (f : VOps) (x : LaneIn) : LaneOut :=
  let sa := tySigned f.ty
  let mix := f.mod.getLsbD 0
  let sb := if mix then !sa else sa
  let accSigned := sa || sb
  let acc : Int := if accSigned then x.wc.toInt else (x.wc.toNat : Int)
  let v := (List.range 4).foldl (fun (t : Int) i =>
    t + codeInt sa 8 (elemNat 8 i x.wa) * codeInt sb 8 (elemNat 8 i x.wb)) acc
  let v := if f.mod.getLsbD 1 then satInt (if accSigned then .i32 else .n32) v else v
  pushWord (wordOfInt v)

/-! ## Operand class, one lane (R182, R187, R189) -/

def opPick (_ : VOps) (x : LaneIn) : LaneOut := pushWord x.wa
def opPick2 (f : VOps) (x : LaneIn) : LaneOut := if tyPair f.ty then pushPair x.a else { push := [x.wa, x.wb] }

/-- SETP (R187). -/
def opSetp (f : VOps) (x : LaneIn) : LaneOut :=
  let b := x.wa.getLsbD (f.imm.toNat / 8)
  setPred (match f.mod.toNat with
    | 0 => x.wa != 0
    | 1 => x.wa == 0
    | 2 => b
    | _ => !b)

end Sys2Proof.Machine
end

