-- ==== Sys2Proof/WellFormed.lean ====
section
/-! DEFINITION. Well-formed instructions: those whose fields no cause of R65 forbids. An event is well formed. -/

namespace Sys2Proof

open Machine

/-- An instruction with its opcode and the fields of its format (R83); events have no word. -/
inductive Form where
  | v (op : Nat) (f : VOps)
  | plop (f : PlopOps)
  | s (op : Nat) (f : SOps)
  | smovi (f : SmoviOps)
  | m (op : Nat) (f : MOps)
  | b (op : Nat) (f : BOps)
  | bi (op : Nat) (f : BIOps)
  | e (op : Nat) (f : EOps)
  | t (op : Nat) (f : TOps)
  | event
deriving DecidableEq, Repr

def Instr.form : Instr → Form
  | .nop f => .b 0x000 f
  | .br f => .b 0x001 f
  | .brc f => .b 0x002 f
  | .jmpi f => .bi 0x003 f
  | .brk f => .b 0x004 f
  | .yldp f => .b 0x005 f
  | .exit f => .b 0x006 f
  | .call f => .b 0x007 f
  | .calli f => .bi 0x008 f
  | .ret f => .b 0x009 f
  | .pick f => .v 0x020 f
  | .pick2 f => .v 0x021 f
  | .save f => .v 0x022 f
  | .savem f => .v 0x023 f
  | .frame f => .v 0x024 f
  | .rjn f => .v 0x025 f
  | .setp f => .v 0x026 f
  | .plop f => .plop f
  | .p2v f => .v 0x028 f
  | .iadd f => .v 0x040 f
  | .isub f => .v 0x041 f
  | .imul f => .v 0x042 f
  | .imulh f => .v 0x043 f
  | .imad f => .v 0x044 f
  | .imadw f => .v 0x045 f
  | .idivm f => .v 0x046 f
  | .imin f => .v 0x047 f
  | .imax f => .v 0x048 f
  | .iabs f => .v 0x049 f
  | .ineg f => .v 0x04A f
  | .iadds f => .v 0x04B f
  | .isubs f => .v 0x04C f
  | .and f => .v 0x04D f
  | .or f => .v 0x04E f
  | .xor f => .v 0x04F f
  | .andn f => .v 0x050 f
  | .not f => .v 0x051 f
  | .shl f => .v 0x052 f
  | .shr f => .v 0x053 f
  | .sar f => .v 0x054 f
  | .funsh f => .v 0x055 f
  | .bfx f => .v 0x056 f
  | .bfi f => .v 0x057 f
  | .popc f => .v 0x058 f
  | .clz f => .v 0x059 f
  | .ctz f => .v 0x05A f
  | .brev f => .v 0x05B f
  | .prmb f => .v 0x05C f
  | .icmp f => .v 0x05D f
  | .isel f => .v 0x05E f
  | .iaddc f => .v 0x05F f
  | .agen f => .v 0x060 f
  | .iadd64 f => .v 0x061 f
  | .iext f => .v 0x062 f
  | .idot4 f => .v 0x063 f
  | .fadd f => .v 0x080 f
  | .fsub f => .v 0x081 f
  | .fmul f => .v 0x082 f
  | .ffma f => .v 0x083 f
  | .fmin f => .v 0x084 f
  | .fmax f => .v 0x085 f
  | .fcmp f => .v 0x086 f
  | .fclass f => .v 0x087 f
  | .frnd f => .v 0x088 f
  | .fscale f => .v 0x089 f
  | .frcp f => .v 0x08A f
  | .frsq f => .v 0x08B f
  | .fsqrt f => .v 0x08C f
  | .fdiv f => .v 0x08D f
  | .fex2 f => .v 0x08E f
  | .flg2 f => .v 0x08F f
  | .fsin f => .v 0x090 f
  | .fcos f => .v 0x091 f
  | .ftanh f => .v 0x092 f
  | .fcvt f => .v 0x093 f
  | .fcvti f => .v 0x094 f
  | .icvtf f => .v 0x095 f
  | .hadd2 f => .v 0x096 f
  | .hmul2 f => .v 0x097 f
  | .hfma2 f => .v 0x098 f
  | .hmin2 f => .v 0x099 f
  | .hmax2 f => .v 0x09A f
  | .qscl f => .v 0x09B f
  | .fpack f => .v 0x09C f
  | .funpk f => .v 0x09D f
  | .qswp f => .v 0x0C0 f
  | .qbc f => .v 0x0C1 f
  | .shfl f => .v 0x0C2 f
  | .vote f => .v 0x0C3 f
  | .redv f => .v 0x0C4 f
  | .scan f => .v 0x0C5 f
  | .matchLanes f => .v 0x0C6 f
  | .xsend f => .v 0x0C7 f
  | .xrecv f => .v 0x0C8 f
  | .rdlane f => .v 0x0C9 f
  | .wrlane f => .v 0x0CA f
  | .sadd f => .s 0x0E0 f
  | .ssub f => .s 0x0E1 f
  | .smul f => .s 0x0E2 f
  | .sand f => .s 0x0E3 f
  | .sor f => .s 0x0E4 f
  | .sxor f => .s 0x0E5 f
  | .sshl f => .s 0x0E6 f
  | .sshr f => .s 0x0E7 f
  | .ssar f => .s 0x0E8 f
  | .smin f => .s 0x0E9 f
  | .smax f => .s 0x0EA f
  | .scmp f => .s 0x0EB f
  | .ssel f => .s 0x0EC f
  | .smovk f => .s 0x0ED f
  | .smovi f => .smovi f
  | .sld f => .s 0x0EF f
  | .sst f => .s 0x0F0 f
  | .spopc f => .s 0x0F1 f
  | .sclz f => .s 0x0F2 f
  | .smovs f => .s 0x0F3 f
  | .sbfx f => .s 0x0F4 f
  | .ld f => .m 0x100 f
  | .st f => .m 0x101 f
  | .ldl f => .m 0x102 f
  | .stl f => .m 0x103 f
  | .atom f => .m 0x104 f
  | .acas f => .m 0x105 f
  | .fence f => .m 0x106 f
  | .pref f => .m 0x107 f
  | .spres f => .m 0x108 f
  | .invl f => .m 0x109 f
  | .cpy f => .e 0x120 f
  | .cpyg f => .e 0x121 f
  | .cpys f => .e 0x122 f
  | .cmt f => .t 0x123 f
  | .waitt f => .t 0x124 f
  | .tlrd f => .t 0x125 f
  | .bar f => .t 0x126 f
  | .barc f => .t 0x127 f
  | .arv f => .t 0x128 f
  | .wph f => .t 0x129 f
  | .yield f => .t 0x12A f
  | .btake f => .t 0x140 f
  | .bpass f => .t 0x141 f
  | .mms f => .e 0x142 f
  | .mml f => .e 0x143 f
  | .aclr f => .e 0x144 f
  | .ald f => .e 0x145 f
  | .adrn f => .e 0x146 f
  | .adrv f => .e 0x147 f
  | .talloc f => .e 0x148 f
  | .tfree f => .e 0x149 f
  | .mcnt f => .e 0x160 f
  | .mcntl f => .e 0x161 f
  | .mmrg f => .e 0x162 f
  | .cntz f => .e 0x163 f
  | .bfly f => .e 0x164 f
  | .bflyp f => .e 0x165 f
  | .twg f => .v 0x166 f
  | .enq f => .t 0x180 f
  | .enqd f => .t 0x181 f
  | .deq f => .t 0x182 f
  | .dcadd f => .t 0x183 f
  | .dcrd f => .t 0x184 f
  | .fres f => .t 0x185 f
  | .fjoin f => .t 0x186 f
  | .fget f => .t 0x187 f
  | .nextch f => .t 0x188 f
  | .tinfo f => .t 0x189 f
  | .trap f => .t 0x1A0 f
  | .bpt f => .t 0x1A1 f
  | .tret f => .t 0x1A2 f
  | .csrr f => .t 0x1A3 f
  | .csrw f => .t 0x1A4 f
  | .time f => .t 0x1A7 f
  | .ctrrd f => .t 0x1A8 f
  | .ctrcfg f => .t 0x1A9 f
  | .flags f => .v 0x1A5 f
  | .flclr f => .v 0x1A6 f
  | .missDataReturn _ _ _ => .event
  | .storeQueueDrain _ _ => .event
  | .pageWalk _ _ => .event
  | .accessReplay _ _ => .event
  | .icacheFill _ _ _ => .event
  | .bundleRefetch _ _ => .event
  | .cardParse _ _ => .event
  | .fenceConditionMet _ _ => .event
  | .dealChunk _ => .event
  | .stealChunk _ => .event
  | .workgroupStart _ => .event
  | .jobComplete _ => .event
  | .copyPiece _ _ _ _ _ => .event
  | .copyComplete _ _ => .event
  | .engineCommandStart _ _ _ => .event
  | .engineCommandComplete _ _ => .event
  | .adrvDrain _ _ => .event
  | .schedulerSwap _ _ => .event
  | .forcedSwap _ => .event
  | .freeSlotFill _ => .event
  | .gatingEntry _ => .event
  | .gatingHoldoffExpire _ => .event
  | .gatingExitDone _ => .event
  | .preemptReq _ => .event
  | .groupPreemptStop _ _ => .event
  | .preemptTimeout _ _ => .event
  | .preemptResume _ => .event
  | .groupResume _ _ => .event
  | .rowClaimComplete _ => .event
  | .tileSpill _ _ => .event
  | .quantumExpire _ => .event
  | .groupRetire _ _ => .event
  | .groupTerminate _ _ => .event
  | .engineFaultDelivery _ _ => .event
  | .debugHalt _ _ => .event
  | .debugStep _ _ => .event
  | .debugFocus _ _ _ => .event
  | .debugUnfocus _ _ => .event
  | .debugRun _ _ => .event
  | .debugDump _ _ => .event
  | .instructionSample _ _ => .event
  | .jobQueueDoorbell _ _ _ => .event
  | .queueEnWrite _ _ _ _ => .event
  | .faultResume _ _ => .event
  | .fqconsWrite _ _ => .event
  | .biasFlipToDevice _ _ => .event
  | .biasFlipToHost _ _ => .event
  | .biasFlipComplete _ => .event
  | .tlbInvalidateRange _ _ => .event
  | .tlbInvalidateAll _ => .event
  | .stage2Invalidate _ => .event
  | .invalidationComplete _ _ => .event
  | .placementWrite _ _ _ => .event
  | .vfbindWrite _ _ => .event
  | .policySubmit _ => .event
  | .policyVerifyDone _ => .event
  | .policyTeardown _ => .event
  | .quoteRequest _ => .event
  | .quoteComplete => .event
  | .latencyMonitorConfig _ _ _ => .event
  | .logOvfClear _ => .event
  | .halfReadLow _ _ _ => .event
  | .halfReadHigh _ _ _ => .event
  | .warmStart => .event
  | .registerWrite _ _ _ => .event
  | .coldStart => .event
  | .pcieReset => .event
  | .softError _ _ _ => .event
  | .hostMemAccess _ _ _ => .event
  | .remoteFrameReceive _ => .event
  | .osierRetransmit _ => .event
  | .osierPortFail _ => .event
  | .droopDetect _ => .event
  | .clockReturnStep _ => .event
  | .powerCapStep _ => .event
  | .thermalThrottle _ _ => .event
  | .thermalShutdown _ _ => .event
  | .sagEnd _ => .event
  | .powerLoss => .event
  | .osierPortEnable _ _ => .event
  | .osierPortUp _ => .event
  | .spilledLineArrival _ _ _ => .event

/-- The lowest subcode of R65 that an instruction's fields deserve. -/
def breach (i : Instr) : Option Nat :=
  match i.form with
  | .v op f => admitV op f
  | .plop f => admitPlop f
  | .s op f => admitS op f
  | .smovi f => admitSmovi f
  | .m op f => admitM op f
  | .b op f => admitB op f
  | .bi op f => admitBI op f
  | .e op f => admitE op f
  | .t op f => admitT op f
  | .event => none

/-- No cause of R65 forbids the instruction. -/
def Instr.wf (i : Instr) : Bool := breach i == none

end Sys2Proof
end

