-- ==== Sys2Proof/Decode.lean ====
section
/-! DEFINITION. Decoding and encoding of instruction words (R62 to R84), the bundle header and its check code (R45 to
R47), and the word that the host asks about. Decoding is total: a word is an instruction or the lowest subcode of R65
that it deserves. -/

namespace Sys2Proof

open Machine

/-! ## The instructions of each format, by opcode (R83) -/

def mkV : Nat → Option (VOps → Instr)
  | 0x020 => some .pick
  | 0x021 => some .pick2
  | 0x022 => some .save
  | 0x023 => some .savem
  | 0x024 => some .frame
  | 0x025 => some .rjn
  | 0x026 => some .setp
  | 0x028 => some .p2v
  | 0x040 => some .iadd
  | 0x041 => some .isub
  | 0x042 => some .imul
  | 0x043 => some .imulh
  | 0x044 => some .imad
  | 0x045 => some .imadw
  | 0x046 => some .idivm
  | 0x047 => some .imin
  | 0x048 => some .imax
  | 0x049 => some .iabs
  | 0x04A => some .ineg
  | 0x04B => some .iadds
  | 0x04C => some .isubs
  | 0x04D => some .and
  | 0x04E => some .or
  | 0x04F => some .xor
  | 0x050 => some .andn
  | 0x051 => some .not
  | 0x052 => some .shl
  | 0x053 => some .shr
  | 0x054 => some .sar
  | 0x055 => some .funsh
  | 0x056 => some .bfx
  | 0x057 => some .bfi
  | 0x058 => some .popc
  | 0x059 => some .clz
  | 0x05A => some .ctz
  | 0x05B => some .brev
  | 0x05C => some .prmb
  | 0x05D => some .icmp
  | 0x05E => some .isel
  | 0x05F => some .iaddc
  | 0x060 => some .agen
  | 0x061 => some .iadd64
  | 0x062 => some .iext
  | 0x063 => some .idot4
  | 0x080 => some .fadd
  | 0x081 => some .fsub
  | 0x082 => some .fmul
  | 0x083 => some .ffma
  | 0x084 => some .fmin
  | 0x085 => some .fmax
  | 0x086 => some .fcmp
  | 0x087 => some .fclass
  | 0x088 => some .frnd
  | 0x089 => some .fscale
  | 0x08A => some .frcp
  | 0x08B => some .frsq
  | 0x08C => some .fsqrt
  | 0x08D => some .fdiv
  | 0x08E => some .fex2
  | 0x08F => some .flg2
  | 0x090 => some .fsin
  | 0x091 => some .fcos
  | 0x092 => some .ftanh
  | 0x093 => some .fcvt
  | 0x094 => some .fcvti
  | 0x095 => some .icvtf
  | 0x096 => some .hadd2
  | 0x097 => some .hmul2
  | 0x098 => some .hfma2
  | 0x099 => some .hmin2
  | 0x09A => some .hmax2
  | 0x09B => some .qscl
  | 0x09C => some .fpack
  | 0x09D => some .funpk
  | 0x0C0 => some .qswp
  | 0x0C1 => some .qbc
  | 0x0C2 => some .shfl
  | 0x0C3 => some .vote
  | 0x0C4 => some .redv
  | 0x0C5 => some .scan
  | 0x0C6 => some .matchLanes
  | 0x0C7 => some .xsend
  | 0x0C8 => some .xrecv
  | 0x0C9 => some .rdlane
  | 0x0CA => some .wrlane
  | 0x166 => some .twg
  | 0x1A5 => some .flags
  | 0x1A6 => some .flclr
  | _ => none

def mkS : Nat → Option (SOps → Instr)
  | 0x0E0 => some .sadd
  | 0x0E1 => some .ssub
  | 0x0E2 => some .smul
  | 0x0E3 => some .sand
  | 0x0E4 => some .sor
  | 0x0E5 => some .sxor
  | 0x0E6 => some .sshl
  | 0x0E7 => some .sshr
  | 0x0E8 => some .ssar
  | 0x0E9 => some .smin
  | 0x0EA => some .smax
  | 0x0EB => some .scmp
  | 0x0EC => some .ssel
  | 0x0ED => some .smovk
  | 0x0EF => some .sld
  | 0x0F0 => some .sst
  | 0x0F1 => some .spopc
  | 0x0F2 => some .sclz
  | 0x0F3 => some .smovs
  | 0x0F4 => some .sbfx
  | _ => none

def mkM : Nat → Option (MOps → Instr)
  | 0x100 => some .ld
  | 0x101 => some .st
  | 0x102 => some .ldl
  | 0x103 => some .stl
  | 0x104 => some .atom
  | 0x105 => some .acas
  | 0x106 => some .fence
  | 0x107 => some .pref
  | 0x108 => some .spres
  | 0x109 => some .invl
  | _ => none

def mkB : Nat → Option (BOps → Instr)
  | 0x000 => some .nop
  | 0x001 => some .br
  | 0x002 => some .brc
  | 0x004 => some .brk
  | 0x005 => some .yldp
  | 0x006 => some .exit
  | 0x007 => some .call
  | 0x009 => some .ret
  | _ => none

def mkBI : Nat → Option (BIOps → Instr)
  | 0x003 => some .jmpi
  | 0x008 => some .calli
  | _ => none

def mkE : Nat → Option (EOps → Instr)
  | 0x120 => some .cpy
  | 0x121 => some .cpyg
  | 0x122 => some .cpys
  | 0x142 => some .mms
  | 0x143 => some .mml
  | 0x144 => some .aclr
  | 0x145 => some .ald
  | 0x146 => some .adrn
  | 0x147 => some .adrv
  | 0x148 => some .talloc
  | 0x149 => some .tfree
  | 0x160 => some .mcnt
  | 0x161 => some .mcntl
  | 0x162 => some .mmrg
  | 0x163 => some .cntz
  | 0x164 => some .bfly
  | 0x165 => some .bflyp
  | _ => none

def mkT : Nat → Option (TOps → Instr)
  | 0x123 => some .cmt
  | 0x124 => some .waitt
  | 0x125 => some .tlrd
  | 0x126 => some .bar
  | 0x127 => some .barc
  | 0x128 => some .arv
  | 0x129 => some .wph
  | 0x12A => some .yield
  | 0x140 => some .btake
  | 0x141 => some .bpass
  | 0x180 => some .enq
  | 0x181 => some .enqd
  | 0x182 => some .deq
  | 0x183 => some .dcadd
  | 0x184 => some .dcrd
  | 0x185 => some .fres
  | 0x186 => some .fjoin
  | 0x187 => some .fget
  | 0x188 => some .nextch
  | 0x189 => some .tinfo
  | 0x1A0 => some .trap
  | 0x1A1 => some .bpt
  | 0x1A2 => some .tret
  | 0x1A3 => some .csrr
  | 0x1A4 => some .csrw
  | 0x1A7 => some .time
  | 0x1A8 => some .ctrrd
  | 0x1A9 => some .ctrcfg
  | _ => none

/-! ## Words of each format -/

/-- A 10-bit name field, an 8-bit scalar name field, a 4-bit guard field. -/
def vBits (x : VName) : BitVec 10 := BitVec.ofNat 10 (vnameCode x)
def sBits (x : SName) : BitVec 8 := BitVec.ofNat 8 (snameCode x)
def gBits (g : Guard) : BitVec 4 := BitVec.ofNat 4 (guardCode g)
def finBits (w : Nat) {n : Nat} (x : Fin n) : BitVec w := BitVec.ofNat w x.val
def bit1 (b : Bool) : BitVec 1 := BitVec.ofBool b

/-- Format V (R62, R67). -/
def wordV (op : Nat) (f : VOps) : DWord :=
  BitVec.ofNat 9 op ++ gBits f.g1 ++ gBits f.g2 ++ vBits f.a ++ vBits f.b ++ vBits f.c ++
    BitVec.ofNat 4 (tyCode f.ty) ++ f.mod ++ f.imm ++ 0#1

/-- PLOP (R188): names null, TYPE holds pb, MOD the truth table, imm8 pd and pa. -/
def wordPlop (f : PlopOps) : DWord :=
  0x027#9 ++ gBits f.g1 ++ gBits f.g2 ++ 0x3E0#10 ++ 0x3E0#10 ++ 0x3E0#10 ++ 0#1 ++ finBits 3 f.pb ++ f.table ++
    0#2 ++ finBits 3 f.pa ++ finBits 3 f.pd ++ 0#1

/-- Format S (R70). -/
def wordS (op : Nat) (f : SOps) : DWord :=
  BitVec.ofNat 9 op ++ gBits f.g1 ++ gBits f.g2 ++ finBits 6 f.d ++ sBits f.a ++ sBits f.b ++ sBits f.c ++
    BitVec.ofNat 4 (tyCode f.ty) ++ f.mod ++ f.imm ++ 0#1

/-- SMOVI (R233): the literal over SSA, SSB, SSC and IMM. -/
def wordSmovi (f : SmoviOps) : DWord :=
  0x0EE#9 ++ gBits f.g1 ++ gBits f.g2 ++ finBits 6 f.d ++ f.lit.extractLsb' 8 24 ++
    BitVec.ofNat 4 (tyCode f.ty) ++ 0#3 ++ bit1 f.hi ++ f.lit.extractLsb' 0 8 ++ 0#1

/-- Format M (R71). -/
def wordM (op : Nat) (f : MOps) : DWord :=
  BitVec.ofNat 9 op ++ gBits f.g1 ++ gBits f.g2 ++ finBits 6 f.base ++ vBits f.ofs ++ vBits f.data ++ f.size ++
    f.scale ++ BitVec.ofNat 3 (scopeCode f.scope) ++ f.order ++ f.hint ++ f.disp

/-- Format B (R75). -/
def wordB (op : Nat) (f : BOps) : DWord :=
  BitVec.ofNat 9 op ++ gBits f.g1 ++ gBits f.g2 ++ f.disp ++ f.disp2 ++ gBits f.cond ++ f.aux

def wordBI (op : Nat) (f : BIOps) : DWord :=
  BitVec.ofNat 9 op ++ gBits f.g1 ++ gBits f.g2 ++ finBits 6 f.t ++ 0#14 ++ 0#20 ++ 0#4 ++ f.aux

/-- Format E (R76). -/
def wordE (op : Nat) (f : EOps) : DWord :=
  BitVec.ofNat 9 op ++ gBits f.g1 ++ gBits f.g2 ++ finBits 2 f.tile ++ vBits f.an ++ finBits 6 f.p ++ finBits 6 f.q ++
    finBits 7 f.kix ++ f.cnt ++ bit1 f.reuse ++ bit1 f.commit ++ f.mode

/-- Format T (R77). -/
def wordT (op : Nat) (f : TOps) : DWord :=
  BitVec.ofNat 9 op ++ gBits f.g1 ++ gBits f.g2 ++ finBits 6 f.d ++ finBits 6 f.a ++ finBits 6 f.b ++ finBits 7 f.kix ++
    f.imm ++ f.op

/-- The word of an instruction; none for an event. -/
def encode (i : Instr) : Option DWord :=
  match i.form with
  | .v op f => some (wordV op f)
  | .plop f => some (wordPlop f)
  | .s op f => some (wordS op f)
  | .smovi f => some (wordSmovi f)
  | .m op f => some (wordM op f)
  | .b op f => some (wordB op f)
  | .bi op f => some (wordBI op f)
  | .e op f => some (wordE op f)
  | .t op f => some (wordT op f)
  | .event => none

/-! ## Decoding -/

/-- Bits [lo + len − 1 : lo] of a word, as a number. -/
def fld (w : DWord) (lo len : Nat) : Nat := (w.extractLsb' lo len).toNat
def guard1 (w : DWord) : Guard := guardOfCode (fld w 51 4)
def guard2 (w : DWord) : Guard := guardOfCode (fld w 47 4)
def fin64 (n : Nat) : Fin 64 := ⟨n % 64, Nat.mod_lt _ (by decide)⟩
def fin128 (n : Nat) : Fin 128 := ⟨n % 128, Nat.mod_lt _ (by decide)⟩
def fin8 (n : Nat) : Fin 8 := ⟨n % 8, Nat.mod_lt _ (by decide)⟩
def fin4 (n : Nat) : Fin 4 := ⟨n % 4, Nat.mod_lt _ (by decide)⟩

/-- Accept a decoded instruction unless a cause of R65 holds; `raw4` is a bit that the format marks zero. -/
def finish (i : Instr) (raw4 : Bool) : Except Nat Instr :=
  match breach i with
  | none => if raw4 then .error 4 else .ok i
  | some n => if raw4 && decide (4 < n) then .error 4 else .error n

def decodeV (mk : VOps → Instr) (w : DWord) : Except Nat Instr :=
  match vnameOfCode (fld w 37 10), vnameOfCode (fld w 27 10), vnameOfCode (fld w 17 10) with
  | some a, some b, some c =>
    match tyOfCode (fld w 13 4) with
    | some ty => finish (mk ⟨guard1 w, guard2 w, a, b, c, ty, w.extractLsb' 9 4, w.extractLsb' 1 8⟩) (w.getLsbD 0)
    | none => .error 3
  | _, _, _ => .error 2

def decodePlop (w : DWord) : Except Nat Instr :=
  match vnameOfCode (fld w 37 10), vnameOfCode (fld w 27 10), vnameOfCode (fld w 17 10) with
  | some a, some b, some c =>
    if w.getLsbD 0 || w.getLsbD 16 then .error 4
    else if a != .zero || b != .zero || c != .zero then .error 5
    else if fld w 7 2 != 0 then (match admitPlop ⟨guard1 w, guard2 w, 0, 1, 0, 0⟩ with
      | some n => .error n
      | none => .error 7)
    else finish (.plop ⟨guard1 w, guard2 w, w.extractLsb' 9 4, fin8 (fld w 1 3), fin8 (fld w 4 3), fin8 (fld w 13 3)⟩)
      false
  | _, _, _ => .error 2

def decodeS (mk : SOps → Instr) (w : DWord) : Except Nat Instr :=
  match snameOfCode (fld w 33 8), snameOfCode (fld w 25 8), snameOfCode (fld w 17 8) with
  | some a, some b, some c =>
    match tyOfCode (fld w 13 4) with
    | some ty => finish (mk ⟨guard1 w, guard2 w, fin64 (fld w 41 6), a, b, c, ty, w.extractLsb' 9 4,
        w.extractLsb' 1 8⟩) (w.getLsbD 0)
    | none => .error 3
  | _, _, _ => .error 2

def decodeSmovi (w : DWord) : Except Nat Instr :=
  match tyOfCode (fld w 13 4) with
  | some ty =>
    let f : SmoviOps := ⟨guard1 w, guard2 w, fin64 (fld w 41 6), ty, w.getLsbD 9,
      w.extractLsb' 17 24 ++ w.extractLsb' 1 8⟩
    match finish (.smovi f) (w.getLsbD 0) with
    | .ok i => if fld w 10 3 != 0 then .error 7 else .ok i
    | e => e
  | none => .error 3

def decodeM (op : Nat) (mk : MOps → Instr) (w : DWord) : Except Nat Instr :=
  match vnameOfCode (fld w 31 10), vnameOfCode (fld w 21 10) with
  | some ofs, some data =>
    match scopeOfCode (fld w 12 3) with
    | some sc => finish (mk ⟨guard1 w, guard2 w, fin64 (fld w 41 6), ofs, data, w.extractLsb' 17 4, w.extractLsb' 15 2,
        sc, w.extractLsb' 10 2, w.extractLsb' 8 2, w.extractLsb' 0 8⟩) false
    | none => .error ((admitM op ⟨guard1 w, guard2 w, fin64 (fld w 41 6), ofs, data, w.extractLsb' 17 4,
        w.extractLsb' 15 2, .group, w.extractLsb' 10 2, w.extractLsb' 8 2, w.extractLsb' 0 8⟩ true).getD 7)
  | _, _ => .error 2

def decodeB (mk : BOps → Instr) (w : DWord) : Except Nat Instr :=
  finish (mk ⟨guard1 w, guard2 w, w.extractLsb' 27 20, w.extractLsb' 7 20, guardOfCode (fld w 3 4),
    w.extractLsb' 0 3⟩) false

def decodeBI (mk : BIOps → Instr) (w : DWord) : Except Nat Instr :=
  if fld w 27 14 != 0 then .error 4
  else if fld w 7 20 != 0 || fld w 3 4 != 0 then .error 5
  else finish (mk ⟨guard1 w, guard2 w, fin64 (fld w 41 6), w.extractLsb' 0 3⟩) false

def decodeE (mk : EOps → Instr) (w : DWord) : Except Nat Instr :=
  match vnameOfCode (fld w 35 10) with
  | some an => finish (mk ⟨guard1 w, guard2 w, fin4 (fld w 45 2), an, fin64 (fld w 29 6), fin64 (fld w 23 6),
      fin128 (fld w 16 7), w.extractLsb' 8 8, w.getLsbD 7, w.getLsbD 6, w.extractLsb' 0 6⟩) false
  | none => .error 2

def decodeT (mk : TOps → Instr) (w : DWord) : Except Nat Instr :=
  finish (mk ⟨guard1 w, guard2 w, fin64 (fld w 41 6), fin64 (fld w 35 6), fin64 (fld w 29 6), fin128 (fld w 22 7),
    w.extractLsb' 14 8, w.extractLsb' 0 14⟩) false

/-- The instruction of a 64-bit word, or the lowest subcode of ILLEGAL_INSTRUCTION that it deserves (R65, R84); 0x09
depends on where the word stands and is checked at issue. -/
def decode (w : DWord) : Except Nat Instr :=
  let op := fld w 55 9
  if op = 0x027 then decodePlop w
  else if op = 0x0EE then decodeSmovi w
  else match mkV op with
  | some mk => decodeV mk w
  | none =>
    match mkS op with
    | some mk => decodeS mk w
    | none =>
      match mkM op with
      | some mk => decodeM op mk w
      | none =>
        match mkB op with
        | some mk => decodeB mk w
        | none =>
          match mkBI op with
          | some mk => decodeBI mk w
          | none =>
            match mkE op with
            | some mk => decodeE mk w
            | none =>
              match mkT op with
              | some mk => decodeT mk w
              | none => .error 1

/-- The instruction that the decoder reads from a word whose low bits are given (the opcode table gives its rows no
bits, so any number of low bits may be named). -/
def decodeTableWord (nbits w : Nat) : Option Instr :=
  match decode (BitVec.ofNat 64 (w % 2 ^ nbits)) with
  | .ok i => some i
  | .error _ => none

/-! ## Bundles (R45 to R47) -/

/-- One step of the CRC-24 of R46: the register after one bit. -/
def crcBit (r : BitVec 24) (b : Bool) : BitVec 24 :=
  if r.msb != b then (r <<< 1) ^^^ 0x864CFB#24 else r <<< 1

/-- A byte, most significant bit first. -/
def crcByte (r : BitVec 24) (x : Byte) : BitVec 24 :=
  crcBit (crcBit (crcBit (crcBit (crcBit (crcBit (crcBit (crcBit r (x.getLsbD 7)) (x.getLsbD 6)) (x.getLsbD 5))
    (x.getLsbD 4)) (x.getLsbD 3)) (x.getLsbD 2)) (x.getLsbD 1)) (x.getLsbD 0)

/-- A word's bytes in ascending address order (R2). -/
def crcWord (r : BitVec 24) (w : DWord) : BitVec 24 :=
  (List.range 8).foldl (fun r i => crcByte r (w.extractLsb' (8 * i) 8)) r

/-- The check code of the seven slots (R46). -/
def crc24 (slots : List DWord) : BitVec 24 := slots.foldl crcWord 0xB704CE#24

def hdrSig (h : DWord) : Nat := fld h 58 6
def hdrKind (h : DWord) : Nat := fld h 56 2
def hdrSv (h : DWord) : BitVec 7 := h.extractLsb' 49 7
def hdrRjt (h : DWord) : Bool := h.getLsbD 48
def hdrEntry (h : DWord) : Bool := h.getLsbD 47

/-- The header of a bundle with these fields and a right check code (R45). -/
def mkHeader (sv : BitVec 7) (rjt entry : Bool) (slots : List DWord) : DWord :=
  0x3F#6 ++ 0#2 ++ sv ++ bit1 rjt ++ bit1 entry ++ 0#23 ++ crc24 slots

/-- The first condition of R47 that a bundle (header and seven slots) fails, by subcode. -/
def bundleFault (words : List DWord) : Option Nat :=
  let h := words.headD 0
  let slots := words.tail
  let slot1 := slots.headD 0
  firstCause [
    (1, hdrSig h != 0x3F),
    (2, hdrKind h != 0),
    (3, fld h 24 23 != 0),
    (4, h.extractLsb' 0 24 != crc24 slots),
    (5, hdrRjt h && (!(hdrSv h).getLsbD 0 || fld slot1 55 9 != 0x025))]

end Sys2Proof
end

