-- ==== Sys2Proof/Machine/State.lean ====
section
/-! DEFINITION. The state of the module as plain data: every register, memory, queue and engine the spec gives it, the
reasons a step can stop, and the state after reset. Sparse tables are lists of (key, value) pairs with rising keys and
no entry equal to the default (Machine/Store.lean holds their operations). -/

namespace Sys2Proof.Machine

/-- A sparse table from numbers: rising keys, no entry equal to the table's default. -/
abbrev NMap (α : Type) := List (Nat × α)

/-- Bytes by address, in the same canonical form (R2). -/
abbrev Mem := List Host.Cell

/-! ## Operand state of a group (R170 to R176) -/

/-- What one coil or frame slot of a lane holds: a word, a value still to arrive (request and part, R155, R304), or
poisoned data with the PC of its load (R300, R302). -/
inductive Val where
  | word (w : Word)
  | pend (id part : Nat)
  | poison (pc : DWord)
deriving DecidableEq, Repr

/-- One lane's part of an activation: push count, floor, coil slots by index, frame slots by number (R170, R174), and the
push sequence number of the push that filled each coil slot (R155). -/
structure LaneAct where
  P : BitVec 32
  F : BitVec 32
  coil : NMap Val
  frame : NMap Val
  seqs : NMap Nat := []
deriving DecidableEq, Repr

/-- One lane: its current activation, predicates p1 to p7 (bit i is p(i+1); p0 is always true), sticky flags and
reported bits (R63, R32, R401). -/
structure Lane where
  act : LaneAct
  preds : BitVec 7
  flags : Flags
  rep : Flags
deriving DecidableEq, Repr

/-- A PC: bundle address and slot 1 to 7; slot 0 names a fetch (R47, R400). -/
structure PC where
  bundle : DWord
  slot : Nat
deriving DecidableEq, Repr

/-- A reconvergence-stack entry (R195): a reconvergence point with members, arrived lanes, bystanders, side codes and
marks, or a pending path. -/
inductive Entry where
  | rcv (bundle : DWord) (depth : Nat) (members arrived byst : LaneMask) (side : NMap Nat) (mark : NMap (BitVec 32))
  | pnd (pc : PC) (depth : Nat) (members mask : LaneMask)
deriving DecidableEq, Repr

/-- A return record (R177) or the record of the interrupted program that a handler's entry saves (R402). -/
inductive RetRec where
  | call (ret : PC) (entryB : DWord) (base frameSize nargs : Nat) (callMask members : LaneMask) (stackBase : Nat)
      (acts : Vector LaneAct 96)
  | handler (entryB : DWord) (base frameSize depth : Nat) (members mask : LaneMask) (preds : Vector (BitVec 7) 96)
      (acts : Vector LaneAct 96) (completing : Bool)
deriving DecidableEq, Repr

/-- A fault record (R400), words 0 to 7 by field, and the entry bundle of the activation that it names (R440). -/
structure FaultRec where
  code : Nat := 0
  sub : Nat := 0
  imp : Bool := false
  term : Bool := false
  inh : Bool := false
  inner : Nat := 0
  isub : Nat := 0
  pc : DWord := 0
  cmd : DWord := 0
  addr : DWord := 0
  lanes : LaneMask := 0
  vf : Nat := 0
  part : Nat := 0
  stamp : Nat := 0
  card : DWord := 0
  entryB : DWord := 0
deriving DecidableEq, Repr

/-- A wait record (R163). -/
structure WaitRec where
  kind : Nat := 0
  sub : Nat := 0
  obj : DWord := 0
  val : DWord := 0
deriving DecidableEq, Repr

/-- Where an access lands once its checks are made: a physical byte (HBM or host memory), a byte of a workgroup's
scratchpad on a core, a byte of a die's scratchpad, or a byte of the accessing lane's frame (R271, R274 to R276,
R285). -/
inductive Loc where
  | phys (pa : Nat)
  | spad (core wg ofs : Nat)
  | dscr (die ofs : Nat)
  | priv (ofs : Nat)
deriving DecidableEq, Repr

/-- What a parked group still has to do when its wait ends: issue its instruction again (one held for an operand, for a
page's replay or for a quota), deliver a fault whose handler was not readable, or finish an instruction that has issued
(R149, R163, R164, R402). -/
inductive Resume where
  | none
  | operand (id : Nat)
  | absent (loc : Loc)
  | replay
  | deliver (rec : FaultRec) (pc : PC)
  | quota (q : Nat) (data : Bool) (n : Nat)
  | timeline (tl : Nat) (n : Nat)
  | counter (va : DWord) (loc : Loc) (least : DWord) (sys : Bool)
  | barrier (cluster : Bool) (b : Nat) (phase : Nat)
  | phase (va : DWord) (loc : Loc) (awaited : DWord)
  | baton
  | tile (t : Nat)
  | publish (q base : Nat) (recs : List (List Word))
  | deq (q base n w : Nat) (lanes : LaneMask)
  | send (slot : Nat) (lanes : LaneMask) (vals : List Word)
  | recv (slot : Nat) (lanes : LaneMask) (id : Nat)
  | future (va : DWord) (loc : Loc) (sd : Nat)
  | retire
deriving DecidableEq, Repr

/-- One lane's (or one line's) part of a queued store or atomic: where, how many bytes, the data, and for ACAS the
expected value (R305, R308, R309). -/
structure SqElem where
  lane : Nat
  loc : Loc
  size : Nat
  data : DWord
  expect : DWord := 0
  writes : Bool := true
  cached : Bool := true
deriving DecidableEq, Repr

/-- What a beat does when it leaves the store queue. -/
inductive BeatOp where
  | store
  | atom (op : Nat) (wide : Bool) (id : Nat)
  | acas (wide : Bool) (id : Nat)
deriving DecidableEq, Repr

/-- A beat of the store queue (R306), with order, scope, hint and the issue stamp that orders it against loads. -/
structure Beat where
  op : BeatOp
  elems : List SqElem
  order : Nat
  scope : Scope
  hint : Nat
  stamp : Nat
  pc : DWord
deriving DecidableEq, Repr

/-- How a pending load's bytes become a word: access size in bytes, sign extension, and whether the lane is a helper's, which
reads zero where its read would fault (R303). -/
structure LoadPart where
  part : Nat
  loc : Loc
  size : Nat
  sext : Bool
  help : Bool := false
deriving DecidableEq, Repr

/-- How an access reaches memory: by L1, at the owning slice (line and atomic accesses), or uncached; `l2` says whether L2
caches it, which for a host-shared page is so in device bias alone (R278, R290, R292). -/
inductive Via where
  | l1 (l2 : Bool)
  | slice (l2 : Bool)
  | uncached
deriving DecidableEq, Repr

/-- What a pending request writes when its data arrives: words of lanes, a scalar, the old values of a queued atomic
beat, or the frame slots of an ADRV (R371). -/
inductive PendDest where
  | lanes (parts : List LoadPart)
  | scalar (r : Nat) (part : LoadPart)
  | queued
  | tile
deriving DecidableEq, Repr

/-- An access whose data has not arrived (R304, R281): request id, wait kind, object, PC, how it reaches
memory, the scope of an acquire, what it writes, whether it has the miss slot it needs, and whether L1 held its line, so that
it needs none (R426). -/
structure PendReq where
  id : Nat
  kind : Nat
  obj : DWord
  pc : DWord
  stamp : Nat
  hint : Nat
  via : Via
  acq : Option Scope
  dest : PendDest
  slot : Bool := true
  hit : Bool := false
deriving DecidableEq, Repr

/-- A timeline (R324): committed count, completed count, the commands of the open batch, the uncompleted commands of
committed batches (batch, command), the number of commands ever put into the open batch, and the tiles they name
(R371, R357). -/
structure Timeline where
  c : Nat := 0
  k : Nat := 0
  openBatch : List Nat := []
  openCount : Nat := 0
  batches : List (Nat × List Nat) := []
  named : List Nat := []
deriving DecidableEq, Repr

/-- Where a resident group stands (R146, R415, R422, R447). -/
inductive GState where
  | running | retiring | halted
deriving DecidableEq, Repr

/-- The live set under which a group halted (R53, R415). -/
structure LiveSet where
  ages : DWord := 0
  fbase : Nat := 0
  fcount : Nat := 0
  whole : Bool := true
deriving DecidableEq, Repr

/-- The control registers of R406. -/
structure Csrs where
  fault : FaultRec := {}
  hrpc : DWord := 0
  hvec : DWord := 0
  hmask : BitVec 7 := 0
  engflags : Flags := 0
  engrep : Flags := 0
  inHandler : Bool := false
  mark : Nat := 0
  hdepth : Nat := 0
  epend : List FaultRec := []
  elost : BitVec 32 := 0
  trapen : Flags := 0
deriving DecidableEq, Repr

/-- A resident group (R18, R60, R421). The mask is s61 to s63; `members` are the current path's (R192). `pushSeq` is the
group-wide push sequence number (R155); the register cache holds the pushes after `cacheFloor` that are among the six
youngest (R161); `busy` is the first clock at which the group may issue again (R147); `lastPC` is the last slot issued
(R145); `bpPass` is the PC at which a breakpoint has stopped it and stops it no more (R447); `landed` marks a PC that a TRET.skip left on an invalid slot (R409); `lostTo` is the PC that won the last port
decision the group lost (R157); `bankAt` is the instruction whose sources have asked their banks and the clock from which the
last of them is queued (R159); `counted` marks a held instruction whose issue has been counted (R478); `backMiss` is the page fault that a read of its save area waits on, and `ownWait` what its wait
record held before (R420). -/
structure Group where
  vf : Nat
  part : Nat
  job : Nat
  wg : Nat
  gid : Nat
  wgn : Nat
  start : Nat
  gstate : GState
  pc : PC
  sv : BitVec 7
  rjt : Bool
  members : LaneMask
  helper : LaneMask
  lanes : Vector Lane 96
  s : Vector DWord 64
  spend : List (Nat × Nat)
  spoison : List (Nat × DWord)
  coilD : Nat
  fslots : Nat
  cap : Nat
  cdepth : Nat
  base : Nat
  entryB : DWord
  frameSize : Nat
  depth : Nat
  stack : List Entry
  rets : List RetRec
  completing : Bool
  t0 : Timeline
  t1 : Timeline
  wait : WaitRec
  waitPC : DWord
  resume : Resume
  waitDone : Bool
  sq : List Beat
  pends : List PendReq
  csr : Csrs
  progress : BitVec 16
  loss : Vector (BitVec 4) 4
  boost : Vector Nat 4
  latestFirst : Nat
  latestCount : Nat
  copyCtx : Option Nat
  swapHint : Bool
  live : LiveSet
  haltSeq : Nat
  claimed : List Nat
  owed : List (LaneMask × List Word) := []
  rejoin : Bool
  entered : Bool
  dstop : Bool
  dstep : Bool
  bpPass : Option PC
  focus : Option Nat
  term : Option FaultRec
  readySince : Option Nat
  miss : Option (Nat × Nat × Nat × Nat × Nat)
  pushSeq : Nat := 0
  cacheFloor : Nat := 0
  busy : Nat := 0
  lastPC : PC := ⟨0, 1⟩
  landed : Bool := false
  lostTo : Option PC := none
  bankAt : Option (PC × Nat) := none
  counted : Bool := false
  backMiss : Option (Nat × Nat × Nat × Nat × Nat) := none
  ownWait : WaitRec := {}
deriving DecidableEq, Repr

/-! ## A core (R14) -/

/-- A rendezvous slot (R268). -/
inductive XSlot where
  | empty | sending (slot : Nat) | receiving (slot : Nat)
deriving DecidableEq, Repr

/-- A barrier: phase and the group slots that have arrived, each as (core, slot) (R340). -/
structure Barrier where
  phase : Nat := 0
  arrived : List (Nat × Nat) := []
deriving DecidableEq, Repr

/-- A workgroup on a core: its job and chunk, scratchpad bytes, lines whose presence bit is clear with the number of
copies due to land there, barriers and rendezvous slots (R105, R136, R280, R268, R340); rows that are spilled, lines under way
back, and the page fault that holds them (R417, R420). -/
structure Workgroup where
  job : Nat
  vf : Nat
  part : Nat
  wgid : Nat
  clset : Nat
  first : Nat
  count : Nat
  stolen : Nat
  gpw : Nat
  rowsPer : Nat
  spadRows : Nat
  spad : Mem
  absent : NMap Nat
  barriers : NMap Barrier
  xslots : NMap XSlot
  spilled : List Nat
  arriving : List Nat
  ptab : List (DWord × DWord)
  hold : Option (Nat × Nat × Nat × Nat × Nat) := none
deriving DecidableEq, Repr

/-- A bundle in the instruction cache with its tag (R143); recency is list order, most recent first. -/
structure IcLine where
  vf : Nat
  job : Nat
  va : DWord
  words : List DWord
deriving DecidableEq, Repr

/-- A line of L1 (R282); recency is list order within a set, most recent first. -/
structure L1Line where
  pa : Nat
  ctx : Nat
  data : List Byte
  poisoned : List Nat
deriving DecidableEq, Repr

/-- A TLB entry: context, virtual page base and size, physical base, rights, memory type, and whether a write has been
through the walk (R296, R434). -/
structure TlbEntry where
  ctx : Nat
  va : Nat
  size : Nat
  pa : Nat
  rd : Bool
  wr : Bool
  ex : Bool
  ty : Nat
  wrote : Bool
  ipa : Nat
deriving DecidableEq, Repr

/-- A chunk in a deal queue (R105, R106). -/
structure Chunk where
  job : Nat
  wgid : Nat
  first : Nat
  count : Nat
  clset : Nat
  setSize : Nat
  stolen : Nat
deriving DecidableEq, Repr

/-- The two-level second half of a command's name (R326): timeline, batch, index. -/
structure CmdSeq where
  tl : Nat := 0
  batch : Nat := 0
  idx : Nat := 0
deriving DecidableEq, Repr

/-- A copy command (R329 to R335): what its issue read, the pieces read (`got`) and written (`put`), Osier frames under
way, the scratchpad lines still to land, the page fault that holds it, the subcode with which it was abandoned, and the port that its
frames to each device take (R458). -/
structure CopyCmd where
  id : Nat
  slot : Nat
  vf : Nat
  part : Nat
  wg : Nat
  ctx : Nat
  seq : CmdSeq
  pc : DWord
  card : DWord
  kind : Nat
  lanes : LaneMask
  src : DWord
  dst : DWord
  k0 : DWord
  k1 : DWord
  k2 : DWord
  cnt : Nat
  idxs : List (Nat × Word)
  got : NMap (List Byte) := []
  sent : List Nat := []
  put : List Nat := []
  lines : List (Nat × Nat × Nat) := []
  hold : Option (Nat × Nat × Nat × Nat × Nat) := none
  failed : Option Nat := none
  noted : Bool := false
  ports : NMap Nat := []
  entryB : DWord := 0
deriving DecidableEq, Repr

/-- A tile's modes (R355) and anchor rules (R359). -/
inductive TMode where
  | exact | real32 | cplx32 | count
deriving DecidableEq, Repr

inductive ARule where
  | unset | explicit | auto | default
deriving DecidableEq, Repr

/-- A cell: window, L and H (EXACT, COUNT), FP32 parts (REAL32, CPLX32), the counter word (R36, R355, R376, R377). -/
structure Cell where
  S : Int := 0
  L : Bool := false
  H : Bool := false
  re : Word := 0
  im : Word := 0
  cnt : BitVec 384 := 0
deriving DecidableEq, Repr

/-- The scheduled record of a counting run (R379). -/
structure Run where
  depth : Nat := 0
  fb : DWord := 0
  jA : Nat := 0
  jB : Nat := 0
deriving DecidableEq, Repr

/-- A tile: owner (a group slot), waiters, scheduled state (R351; the anchor under the auto rule is not known there),
and what execution has made: the auto-anchor and the cells (cell 80 m + n). -/
structure Tile where
  owner : Option Nat := none
  freeing : Bool := false
  waiters : List Nat := []
  mode : TMode := .exact
  rule : ARule := .unset
  anchor : Option Int := none
  kappa : Nat := 0
  height : Nat := 48
  width : Nat := 80
  run : Run := {}
  auto : Option Int := none
  cells : NMap Cell := []
deriving DecidableEq, Repr

/-- What a matrix-engine command does, with all that its issue read (R364 to R371, R386 to R389, R397): a step with A
from lanes, steps with A from scratchpad, clear (with the halted group's tile whose run must leave the bank first,
R419), load, drain, drain into frame slots, merge, empty the run, butterfly stages. -/
inductive EOp where
  | step (count : Bool) (a : List Word) (fb : DWord) (kappa : Nat) (b : DWord)
  | steps (count : Bool) (fb : DWord) (kappa cnt : Nat) (a b : DWord) (ainc binc : Int)
  | clear (displaced : Option (Nat × Nat))
  | load (fb region a : DWord)
  | drain (fb region a : DWord) (opts : BitVec 6)
  | drainLanes (slot0 : Nat) (sat : Bool)
  | merge (run : Run)
  | empty
  | stages (ds : List (DWord × Nat))
deriving DecidableEq, Repr

/-- A command in the matrix engine (R347, R351): its group, name and lanes, its tile with the scheduled mode, anchor
(none under the auto rule) and region, the lines it has read, and the lines it has still to write. -/
structure ECmd where
  id : Nat
  slot : Nat
  wg : Nat
  seq : CmdSeq
  pc : DWord
  lanes : LaneMask
  tile : Nat
  arrayPath : Bool
  started : Bool
  mode : TMode
  anchor : Option Int
  height : Nat
  width : Nat
  lines : NMap (List Byte)
  due : List (Nat × Nat × Nat)
  op : EOp
  entryB : DWord := 0
deriving DecidableEq, Repr

/-- The A latch (R363): six frame slots and the fragment. -/
structure Latch where
  frame0 : Nat
  words : List Word
deriving DecidableEq, Repr

/-- The matrix engine of a core (R347). -/
structure Engine where
  baton : Option Nat := none
  fifo : List Nat := []
  tiles : Vector Tile 4 := Vector.replicate 4 {}
  bank : Option Nat := none
  latch : Option Latch := none
  queue : List ECmd := []
  saved : NMap (List (Nat × Tile)) := []
deriving DecidableEq, Repr

/-- A programmable counter (R413). -/
structure Counter where
  event : Nat := 0
  en : Bool := false
  count : DWord := 0
deriving DecidableEq, Repr

/-- Gating state of a core (R167 to R169): idle since, the hold-off under way, the first clock at which the last one lets the
core enter, gated and the entry clock, end of exit, entries and aborts. -/
structure Gating where
  idleSince : Option Nat := none
  holdoff : Option Nat := none
  heldTill : Nat := 0
  gated : Bool := false
  entryAt : Nat := 0
  exitDone : Option Nat := none
  entries : BitVec 32 := 0
  aborts : BitVec 32 := 0
deriving DecidableEq, Repr

/-- A core. Group slots 0 to 47 by number (R146); active slots 0 to 7; a swap under way as (active slot, incoming
group slot, clock at which it may issue); the clock from which each shared port (R147) and each slot's vector pipe (R19) is
free, and the instruction cache (R144); the clock at which each register bank's queue is empty (R158, R159); the jobs whose chunks the core has taken (R107); the
debug-stopped group that held each active slot last, the slot that each function's sampling takes next and when it last took
one (R451); the pool split in force (R136, R137). -/
structure Core where
  groups : NMap Group := []
  active : Vector (Option Nat) 8 := Vector.replicate 8 none
  swaps : List (Nat × Nat × Nat) := []
  forcedAt : Option Nat := none
  nextStart : Nat := 0
  wgs : NMap Workgroup := []
  icache : List IcLine := []
  l1 : List L1Line := []
  tlb : List TlbEntry := []
  dealq : List Chunk := []
  copies : List CopyCmd := []
  ctxOwner : Vector (Option Nat) 16 := Vector.replicate 16 none
  eng : Engine := {}
  gate : Gating := {}
  ctrs : NMap Counter := []
  decisions : Nat := 0
  portFree : Vector Nat 4 := Vector.replicate 4 0
  pipeFree : Vector Nat 8 := Vector.replicate 8 0
  fetchAt : Nat := 0
  banks : Vector Nat 16 := Vector.replicate 16 0
  served : List Nat := []
  left : Vector (Option Nat) 8 := Vector.replicate 8 none
  sampleAt : NMap Nat := []
  sampleTurn : NMap Nat := []
  clockNum : Nat := 64
  sagging : Bool := false
  clockAt : Nat := 0
  split : Nat × Nat × Nat := (24, 48, 72)
deriving DecidableEq, Repr

/-! ## Dies (R12) -/

/-- A line of an L2 slice: tag, way, dirtiness, KEEP, cluster id and count, and what it is to the slice (R286, R284,
R289, R291). Data has one copy, in `State.mem`. Recency is list order. -/
inductive L2Kind where
  | home | migrant | copy
deriving DecidableEq, Repr

structure L2Line where
  pa : Nat
  ctx : Nat
  way : Nat
  dirty : Bool
  keep : Bool
  cluster : Option Nat
  count : Nat
  kind : L2Kind
deriving DecidableEq, Repr

/-- An L2 slice (R286 to R290). -/
structure Slice where
  lines : List L2Line := []
  evict : NMap (BitVec 32) := []
  migr : BitVec 32 := 0
  fwd : NMap Nat := []
deriving DecidableEq, Repr

/-- A die's shared TLB, directory (line, vector of dies), soft-error counts, pending prefetch walks, temperature and
its throttle (R291, R296, R300, R311, R468). -/
structure Die where
  tlb : List TlbEntry := []
  dir : NMap (BitVec 4) := []
  corrected : Nat := 0
  uncorrected : Nat := 0
  walks : List (Nat × Nat × Nat) := []
  tenths : Nat := 0
  throttle : Nat := 64
  thermAt : Nat := 0
deriving DecidableEq, Repr

/-! ## Functions: queues, faults, time (R98, R298, R414, R454) -/

/-- Cards of a host ring that a doorbell has entered and the dealer has not copied yet (R99): how many, the ring, the ring
index, sequence number and order of entry of the first, when they entered, whether the ring index counts (the queue has
not been enabled anew since), and the dependence counters that have not been zero since then (R110). -/
structure RingCards where
  n : Nat
  base : Nat
  log2n : Nat
  idx : BitVec 32
  seq : Nat
  order : Nat
  enteredAt : Nat
  counts : Bool
  held : List Nat := []
deriving DecidableEq, Repr

/-- A job queue's counters (R98, R99): dealer index c, accepted index e, completed, last sequence number; and the entered
cards of its ring, oldest first. -/
structure JQueue where
  c : BitVec 32 := 0
  e : BitVec 32 := 0
  done : BitVec 64 := 0
  seq : Nat := 0
  ring : List RingCards := []
deriving DecidableEq, Repr

/-- A data queue's counters and its published and taken slots (R98, R111, R112), with outstanding reservations. -/
structure DQueue where
  prod : BitVec 64 := 0
  cons : BitVec 64 := 0
  freed : Nat := 0
  published : List Nat := []
  taken : List Nat := []
  zeroed : List Nat := []
deriving DecidableEq, Repr

/-- A join record (R114, R115): continuation card, queue, remaining count, futures that have not reported, their addresses
in list order with the place of each, the link of each, and which have reported. -/
structure JoinRec where
  card : DWord
  part : Nat
  q : Nat
  cnt : Nat
  left : Nat
  futs : List DWord
  places : List Nat
  links : List Nat
  rep : List Nat
deriving DecidableEq, Repr

/-- A record of a fault queue that software has not resumed (R298, R299): key and SEQ; seq none while withheld. -/
structure FqEntry where
  key : Nat × Nat × Nat × Nat
  addr : DWord
  level : Nat
  pc : DWord
  cmd : DWord
  part : Nat
  entryB : DWord
  seq : Option (BitVec 32)
deriving DecidableEq, Repr

/-- Pre-emption state (R414). -/
inductive PState where
  | running | stopping | halted | resuming
deriving DecidableEq, Repr

/-- The latency window of a job queue (R436 to R438): buckets of completed cards, open window, last percentiles. -/
structure Latency where
  start : NMap (BitVec 32) := []
  done : NMap (BitVec 32) := []
  window : List (Nat × Nat) := []
  pct : DWord := 0
  breaches : BitVec 32 := 0
  windows : BitVec 32 := 0
deriving DecidableEq, Repr

/-- How far a card has come. -/
inductive CardState where
  | entered | gated | ready | started | done
deriving DecidableEq, Repr

/-- A card held by the dealer, from entry to completion (R94 to R108), with the launch record its first deal read. -/
structure Job where
  vf : Nat
  part : Nat
  queue : Nat
  seq : Nat
  addr : DWord
  words : List DWord
  cstate : CardState
  parsed : Bool
  enteredAt : Nat
  startedAt : Nat
  order : Nat
  ranges : List (Nat × Nat × Bool)
  conds : List (DWord × DWord)
  met : List Nat
  released : Bool
  lrec : List DWord
  ktab : List DWord
  ptab : List (DWord × DWord)
  next : Nat
  chunks : Nat
  sized : Nat
  wgid : Nat
  refused : Option Nat
  faultCode : Option Nat
  dscrDie : NMap Nat
deriving DecidableEq, Repr

/-- What the device still has to do for a function once the flip of a page is over (R292): an event record, withheld fault
records, zero records of data-queue slots, words of the join pool, a sample, a debug command, which waits for other things too
(R193, R435), the read of a continuation card that has taken its number. -/
inductive Late where
  | event (words : List DWord)
  | faults
  | zeros (q slot : Nat)
  | pool (va : Nat) (words : List DWord)
  | sample (words : List DWord)
  | command (value : DWord)
  | card (part q : Nat) (addr : DWord) (seq order at_ : Nat) (held : List Nat)
deriving DecidableEq, Repr

/-- A function: virtual functions 0 to 255, and 256 for the physical function. -/
structure Vf where
  jqs : NMap JQueue := []
  dqs : NMap DQueue := []
  dcs : NMap Nat := []
  joins : NMap JoinRec := []
  conts : List Job := []
  fqProd : BitVec 32 := 0
  fqSeq : BitVec 32 := 0
  fq : List FqEntry := []
  eqProd : BitVec 32 := 0
  eqLost : BitVec 32 := 0
  pstate : PState := .running
  touts : BitVec 32 := 0
  reqAt : Nat := 0
  bySlicer : Bool := false
  invs : List (Nat × Nat) := []
  inv2Busy : Bool := false
  flip : Option (Nat × Bool × Nat) := none
  flipResult : Nat := 0
  dlProd : BitVec 32 := 0
  busyMs : DWord := 0
  busyAt : Nat := 0
  lat : NMap Latency := []
  vectors : List Nat := []
  late : List Late := []
  dbgRes : Nat := 0
  dbgGid : Nat := 0
  dbgSeen : Bool := false
deriving DecidableEq, Repr

/-- The cluster set of a job on a cluster: its workgroups as (core, workgroup), and the cluster barriers (R340). -/
structure ClSet where
  members : List (Nat × Nat)
  barriers : NMap Barrier
deriving DecidableEq, Repr

/-- A partition's slicing and policy state (R424, R443). -/
structure Part where
  cur : Nat := 0
  switches : BitVec 32 := 0
  turnStart : Nat := 0
  switching : Bool := false
  pstate : Nat := 0
  reason : Nat := 0
  nonceGen : Nat := 0
  classes : NMap DWord := []
  keyhash : List Byte := []
  pending : List DWord := []
  owed : NMap Nat := []
  delivered : NMap Nat := []
deriving DecidableEq, Repr

/-! ## Osier (R457 to R461), security and start-up (R462 to R468) -/

/-- A frame of a remote command on its way (R457 to R461): the command that sent it (core, id, piece key), target
device and offset, payload, the port that carries it, whether its target has acknowledged it, and the page fault that holds
it at the target. A frame that is not this module's own came from another device. -/
structure Frame where
  id : Nat
  mine : Bool
  core : Nat
  cmd : Nat
  key : Nat
  oep : Nat
  device : Nat
  kind : FKind
  ofs : Nat
  data : List Byte
  len : Nat
  elem : Nat
  port : Option Nat
  taken : Bool := false
  sentAt : Nat
  bornAt : Nat
  hold : Option (Nat × Nat × Nat × Nat × Nat)
deriving DecidableEq, Repr

/-- An Osier port. -/
structure Port where
  pstate : Nat := 0
  lastAck : Nat := 0
deriving DecidableEq, Repr

/-- The Afnan controller and start-up state. `sigIndex` and `rollback` are counter-protected; `verified` is the start whose
firmware image was verified last (R462, R465); `off` says that power is lost (R468). -/
structure Sys where
  bstage : Nat := 0
  berr : Nat := 0
  starts : Nat := 0
  identityOnly : Bool := false
  sigIndex : Nat := 0
  rollback : Nat := 0
  quoteBusy : Option DWord := none
  quoteReason : Nat := 0
  power : Nat := 0
  capNum : Nat := 64
  powerAt : Nat := 0
  stopped : Bool := false
  off : Bool := false
  verified : Option Nat := some 0
deriving DecidableEq, Repr

/-! ## The machine -/

/-- What moves next (the model's own schedule): a group's issue, a decision of a shared port, an event
of the opcode table, or the passing of clocks and reference nanoseconds. -/
inductive Turn where
  | issue (core slot : Nat)
  | decide (core port : Nat)
  | event (i : Instr)
  | tick (clocks ns : Nat)
deriving DecidableEq, Repr

/-- The module: time, the model's own counters and schedule, memories, cores, dies, registers, functions, jobs, partitions and
links. `fresh` numbers the free values, `nextId` requests and commands, and `cur` names the issuing group. `snap` holds what the
data of every class were at the latest multiple of 2^t µs, for each t (R440), and `readAt` the clock of the last read through
the filter (R444). -/
structure State where
  clock : Nat
  ref : Nat
  fresh : Nat
  nextId : Nat
  agenda : List Turn
  cur : Nat × Nat
  mem : Mem
  poison : List Nat
  dscr : Mem
  cores : Vector Core 64
  dies : Vector Die 4
  slices : NMap Slice
  clsets : NMap ClSet
  vreg : NMap DWord
  preg : NMap DWord
  vfs : NMap Vf
  jobs : NMap Job
  cardOrder : Nat
  parts : NMap Part
  hostBias : NMap Nat
  frames : List Frame
  ports : Vector Port 6
  sys : Sys
  hostRead : DWord
  snap : NMap (NMap DWord)
  readAt : Option Nat
deriving DecidableEq, Repr

/-- Why the machine stops. -/
inductive Fault where
  /-- An instruction was executed while every core stands stopped until a cold start (R468), or an event was to happen in a
  module without power (R463, R465). SAFE: nothing is claimed of them. -/
  | stopped
deriving DecidableEq, Repr

/-- Why a step has no meaning. -/
inductive Refusal where
  /-- An instruction that the model does not have yet. SAFE. -/
  | notModelled (mnemonic : String)
  /-- `exec` was asked to run an instruction while no group is the issuing group (`State.cur` names none). The step
  never does so. SAFE. -/
  | noIssuingGroup
deriving DecidableEq, Repr

/-- The machine right after reset (R465, step 9: the reset values of every register apply). Registers are sparse tables
whose defaults are the spec's reset values; no group, card, chunk or command exists; the schedule is empty. -/
def State.reset : State :=
  { clock := 0, ref := 0, fresh := 0, nextId := 1, agenda := [], cur := (0, 0),
    mem := [], poison := [], dscr := [],
    cores := Vector.replicate 64 {}, dies := Vector.replicate 4 {}, slices := [], clsets := [],
    vreg := [], preg := [], vfs := [], jobs := [], cardOrder := 0, parts := [], hostBias := [],
    frames := [], ports := Vector.replicate 6 {}, sys := { bstage := 9, rollback := Config.fwVersion (Config.fwImage 0) },
    hostRead := 0, snap := [], readAt := none }

end Sys2Proof.Machine
end

