-- ==== Sys2Proof/Machine/Store.lean ====
section
/-! DEFINITION. The operations of sparse tables and of byte memory, in their one canonical form, and small helpers on
lane masks. -/

namespace Sys2Proof.Machine

/-! ## Sparse tables -/

/-- The value of a key; the default where the table lists none. -/
def nget {α : Type} (d : α) : NMap α → Nat → α
  | [], _ => d
  | (k, v) :: r, n => if k = n then v else nget d r n

/-- The value of a key, if listed. -/
def nfind {α : Type} : NMap α → Nat → Option α
  | [], _ => none
  | (k, v) :: r, n => if k = n then some v else nfind r n

/-- Remove a key. -/
def ndel {α : Type} : NMap α → Nat → NMap α
  | [], _ => []
  | (k, v) :: r, n => if k = n then r else if n < k then (k, v) :: r else (k, v) :: ndel r n

/-- Insert or replace a key, keys rising. -/
def nins {α : Type} : NMap α → Nat → α → NMap α
  | [], n, x => [(n, x)]
  | (k, v) :: r, n, x =>
    if n < k then (n, x) :: (k, v) :: r else if k = n then (n, x) :: r else (k, v) :: nins r n x

/-- Set a key in a table whose unlisted keys read `d`: writing the default removes the entry. -/
def nset {α : Type} [DecidableEq α] (d : α) (m : NMap α) (n : Nat) (x : α) : NMap α :=
  if x = d then ndel m n else nins m n x

/-- Keys rising strictly from a lower bound. -/
def nsorted {α : Type} : Option Nat → NMap α → Bool
  | _, [] => true
  | none, (k, _) :: r => nsorted (some k) r
  | some b, (k, _) :: r => decide (b < k) && nsorted (some k) r

/-- The canonical form of a table with default `d`. -/
def nwf {α : Type} [DecidableEq α] (d : α) (m : NMap α) : Bool := nsorted none m && m.all fun p => decide (p.2 ≠ d)

/-! ## Byte memory (R2): an unlisted byte reads `memDefault` -/

/-- What a byte that nothing has written reads as: zero. HBM is zeroed at cold start (R465) and granted scratchpad
rows read zero (R137); for host memory and die scratchpad this is the model's choice (DESIGN CHOICE, assumption 7). -/
def memDefault : Byte := 0

def Mem.get (m : Mem) (a : Nat) : Byte := nget memDefault m a
def Mem.set (m : Mem) (a : Nat) (b : Byte) : Mem := nset memDefault m a b
/-- The memory's canonical form: addresses strictly rising, no entry equal to the default. -/
def Mem.wf (m : Mem) : Bool := nwf memDefault m

/-- n bytes from an address up. -/
def Mem.bytes (m : Mem) (a n : Nat) : List Byte := (List.range n).map fun i => Mem.get m (a + i)

/-- Write bytes from an address up. -/
def Mem.put : Mem → Nat → List Byte → Mem
  | m, _, [] => m
  | m, a, b :: r => Mem.put (Mem.set m a b) (a + 1) r

/-- The little-endian number of a list of bytes (R2). -/
def leNat : List Byte → Nat
  | [] => 0
  | b :: r => b.toNat + 256 * leNat r

/-- The n bytes of a number, least significant first. -/
def leBytes : Nat → Nat → List Byte
  | 0, _ => []
  | n + 1, v => BitVec.ofNat 8 v :: leBytes n (v / 256)

/-! ## Lane masks -/

/-- The 96 lanes in ascending order. -/
def laneList : List (Fin 96) := List.finRange 96

def inMask (m : LaneMask) (l : Nat) : Bool := m.getLsbD l

/-- The lanes of a mask in ascending order. -/
def lanesOf (m : LaneMask) : List (Fin 96) := laneList.filter fun l => inMask m l.val

/-- A mask from a predicate on lanes. -/
def maskOf (p : Nat → Bool) : LaneMask := (BitVec.ofBoolListLE ((List.range 96).map p)).setWidth 96

/-- Mask word w (0 to 2) of a lane mask (R19). -/
def maskWord (m : LaneMask) (w : Nat) : Word := m.extractLsb' (32 * w) 32

/-- A lane mask from its three words. -/
def joinMask (a b c : Word) : LaneMask := (c ++ b ++ a : BitVec 96)

/-- Beats of a mask: its nonzero words (R19, R162). -/
def beatsOf (m : LaneMask) : List Nat := (List.range 3).filter fun w => maskWord m w != 0

/-- The lowest lane of a mask. -/
def firstLane (m : LaneMask) : Option (Fin 96) := laneList.find? fun l => inMask m l.val

end Sys2Proof.Machine
end

