-- ==== Sys2Proof/Machine/Regs.lean ====
section
/-! DEFINITION. The memory-mapped registers (R130, R134, R167, R288, R293, R296, R298, R414, R424 to R443, R446, R454
to R458): their reset values, their accessors and the fields other operations read. A function's page is a table keyed
by 2^20 · function + offset; the physical function's space is a table keyed by offset. -/

namespace Sys2Proof.Machine

/-- w bits from bit lo of a value. -/
def fld (x : DWord) (lo w : Nat) : Nat := x.toNat / 2 ^ lo % 2 ^ w

/-- A value with w bits from bit lo replaced. -/
def putFld (x : DWord) (lo w v : Nat) : DWord :=
  BitVec.ofNat 64 (x.toNat - fld x lo w * 2 ^ lo + v % 2 ^ w * 2 ^ lo)

def bit (x : DWord) (i : Nat) : Bool := x.getLsbD i

/-- The physical function's number as a context (R282). -/
def pfn : Nat := 256

/-- Reset values of a function's page (R98, R298, R446, R454), and of the mask bits of its MSI-X table (PRESUMED, assumption 55);
all others are zero. -/
def vregDefault (ofs : Nat) : DWord :=
  if ofs = 0x5000 then 4
  else if ofs = 0xB000 then 6
  else if ofs = 0x8000 then 0x100000
  else if ofs = 0x8020 then 10
  else if decide (0xC000 ≤ ofs) && decide (ofs < 0xD000) then if ofs % 16 = 8 then 2 ^ 32 else 0
  else if decide (0x1000 ≤ ofs) && decide (ofs < 0x1200) && ofs % 0x20 == 8 then 0x10
  else if decide (0x2000 ≤ ofs) && decide (ofs < 0x2800) && ofs % 0x20 == 8 then 0x70
  else 0

/-- Reset values of the physical function's space (R130, R167, R288, R424, R426, R427, R433, R437); all others are
zero. -/
def pregDefault (ofs : Nat) : DWord :=
  if decide (0x400000 ≤ ofs) && decide (ofs < 0x440000) then
    let o := ofs % 0x10000
    if o < 0xA8 then 0xFFFFFFF
    else if decide (0x100 ≤ o) && decide (o < 0x180) then 0x4830180100
    else if o = 0x400 then 0x300FFFFFFF
    else 0
  else if decide (0x580000 ≤ ofs) && decide (ofs < 0x584000) then
    if decide (ofs % 0x1000 < 0x400) && ofs % 0x40 == 0 then 2048 else 0
  else if decide (0x5B0000 ≤ ofs) && decide (ofs < 0x5B1000) then if ofs % 0x40 = 0 then 0x3E80000 else 0
  else if decide (0x5C0000 ≤ ofs) && decide (ofs < 0x5D0000) then if ofs % 0x1000 ≤ 0x800 then 256 else 0
  else if decide (0x5D0000 ≤ ofs) && decide (ofs < 0x5D2000) then
    if ofs % 0x20 = 0 then 24 else 0
  else if decide (0x5D4000 ≤ ofs) && decide (ofs < 0x5D6000) then if ofs % 0x20 = 0 then 0x100000000 else 0
  else if decide (0x600000 ≤ ofs) && decide (ofs < 0x700000) then
    if decide (ofs % 0x40000 < 0x30000) && decide (ofs % 0x2000 ≤ 0x800) then 0xFFFF else 0
  else if decide (0x740000 ≤ ofs) && decide (ofs < 0x760000) then
    if ofs % 0x20 = 0 then 0x2020200014 else 0
  else if ofs = 0x900000 then 2000
  else if decide (0xF80000 ≤ ofs) && decide (ofs < 0xF88000) then if ofs % 16 = 8 then 2 ^ 32 else 0
  else 0

def vkey (fn ofs : Nat) : Nat := fn * 2 ^ 20 + ofs
def vkeyDefault (k : Nat) : DWord := vregDefault (k % 2 ^ 20)

/-- A register of a function's page. -/
def State.vr (s : State) (fn ofs : Nat) : DWord := nget (vregDefault ofs) s.vreg (vkey fn ofs)
def State.setVr (s : State) (fn ofs : Nat) (v : DWord) : State :=
  { s with vreg := nset (vregDefault ofs) s.vreg (vkey fn ofs) v }
/-- A register of the physical function's space. -/
def State.pr (s : State) (ofs : Nat) : DWord := nget (pregDefault ofs) s.preg ofs
def State.setPr (s : State) (ofs : Nat) (v : DWord) : State :=
  { s with preg := nset (pregDefault ofs) s.preg ofs v }

/-! ## Placement block (R130 to R134) -/

def placeOfs (die ofs : Nat) : Nat := 0x400000 + 0x10000 * die + ofs
def State.conn (s : State) (die r : Nat) : DWord := s.pr (placeOfs die (8 * r))
/-- The placement word of a core, numbered module-wide (R13). -/
def State.coreWord (s : State) (core : Nat) : DWord := s.pr (placeOfs (core / 16) (0x100 + 8 * (core % 16)))
def State.corePart (s : State) (core : Nat) : Nat := fld (s.coreWord core) 0 6
def State.coreOn (s : State) (core : Nat) : Bool := bit (s.coreWord core) 8
/-- POOLB1, POOLB2, POOLB3 (R136). -/
def State.pool (s : State) (core : Nat) : Nat × Nat × Nat :=
  let w := s.coreWord core
  (fld w 16 8, fld w 24 8, fld w 32 8)
def State.coreLock (s : State) (core : Nat) : Bool := bit (s.coreWord core) 40
def State.partWord (s : State) (die part : Nat) : DWord := s.pr (placeOfs die (0x400 + 8 * part))
def State.slc (s : State) (die part : Nat) : Nat := fld (s.partWord die part) 0 24
def State.dsg (s : State) (die part : Nat) : Nat := fld (s.partWord die part) 24 4
/-- VFBIND (R134): partition of a bound function; the physical function runs in partition 0. -/
def State.bound (s : State) (vf : Nat) : Option Nat :=
  if vf = pfn then some 0
  else
    let w := s.pr (0x500000 + 8 * vf)
    if bit w 8 then some (fld w 0 6) else none
def State.partOf (s : State) (vf : Nat) : Nat := (s.bound vf).getD 0

/-! ## Sub-tables and functions -/

def State.vf (s : State) (fn : Nat) : Vf := nget {} s.vfs fn
def State.setVf (s : State) (fn : Nat) (v : Vf) : State := { s with vfs := nset {} s.vfs fn v }
def State.modVf (s : State) (fn : Nat) (f : Vf → Vf) : State := s.setVf fn (f (s.vf fn))
def State.part (s : State) (p : Nat) : Part := nget {} s.parts p
def State.setPart (s : State) (p : Nat) (v : Part) : State := { s with parts := nset {} s.parts p v }

def State.core (s : State) (c : Nat) : Core := if h : c < 64 then s.cores[c] else {}
def State.setCore (s : State) (c : Nat) (k : Core) : State :=
  if h : c < 64 then { s with cores := s.cores.set c k } else s
def State.modCore (s : State) (c : Nat) (f : Core → Core) : State := s.setCore c (f (s.core c))
def State.die (s : State) (d : Nat) : Die := if h : d < 4 then s.dies[d] else {}
def State.setDie (s : State) (d : Nat) (k : Die) : State :=
  if h : d < 4 then { s with dies := s.dies.set d k } else s
def State.modDie (s : State) (d : Nat) (f : Die → Die) : State := s.setDie d (f (s.die d))
def State.slice (s : State) (i : Nat) : Slice := nget {} s.slices i
def State.setSlice (s : State) (i : Nat) (k : Slice) : State := { s with slices := nset {} s.slices i k }

def State.group? (s : State) (c g : Nat) : Option Group := nfind (s.core c).groups g
def State.setGroup (s : State) (c g : Nat) (v : Group) : State :=
  s.modCore c fun k => { k with groups := nins k.groups g v }
/-- Apply a function to a group that exists. -/
def State.modGroup (s : State) (c g : Nat) (f : Group → Group) : State :=
  match s.group? c g with
  | some v => s.setGroup c g (f v)
  | none => s
def State.wg? (s : State) (c w : Nat) : Option Workgroup := nfind (s.core c).wgs w
def State.setWg (s : State) (c w : Nat) (v : Workgroup) : State :=
  s.modCore c fun k => { k with wgs := nins k.wgs w v }
def State.modWg (s : State) (c w : Nat) (f : Workgroup → Workgroup) : State :=
  match s.wg? c w with
  | some v => s.setWg c w (f v)
  | none => s
def State.job? (s : State) (j : Nat) : Option Job := nfind s.jobs j
def State.setJob (s : State) (j : Nat) (v : Job) : State := { s with jobs := nins s.jobs j v }
def State.modJob (s : State) (j : Nat) (f : Job → Job) : State :=
  match s.job? j with
  | some v => s.setJob j (f v)
  | none => s

/-- Every core's number with the core. -/
def State.coreList (s : State) : List (Nat × Core) := (List.range 64).map fun c => (c, s.core c)
/-- Every resident group as (core, slot, group). -/
def State.groupList (s : State) : List (Nat × Nat × Group) :=
  s.coreList.flatMap fun p => p.2.groups.map fun q => (p.1, q.1, q.2)

/-- A number nothing has used before: requests, commands, frames. -/
def State.newId (s : State) : Nat × State := (s.nextId, { s with nextId := s.nextId + 1 })
/-- The next free value (assumption 2). -/
def State.free (s : State) : Nat × State := (Config.freeNat s.fresh, { s with fresh := s.fresh + 1 })

/-! ## Time (R15, R427, R428) -/

def vtOfs (vf ofs : Nat) : Nat := 0x5D4000 + 0x20 * vf + ofs
/-- The virtual time of a function; the physical function has no time registers and reads the reference (DEDUCED,
assumption 11). -/
def State.vtime (s : State) (vf : Nat) : DWord :=
  if vf = pfn then BitVec.ofNat 64 s.ref
  else
    let scale := fld (s.pr (vtOfs vf 0)) 0 40
    let t := (s.ref * scale / 2 ^ 32 + (s.pr (vtOfs vf 8)).toNat) % 2 ^ 64
    BitVec.ofNat 64 (max (s.pr (vtOfs vf 0x10)).toNat t)

/-! ## Interrupt vectors (R455) -/

/-- The second word of entry i of a function's MSI-X table (R453). -/
def State.msixWord (s : State) (fn i : Nat) : DWord := if fn = pfn then s.pr (0xF80008 + 16 * i) else s.vr fn (0xC008 + 16 * i)
/-- The entry's mask bit, where the PCI standard puts it (PRESUMED, assumption 55). -/
def State.msixMasked (s : State) (fn i : Nat) : Bool := bit (s.msixWord fn i) 32
/-- The entry's pending bit (R453). -/
def State.msixPending (s : State) (fn i : Nat) : Bool :=
  bit (if fn = pfn then s.pr (0xF88000 + 8 * (i / 64)) else s.vr fn (0xD000 + 8 * (i / 64))) (i % 64)
def State.setPending (s : State) (fn i : Nat) (b : Bool) : State :=
  let v := if b then 1 else 0
  if fn = pfn then s.setPr (0xF88000 + 8 * (i / 64)) (putFld (s.pr (0xF88000 + 8 * (i / 64))) (i % 64) 1 v)
  else s.setVr fn (0xD000 + 8 * (i / 64)) (putFld (s.vr fn (0xD000 + 8 * (i / 64))) (i % 64) 1 v)

/-- Raise function vector i: nothing is raised at or beyond VECN, and a masked entry holds its message back as pending. -/
def State.raise (s : State) (fn i : Nat) : State :=
  let w := s.pr (0x1000 + 8 * fn)
  if fld w 16 12 ≤ i then s
  else if s.msixMasked fn i then s.setPending fn i true
  else s.modVf fn fun v => { v with vectors := v.vectors ++ [fld w 0 11 + i] }

/-- An entry that is no longer masked sends the message that it held back. -/
def State.msixSettle (s : State) (fn i : Nat) : State :=
  if s.msixPending fn i && !s.msixMasked fn i then (s.setPending fn i false).raise fn i else s

end Sys2Proof.Machine
end

