-- ==== Sys2Proof/Machine/Cache.lean ====
section
/-! DEFINITION. The physical map and the caches below the global window: home dies and slices (R132, R285), L2 tags,
way masks, takeovers and counters (R286 to R288), migration (R289, R290), directories (R291), and L1 (R282 to R284).
L2 holds tags only, since the data of a line has one copy, in `State.mem`; L1 lines hold their own data (R283). -/

namespace Sys2Proof.Machine

/-! ## Physical map (R285) -/

/-- Whether a physical address is HBM or host memory. -/
def inMap (pa : Nat) : Bool :=
  decide (pa < 0x6000000000) || (decide (0x1000000000000 ≤ pa) && decide (pa < 0x10000000000000))

def isHostMem (pa : Nat) : Bool := decide (0x1000000000000 ≤ pa)

def homeDie (pa : Nat) : Nat := if isHostMem pa then pa / 4096 % 4 else pa / 0x1800000000

/-- The set bits of a mask below n, ascending. -/
def setBits (n m : Nat) : List Nat := (List.range n).filter fun i => m.testBit i

/-- The home slice's number on its die for a partition (R132); none where the partition holds no slice there. -/
def State.homeSlice (s : State) (part pa : Nat) : Option Nat :=
  let bits := setBits 24 (s.slc (homeDie pa) part)
  let h := (pa / 2 ^ 7 ^^^ pa / 2 ^ 19 ^^^ pa / 2 ^ 31 ^^^ pa / 2 ^ 43) % 4096
  if bits.isEmpty then none else bits[h % bits.length]?

/-- The crossbar check of a core's request for a physical address (R131, R132); an engine's request also needs the row
of its cluster's port. A core numbered 64 stands for port 20 of the home die. -/
def State.xbar (s : State) (core part pa : Nat) (engine : Bool) : Bool :=
  match s.homeSlice part pa with
  | none => false
  | some j =>
    let d := homeDie pa
    if core ≥ 64 then bit (s.conn d 20) j
    else core / 16 != d ||
      (bit (s.conn d (core % 16)) j && (!engine || bit (s.conn d (16 + core % 16 / 4)) j))

/-- The check of an access to a die-scratchpad group (R131, R276). -/
def State.dscrOk (s : State) (core part die grp : Nat) (engine : Bool) : Bool :=
  (s.dsg die part).testBit grp &&
    (if core ≥ 64 then bit (s.conn die 20) (24 + grp)
     else core / 16 != die ||
      (bit (s.conn die (core % 16)) (24 + grp) && (!engine || bit (s.conn die (16 + core % 16 / 4)) (24 + grp))))

/-! ## L2 (R286 to R291) -/

def lineOf (a : Nat) : Nat := a / 128 * 128
def l2Set (pa : Nat) : Nat := (pa / 2 ^ 7 ^^^ pa / 2 ^ 18) % 2048
def sliceNo (die j : Nat) : Nat := 24 * die + j
def State.waymask (s : State) (i ctx : Nat) : Nat :=
  fld (s.pr (0x600000 + 0x40000 * (i / 24) + 0x2000 * (i % 24) + 8 * ctx)) 0 16

/-- Remove lines of a slice, counting those of each context as replaced where `count` is set. -/
def Slice.dropLines (sl : Slice) (count : Bool) (p : L2Line → Bool) : Slice :=
  let gone := sl.lines.filter p
  { sl with
    lines := sl.lines.filter fun l => !p l
    evict := if count then gone.foldl (fun e l => nset 0 e l.ctx (nget 0 e l.ctx + 1)) sl.evict else sl.evict }

/-- Free the forwarding entries of a line on a die (R290). -/
def State.dropFwd (s : State) (die line : Nat) : State :=
  (List.range 24).foldl (fun s j =>
    let i := sliceNo die j
    let sl := s.slice i
    if (nfind sl.fwd line).isSome then s.setSlice i { sl with fwd := ndel sl.fwd line } else s) s

/-- Drop the copies that other dies hold of a line, and the directory's entry (R291). -/
def State.dropCopies (s : State) (line : Nat) : State :=
  let d := homeDie line
  let dir := (s.die d).dir
  if (nfind dir line).isNone then s
  else
    let s := s.modDie d fun k => { k with dir := ndel k.dir line }
    (List.range 96).foldl (fun s i =>
      let sl := s.slice i
      if sl.lines.any fun l => l.pa == line && l.kind == .copy then
        s.setSlice i (sl.dropLines false fun l => l.pa == line && l.kind == .copy) else s) s

/-- The way and the line a fill replaces (R287): the lowest-numbered invalid way of the mask, else the least recent line
of its ways, lines with KEEP last. -/
def Slice.victim (sl : Slice) (set mask : Nat) : Option (Nat × Option L2Line) :=
  let held := sl.lines.filter fun l => l2Set l.pa == set
  match (setBits 16 mask).find? fun w => held.all fun l => l.way != w with
  | some w => some (w, none)
  | none =>
    let ours := held.reverse.filter fun l => mask.testBit l.way
    match ours.find? fun l => !l.keep with
    | some l => some (l.way, some l)
    | none => ours.head?.map fun l => (l.way, some l)

/-- Hints of format M (R72, R284): normal, stream, keep, no-allocate; and SLD's, which has none to name: normal in L1, no
allocation in L2 (R483, DEDUCED, assumption 64). -/
def hintStream : Nat := 1
def hintKeep : Nat := 2
def hintNal : Nat := 3
def hintScalar : Nat := 4

/-- Cluster id and count of a line after an access (R289). -/
def L2Line.touch (l : L2Line) (cluster : Option Nat) : L2Line :=
  match cluster with
  | none => l
  | some c => if l.cluster = some c then { l with count := min 15 (l.count + 1) } else { l with cluster := some c, count := 1 }

/-- Fill a line into a slice for a context (R287); the access that fills it is its first (R289). -/
def State.l2Fill (s : State) (i line ctx hint : Nat) (kind : L2Kind) (dirty : Bool) (cluster : Option Nat) : State :=
  if hint = hintNal ∨ hint = hintScalar then s
  else
    match (s.slice i).victim (l2Set line) (s.waymask i ctx) with
    | none => s
    | some (w, old) =>
      let s := match old with
        | none => s
        | some l =>
          let s := s.setSlice i ((s.slice i).dropLines true fun m => m.pa == l.pa && m.ctx == l.ctx)
          if l.kind = L2Kind.migrant then s.dropFwd (i / 24) l.pa else s
      let sl := s.slice i
      let nl : L2Line := { pa := line, ctx := ctx, way := w, dirty := dirty, keep := hint == hintKeep,
                           cluster := none, count := 0, kind := kind }
      let nl := nl.touch cluster
      s.setSlice i { sl with lines := if hint = hintStream then sl.lines ++ [nl] else nl :: sl.lines }

/-- Drop the lines of a slice that a test picks, uncounted. -/
def State.dropSlice (s : State) (i : Nat) (p : L2Line → Bool) : State := s.setSlice i ((s.slice i).dropLines false p)

/-- Migrate a line whose count reached 15, or restart its count (R289, R290). `home` is the home slice. A line that finds no
way at its target is held nowhere, and the next miss fills at home. -/
def State.l2Migrate (s : State) (home i : Nat) (l : L2Line) (part : Nat) : State :=
  let die := i / 24
  let target := match l.cluster with
    | some c => (setBits 24 (s.slc die part)).find? fun j => decide (6 * c ≤ j) && decide (j < 6 * c + 6)
    | none => none
  let hs := s.slice home
  let ok := match target with
    | some j => sliceNo die j != i && (decide (hs.fwd.length < 1024) || (nfind hs.fwd l.pa).isSome)
    | none => false
  match ok, target with
  | true, some j =>
    let s := s.dropSlice i fun m => m.pa == l.pa && m.ctx == l.ctx
    let hs := s.slice home
    let s := s.setSlice home { hs with fwd := nins hs.fwd l.pa j,
                                       migr := if i = home then hs.migr + 1 else hs.migr }
    let s := s.l2Fill (sliceNo die j) l.pa l.ctx (if l.keep then hintKeep else 0) .migrant l.dirty none
    if (s.slice (sliceNo die j)).lines.any fun m => m.pa == l.pa then s else s.dropFwd die l.pa
  | _, _ =>
    let sl := s.slice i
    s.setSlice i { sl with lines := sl.lines.map fun m =>
      if m.pa = l.pa ∧ m.ctx = l.ctx then { m with count := 0 } else m }

/-- An access to a line at one slice: hit, takeover or fill, then migration (R284, R286 to R290). A takeover evicts a
migrant line, and the line fills at home again (R290). -/
def State.sliceAccess (s : State) (home i line ctx part hint : Nat) (cluster : Option Nat) (kind : L2Kind)
    (write : Bool) : State :=
  let sl := s.slice i
  match sl.lines.find? fun l => l.pa == line && l.ctx == ctx with
  | some l =>
    let l := { l.touch cluster with dirty := l.dirty || write, keep := l.keep && hint == hintKeep || hint == hintKeep }
    let rest := fun (m : L2Line) => m.pa != line || m.ctx != ctx
    let lines := if hint = hintStream then sl.lines.map fun m => if rest m then m else l
      else l :: sl.lines.filter rest
    let s := s.setSlice i { sl with lines := lines }
    if l.count = 15 ∧ l.kind ≠ .copy then s.l2Migrate home i l part else s
  | none =>
    let s := if sl.lines.any fun l => l.pa == line then s.setSlice i (sl.dropLines true fun l => l.pa == line) else s
    if sl.lines.any fun l => l.pa == line && l.kind == .migrant then
      (s.dropFwd (i / 24) line).l2Fill home line ctx hint .home write cluster
    else s.l2Fill i line ctx hint kind write cluster

/-- The set of a directory of 16384 sets of 16 ways that holds a line's entry (R291). -/
def dirSet (line : Nat) : Nat := Config.dirSet line % 16384

/-- Record in the home die's directory that a die holds a copy; a full set gives up an entry (free value, assumption 2) and
its copies. -/
def State.dirAdd (s : State) (line die : Nat) : State :=
  let d := homeDie line
  let dir := (s.die d).dir
  let set := if (nfind dir line).isSome then [] else dir.filter fun e => dirSet e.1 == dirSet line
  let s := if set.length < 16 then s
    else
      let (v, s) := s.free
      match set[v % set.length]? with
      | some e => s.dropCopies e.1
      | none => s
  s.modDie d fun k => { k with dir := nset 0 k.dir line (nget 0 k.dir line ||| BitVec.ofNat 4 (2 ^ die)) }

/-- The slice of a core's own die that may hold a copy of a line homed elsewhere (R132, R291). -/
def State.copySlice (s : State) (core part pa : Nat) : Option Nat :=
  let bits := setBits 24 (s.slc (core / 16) part)
  let h := (pa / 2 ^ 7 ^^^ pa / 2 ^ 19 ^^^ pa / 2 ^ 31 ^^^ pa / 2 ^ 43) % 4096
  (bits[h % bits.length]?).map (sliceNo (core / 16))

/-- An access of a core (64 for the IO die) to a physical line through L2 (R286 to R291): a read that hits a copy in its
own die's slice is served there, but for LDL, which the owning slice alone performs (`owned`). -/
def State.l2Access (s : State) (core part ctx pa hint : Nat) (write : Bool) (owned : Bool := false) : State :=
  let line := lineOf pa
  let hd := homeDie pa
  match s.homeSlice part pa with
  | none => s
  | some j =>
    let home := sliceNo hd j
    let owner := match nfind (s.slice home).fwd line with
      | some k => sliceNo hd k
      | none => home
    let near := decide (core / 16 = hd)
    let cluster := if near then some (core % 16 / 4) else none
    let kind := if owner = home then L2Kind.home else .migrant
    let t := s.sliceAccess home owner line ctx part hint cluster kind write
    if write then t.dropCopies line
    else if near || core ≥ 64 || owned then t
    else match s.copySlice core part pa with
      | none => t
      | some i =>
        if (s.slice i).lines.any fun l => l.pa == line && l.ctx == ctx then s.sliceAccess i i line ctx part hint none .copy false
        else
          let t := t.sliceAccess i i line ctx part hint none .copy false
          if (t.slice i).lines.any fun l => l.pa == line && l.kind == .copy then t.dirAdd line (core / 16) else t

/-- Write back and drop the lines that a test on their addresses picks from every L1 and L2, with their forwarding and
directory entries (R292). -/
def State.dropWhere (s : State) (p : Nat → Bool) : State :=
  { s with
    slices := (s.slices.map fun e =>
      (e.1, { (e.2.dropLines false fun l => p l.pa) with fwd := e.2.fwd.filter fun f => !p f.1 })).filter fun e =>
        decide (e.2 ≠ {})
    dies := s.dies.map fun d => { d with dir := d.dir.filter fun f => !p f.1 }
    cores := s.cores.map fun k => { k with l1 := k.l1.filter fun l => !p l.pa } }

/-! ## L1 (R282 to R284) -/

/-- Sets of a core's L1. -/
def State.l1Sets (s : State) (core : Nat) : Nat :=
  let (_, b2, b3) := (s.core core).split
  (b3 - b2) * 64
def l1Set (sets pa : Nat) : Nat := pa / 128 % max 1 sets

def Core.l1Find (k : Core) (ctx pa : Nat) : Option L1Line :=
  k.l1.find? fun l => l.pa == lineOf pa && l.ctx == ctx

/-- The line with fresh data and poison from memory. -/
def State.freshLine (s : State) (ctx pa : Nat) : L1Line :=
  let a := lineOf pa
  { pa := a, ctx := ctx, data := s.mem.bytes a 128,
    poisoned := (s.poison.filter fun p => decide (a ≤ p) && decide (p < a + 128)).map (· - a) }

/-- Touch a present line (R284). -/
def Core.l1Touch (k : Core) (l : L1Line) (hint : Nat) : Core :=
  if hint = hintStream then k
  else
    { k with l1 := l ::
               k.l1.filter fun m => m.pa != l.pa || m.ctx != l.ctx }

/-- Fill L1 with a line (R282, R284). -/
def State.l1Fill (s : State) (core ctx pa hint : Nat) : State :=
  if hint = hintNal then s
  else
    let k := s.core core
    let sets := s.l1Sets core
    let a := lineOf pa
    let others := k.l1.filter fun m => m.pa != a || m.ctx != ctx
    let inSet := others.reverse.filter fun m => l1Set sets m.pa == l1Set sets a
    let victim := if inSet.length < 8 then none else inSet.head?
    let kept := match victim with
      | none => others
      | some v => others.filter fun m => m.pa != v.pa || m.ctx != v.ctx
    let l := s.freshLine ctx pa
    s.setCore core { k with l1 := if hint = hintStream then kept ++ [l] else l :: kept }

/-- A store updates the bytes it writes in the context's lines that L1 holds (R283), and their poison. -/
def Core.l1Patch (k : Core) (ctx pa : Nat) (b : List Byte) : Core :=
  let hit (m : L1Line) : Bool := m.ctx == ctx && decide (m.pa < pa + b.length) && decide (pa < m.pa + 128)
  let mine (m : L1Line) (i : Nat) : Bool := decide (pa ≤ m.pa + i) && decide (m.pa + i < pa + b.length)
  { k with l1 := k.l1.map fun m => if hit m then
      { m with data := m.data.mapIdx fun i x => if mine m i then b.getD (m.pa + i - pa) 0 else x
               poisoned := m.poisoned.filter fun i => !mine m i }
    else m }

/-- Bring a present line up to date after a read or an atomic at the single copy (R317, assumption 14). -/
def State.l1Refresh (s : State) (core ctx pa : Nat) : State :=
  let k := s.core core
  match k.l1Find ctx pa with
  | none => s
  | some l =>
    let n := s.freshLine ctx pa
    s.setCore core { k with l1 := k.l1.map fun m => if m.pa = l.pa ∧ m.ctx = l.ctx then n else m }

/-- An acquire of cluster scope or wider drops the context's lines on the core (R283). -/
def scopeWide : Scope → Bool
  | .group | .workgroup => false
  | _ => true

def State.acquire (s : State) (core ctx : Nat) (sc : Scope) : State :=
  if scopeWide sc then s.modCore core fun k => { k with l1 := k.l1.filter fun l => l.ctx != ctx } else s

/-- Host bias or device bias of a host-shared page (R292); every page starts in host bias. -/
def State.deviceBias (s : State) (pa : Nat) : Bool := nget 0 s.hostBias (pa / 4096) == 1

/-- Whether L2 caches a place of a memory type (R278): never an uncached one, and a host-shared one in device bias, host bias
going past it by CXL.cache (R292, DEDUCED, assumption 68). -/
def State.l2Caches (s : State) (pa ty : Nat) : Bool := ty != 2 && (ty != 1 || s.deviceBias pa)

/-- The lines that n bytes from an address touch. -/
def linesIn (pa n : Nat) : List Nat :=
  if n = 0 then [] else (List.range ((pa + n - 1) / 128 - pa / 128 + 1)).map fun i => lineOf pa + 128 * i

end Sys2Proof.Machine
end

