-- ==== Sys2Proof/Machine/Translate.lean ====
section
/-! DEFINITION. Where an address leads: two-stage translation and the TLBs (R294 to R296), windows and the ordered checks of
an access (R271 to R277, R302). -/

namespace Sys2Proof.Machine

/-! ## Page tables (R294, R295) -/

def rd64 (m : Mem) (a : Nat) : Nat := leNat (m.bytes a 8)

/-- The entries that a walk read and found good: the address of each as its table gives it, and its physical address. -/
abbrev Steps := List (Nat × Nat)

/-- A leaf that a walk found: the address of its entry as its table gives it, the physical one, the entry's value, page size,
output. -/
structure Leaf where
  ta : Nat
  ea : Nat
  ent : Nat
  size : Nat
  pa : Nat
deriving Repr

/-- How a walk ends, beside the tables' entries on the way: at a leaf, at an entry that faults, or at an entry that stage 2
does not reach. -/
inductive Walk where
  | leaf (l : Leaf) (steps : Steps)
  | fault (level : Nat) (steps : Steps)
  | outer (addr level : Nat) (steps : Steps)
deriving Repr

def entAddr (e : Nat) : Nat := e / 4096 % 2 ^ 40 * 4096

/-- The sixteen entries of a CONT group agree (R295). -/
def contOk (m : Mem) (ea : Nat) : Bool :=
  let base := ea / 128 * 128
  let e0 := rd64 m base
  entAddr e0 % 65536 == 0 && (List.range 16).all fun i =>
    let e := rd64 m (base + 8 * i)
    e % 32 == e0 % 32 && e / 128 % 8 == e0 / 128 % 8 && entAddr e == entAddr e0 + 4096 * i

/-- Walk levels `n`, `n - 1`, …, 0 from a table; `conv` takes a table address to a physical one. -/
def walkFrom (m : Mem) (conv : Nat → Except (Nat × Nat) Nat) (addr : Nat) : Nat → Nat → Steps → Walk
  | n, table, steps =>
    let ta := table + 8 * (addr / 2 ^ (12 + 9 * n) % 512)
    match conv ta with
    | .error (a, l) => .outer a l steps
    | .ok ea =>
      let e := rd64 m ea
      let leaf := e.testBit 1
      let size := 2 ^ (12 + 9 * n)
      let cont := n == 0 && e.testBit 7
      if !e.testBit 0 || e / 2 ^ 8 % 4 == 3 || e / 2 ^ 10 % 4 != 0 || e / 2 ^ 52 % 2 ^ 12 != 0 then .fault n steps
      else if leaf then
        if 3 ≤ n ∨ entAddr e % size ≠ 0 ∨ (cont ∧ !contOk m ea) then .fault n steps
        else .leaf ⟨ta, ea, e, if cont then 65536 else size, entAddr e + addr % size⟩ steps
      else match n with
        | 0 => .fault 0 steps
        | n + 1 => walkFrom m conv addr n (entAddr e) (steps ++ [(ta, ea)])

def walk2 (s : State) (vf ipa : Nat) : Walk :=
  walkFrom s.mem (fun a => .ok a) ipa 4 (fld (s.pr (0x700000 + 0x10 * vf)) 12 40 * 4096) []

/-- Stage 1's own table reads go through stage 2 for a virtual function. -/
def walk1 (s : State) (vf va : Nat) : Walk :=
  let root := fld (s.vr vf 0x4000) 12 40 * 4096
  let conv (a : Nat) : Except (Nat × Nat) Nat :=
    if vf = pfn then .ok a
    else match walk2 s vf a with
      | .leaf l _ => .ok l.pa
      | .fault n _ => .error (a, n)
      | .outer a n _ => .error (a, n)
  walkFrom s.mem conv va 4 root []

def stage1On (s : State) (vf : Nat) : Bool := bit (s.vr vf 0x4000) 0

/-- A translation, or the stage, address and level of the entry that faults. -/
inductive Xlat where
  | ok (t : TlbEntry)
  | fault (stage2 : Bool) (addr level : Nat)
deriving Repr

def dirtyOfs (vf ofs : Nat) : Nat := 0x5D0000 + 0x20 * vf + ofs
def dirtyLogOn (s : State) (vf : Nat) : Bool := vf != pfn && bit (s.pr (dirtyOfs vf 0)) 0

/-- The translation of a 57-bit address by the tables as they stand (R294). With stage 1 off there is no stage-1 page, so an
entry is as large as stage 2's; the physical function, which has no stage 2, takes 4 KiB (R296, DEDUCED, assumption 20). -/
def State.walkVa (s : State) (vf va : Nat) : Xlat :=
  let first : Except Xlat (Nat × Nat × Nat × Nat) :=
    if stage1On s vf then
      match walk1 s vf va with
      | .leaf l _ => .ok (l.pa, l.size, l.ent / 4 % 8, l.ent / 2 ^ 8 % 4)
      | .fault n _ => .error (.fault false va n)
      | .outer a n _ => .error (.fault true a n)
    else .ok (va, if vf = pfn then 4096 else 2 ^ 57, 7, 0)
  match first with
  | .error e => e
  | .ok (ipa, size1, r1, ty1) =>
    let mk (pa size r ty : Nat) : Xlat :=
      .ok { ctx := vf, va := va / size * size, size := size, pa := pa / size * size, rd := r.testBit 0,
            wr := r.testBit 1, ex := r.testBit 2, ty := ty, wrote := false, ipa := ipa / size * size }
    if vf = pfn then mk ipa size1 r1 ty1
    else match walk2 s vf ipa with
      | .leaf l _ =>
        let size := if dirtyLogOn s vf then 4096 else min size1 l.size
        mk l.pa size (r1 &&& l.ent / 4 % 8) (l.ent / 2 ^ 8 % 4)
      | .fault n _ => .fault true ipa n
      | .outer a n _ => .fault true a n

def TlbEntry.covers (e : TlbEntry) (vf va : Nat) : Bool :=
  e.ctx == vf && decide (e.va ≤ va) && decide (va < e.va + e.size)

/-- A TLB entry that serves an access; a write needs an entry that a write's walk formed (R296, R434). -/
def tlbFind (l : List TlbEntry) (vf va : Nat) (write : Bool) : Option TlbEntry :=
  l.find? fun e => e.covers vf va && (!write || e.wrote)

def State.tlbHit (s : State) (core vf va : Nat) (write : Bool) : Option TlbEntry :=
  if core ≥ 64 then none
  else match tlbFind (s.core core).tlb vf va write with
    | some e => some e
    | none => tlbFind (s.die (core / 16)).tlb vf va write

/-- Translate: core TLB, die TLB, then the tables (R296). -/
def State.xlate (s : State) (core vf va : Nat) (write : Bool) : Xlat :=
  match s.tlbHit core vf va write with
  | some e => .ok e
  | none => s.walkVa vf va

def Xlat.paOf (t : TlbEntry) (va : Nat) : Nat := t.pa + (va - t.va)

/-! ## Windows and checks (R271 to R277, R302) -/

/-- Who makes an access: core (64 for the IO die), function, partition, workgroup, current frame size. -/
structure Req where
  core : Nat
  vf : Nat
  part : Nat
  wg : Nat
  fsize : Nat
  engine : Bool := false
deriving Repr

/-- What an instruction admits: windows (global, core and cluster scratchpad, die scratchpad, lane-private), the access
size, whether it writes or is an atomic, whether uncached memory is admitted, and the origin of a dirty-page record that
it makes (R433). -/
structure Want where
  global : Bool := true
  spads : Bool := true
  dscr : Bool := true
  priv : Bool := false
  size : Nat
  align : Bool := true
  write : Bool
  uncached : Bool := false
  origin : Nat := 0
deriving Repr

/-- The outcome of the checks for one address: a place and its memory type, the first check that fails (its rank in the
order of R302, code, subcode), or a translation fault. -/
inductive Chk where
  | ok (loc : Loc) (ty : Nat)
  | bad (rank code sub : Nat)
  | miss (stage2 : Bool) (addr level : Nat)
deriving Repr

/-- The place of a check in the order of R302; a page fault is the sixth. -/
def Chk.rank : Chk → Nat
  | .ok .. => 100
  | .bad r _ _ => r
  | .miss .. => 6

def fcIllegal : Nat := 0x01
def fcLanding : Nat := 0x03
def fcAddr : Nat := 0x10
def fcAlign : Nat := 0x11
def fcPage : Nat := 0x12
def fcProt : Nat := 0x13
def fcSpad : Nat := 0x14
def fcFrame : Nat := 0x07

/-- The workgroup that a cluster-memory rank names (R275). -/
def State.rankWg (s : State) (core wg rank : Nat) : Option (Nat × Nat) :=
  let own := if rank = core % 4 then some (core, wg) else none
  match s.wg? core wg with
  | none => own
  | some w => match nfind s.clsets w.clset with
    | none => own
    | some cs => cs.members.find? fun p => p.1 % 4 == rank

def State.spadBytes (s : State) (core wg : Nat) : Nat :=
  match s.wg? core wg with
  | some w => w.spadRows * 4096
  | none => 0

/-- Checks 5 to 7 of R302 for a global address. -/
def State.checkGlobal (s : State) (r : Req) (w : Want) (va : Nat) : Chk :=
  match s.xlate r.core r.vf va w.write with
  | .fault st a l => .miss st a l
  | .ok t =>
    let pa := Xlat.paOf t va
    if !inMap pa then .bad 7 fcAddr 3
    else if !s.xbar r.core r.part pa r.engine then .bad 8 fcProt 4
    else if !w.write && !t.rd then .bad 9 fcProt 1
    else if w.write && !t.wr then .bad 9 fcProt 2
    else if t.ty = 2 ∧ !w.uncached then .bad 9 fcProt 5
    else .ok (.phys pa) t.ty

/-- The checks of R302 for one address. The lane-private window admits aligned accesses alone (R274); of its two subcodes
the bits that must be zero come first (DESIGN CHOICE, assumption 69). -/
def State.check (s : State) (r : Req) (w : Want) (addr : DWord) : Chk :=
  let a := addr.toNat
  let top := a / 2 ^ 56
  let mis := w.align && a % w.size != 0
  if top ≤ 1 then
    if !w.global then .bad 1 fcAddr 2
    else if mis then .bad 2 fcAlign 1
    else s.checkGlobal r w (a % 2 ^ 57)
  else if top = 0xF0 then
    if !w.spads then .bad 1 fcAddr 2
    else if a / 2 ^ 24 % 2 ^ 32 ≠ 0 then .bad 1 fcAddr 1
    else if mis then .bad 2 fcAlign 1
    else if s.spadBytes r.core r.wg ≤ a % 2 ^ 24 then .bad 4 fcSpad 1
    else .ok (.spad r.core r.wg (a % 2 ^ 24)) 0
  else if top = 0xF1 then
    if !w.spads then .bad 1 fcAddr 2
    else if a / 2 ^ 24 % 2 ^ 32 ≠ 0 then .bad 1 fcAddr 1
    else if mis then .bad 2 fcAlign 1
    else match s.rankWg r.core r.wg (a / 2 ^ 22 % 4) with
      | none => .bad 4 fcSpad 2
      | some (c, g) => if s.spadBytes c g ≤ a % 2 ^ 22 then .bad 4 fcSpad 2 else .ok (.spad c g (a % 2 ^ 22)) 0
  else if top = 0xF2 then
    if !w.dscr then .bad 1 fcAddr 2
    else if a / 2 ^ 27 % 2 ^ 29 ≠ 0 then .bad 1 fcAddr 1
    else if mis then .bad 2 fcAlign 1
    else if !s.dscrOk r.core r.part (a / 2 ^ 25 % 4) (a / 2 ^ 23 % 4) r.engine then .bad 5 fcProt 4
    else .ok (.dscr (a / 2 ^ 25 % 4) (a % 2 ^ 25)) 0
  else if top = 0xF3 then
    if !w.priv || decide (4 < w.size) then .bad 1 fcAddr 2
    else if a / 2 ^ 12 % 2 ^ 44 ≠ 0 then .bad 1 fcAddr 1
    else if mis then .bad 1 fcAddr 2
    else if 4 * r.fsize ≤ a % 2 ^ 12 then .bad 3 fcFrame 3
    else .ok (.priv (a % 2 ^ 12)) 0
  else .bad 1 fcAddr 2

end Sys2Proof.Machine
end

