-- ==== Sys2Proof/Machine/Access.lean ====
section
/-! DEFINITION. Reaching memory: accessed and dirty bits, TLB fills and walks in order (R135, R295, R296), the dirty-page log
(R433 to R435), poison (R300), reads and writes of a location, flips of bias (R292), the event queues (R454), and replayable
faults with their records (R298, R299). -/

namespace Sys2Proof.Machine

/-! ## Accessed and dirty bits, the dirty-page log -/

/-- Write a dirty-page record (R433, R435); a ring outside the map of R285 keeps no bytes. -/
def State.dirtyLog (s : State) (vf ipa origin : Nat) : State :=
  if !dirtyLogOn s vf then s
  else
    let st := s.pr (dirtyOfs vf 0x10)
    let cfg := s.pr (dirtyOfs vf 0)
    let prod := (s.vf vf).dlProd
    let cons := BitVec.ofNat 32 (fld (s.pr (dirtyOfs vf 8)) 32 32)
    let n := fld cfg 1 5
    if bit st 0 then s
    else if (prod - cons).toNat = 2 ^ n then s.setPr (dirtyOfs vf 0x10) (putFld st 0 1 1)
    else
      let a := fld cfg 12 45 * 4096 + 8 * (prod.toNat % 2 ^ n)
      let s := if inMap a then { s with mem := s.mem.put a (leBytes 8 (ipa / 4096 * 4096 + origin)) } else s
      s.modVf vf fun v => { v with dlProd := v.dlProd + 1 }

/-- Set bits of a page-table entry that are not set. -/
def State.setEntry (s : State) (ea bits : Nat) : State :=
  let e := rd64 s.mem ea
  if e ||| bits = e then s else { s with mem := s.mem.put ea (leBytes 8 (e ||| bits)) }

def bitsAD (write : Bool) : Nat := if write then 0x60 else 0x20

/-- Whether some TLB holds an intermediate page for writing (R434). -/
def State.tlbHolds (s : State) (vf ipa : Nat) : Bool :=
  let h (l : List TlbEntry) : Bool :=
    l.any fun e => e.ctx == vf && e.wrote && decide (e.ipa ≤ ipa) && decide (ipa < e.ipa + e.size)
  (s.coreList.any fun p => h p.2.tlb) || (s.dies.toList.any fun d => h d.tlb)

/-- A in entries of stage 2. -/
def State.setSteps (s : State) (steps : Steps) : State := steps.foldl (fun s p => s.setEntry p.2 0x20) s

/-- A in every entry that a stage-2 walk reads, and for a write D in its leaf with the dirty-page record (R295, R434). -/
def State.touch2 (s : State) (vf ipa : Nat) (write : Bool) (origin : Nat) : State :=
  match walk2 s vf ipa with
  | .leaf l steps =>
    let due := write && (if l.size ≤ 65536 then !l.ent.testBit 6 else !s.tlbHolds vf ipa)
    let s := if due then s.dirtyLog vf ipa origin else s
    (s.setSteps steps).setEntry l.ea (bitsAD write)
  | .fault _ steps | .outer _ _ steps => s.setSteps steps

/-- Set bits of a stage-1 entry that a walk read: stage 2 is read for it, and an update is itself a write of its page
(R433). -/
def State.touch1 (s : State) (vf bits origin : Nat) (p : Nat × Nat) : State :=
  let s := if vf = pfn then s else s.touch2 vf p.1 false origin
  let e := rd64 s.mem p.2
  if e ||| bits = e then s else (if vf = pfn then s else s.touch2 vf p.1 true 2).setEntry p.2 bits

/-- A in every entry that the walk of an address reads, and for a write D in the leaves (R295); a walk that ends at an entry
that faults marks the entries before it. -/
def State.touchWalk (s : State) (vf va : Nat) (write : Bool) (origin : Nat) : State :=
  let steps1 (s : State) (l : Steps) : State := l.foldl (fun s p => s.touch1 vf 0x20 origin p) s
  if !stage1On s vf then (if vf = pfn then s else s.touch2 vf va write origin)
  else match walk1 s vf va with
    | .leaf l steps =>
      let s := (steps1 s steps).touch1 vf (bitsAD write) origin (l.ta, l.ea)
      if vf = pfn then s else s.touch2 vf l.pa write origin
    | .fault _ steps => steps1 s steps
    | .outer a _ steps => (steps1 s steps).touch2 vf a false origin

/-- Add an entry to a TLB of n entries; a full one gives up the entry a free value picks (assumption 2). -/
def tlbAdd (n pick : Nat) (l : List TlbEntry) (e : TlbEntry) : List TlbEntry :=
  let l := l.filter fun x => !(x.covers e.ctx e.va)
  e :: (if l.length < n then l else l.eraseIdx (pick % n))

/-- Fill the TLBs of a core and its die (R296). -/
def State.tlbFill (s : State) (core : Nat) (e : TlbEntry) : State :=
  if core ≥ 64 then s
  else
    let (v, s) := s.free
    let s := s.modCore core fun k => { k with tlb := tlbAdd 256 v k.tlb e }
    s.modDie (core / 16) fun d => { d with tlb := tlbAdd 16384 v d.tlb e }

/-- The walk of an address for an access that stands: its bits, its log record, the TLBs. -/
def State.walked (s : State) (core vf va : Nat) (write : Bool) (origin : Nat) : State :=
  match s.walkVa vf va with
  | .ok e => (s.touchWalk vf va write origin).tlbFill core { e with wrote := write }
  | .fault .. => s.touchWalk vf va false origin

/-! ## Poison (R300) -/

/-- The poison key of a byte of a location. -/
def locKey : Loc → Nat
  | .phys pa => pa
  | .dscr die ofs => 2 ^ 52 + die * 2 ^ 25 + ofs
  | .spad core wg ofs => 2 ^ 53 + (core * 64 + wg) * 2 ^ 24 + ofs
  | .priv ofs => 2 ^ 60 + ofs

def State.poisoned (s : State) (loc : Loc) (n : Nat) : Bool :=
  !s.poison.isEmpty && s.poison.any fun p => decide (locKey loc ≤ p) && decide (p < locKey loc + n)

def State.clearPoison (s : State) (loc : Loc) (n : Nat) : State :=
  if s.poison.isEmpty then s
  else { s with poison := s.poison.filter fun p => !(decide (locKey loc ≤ p) && decide (p < locKey loc + n)) }

/-! ## Reading and writing a location -/

/-- A scratchpad location lies in a line whose presence bit is clear (R280). -/
def State.absentLine (s : State) (loc : Loc) : Bool :=
  match loc with
  | .spad c w o => match s.wg? c w with
    | some g => nget 0 g.absent (o / 128) != 0
    | none => false
  | _ => false

def State.readLoc (s : State) (loc : Loc) (n : Nat) : List Byte :=
  match loc with
  | .phys pa => s.mem.bytes pa n
  | .spad core wg ofs => match s.wg? core wg with
    | some w => w.spad.bytes ofs n
    | none => List.replicate n 0
  | .dscr die ofs => s.dscr.bytes (die * 2 ^ 25 + ofs) n
  | .priv _ => List.replicate n 0

def State.readNat (s : State) (loc : Loc) (n : Nat) : Nat := leNat (s.readLoc loc n)

def Loc.add : Loc → Nat → Loc
  | .phys pa, n => .phys (pa + n)
  | .spad c w o, n => .spad c w (o + n)
  | .dscr d o, n => .dscr d (o + n)
  | .priv o, n => .priv (o + n)

/-- Bytes into a location, with its poison cleared; caches and waiters are the caller's (`State.store`). -/
def State.putLoc (s : State) (loc : Loc) (b : List Byte) : State :=
  let s := s.clearPoison loc b.length
  match loc with
  | .phys pa => { s with mem := s.mem.put pa b }
  | .spad core wg ofs => s.modWg core wg fun w => { w with spad := w.spad.put ofs b }
  | .dscr die ofs => { s with dscr := s.dscr.put (die * 2 ^ 25 + ofs) b }
  | .priv _ => s

/-- Whether the condition of a wait on memory holds (R338, R345, R126). -/
def State.memWaitHolds (s : State) : Resume → Bool
  | .counter _ loc least _ => decide (least.toNat ≤ s.readNat loc 8)
  | .phase _ loc awaited => decide (0 < (BitVec.ofNat 64 (s.readNat (loc.add 8) 8) - awaited).toInt)
  | .future _ loc _ => decide (2 ^ 63 ≤ s.readNat loc 8)
  | _ => false

/-- The page of a global location is being flipped (R292). -/
def State.flipping (s : State) (loc : Loc) : Bool :=
  match loc with
  | .phys pa => s.vfs.any fun p => match p.2.flip with
    | some (page, _, r) => r == 0 && page == pa / 4096
    | none => false
  | _ => false

/-- One condition of a FENCE card holds now (R102), read once a flip of its page is over (R292); a memory counter that the function's translation does not let the dealer
read does not hold (DESIGN CHOICE, assumption 71). -/
def State.condHolds (s : State) (vf : Nat) (c : DWord × DWord) : Bool :=
  match fld c.1 62 2 with
  | 1 => match s.xlate 64 vf (fld c.1 0 57) false with
    | .ok t =>
      let pa := Xlat.paOf t (fld c.1 0 57)
      t.rd && inMap pa && s.xbar 64 (s.partOf vf) pa false && !s.flipping (.phys pa) && !s.poisoned (.phys pa) 8 &&
        decide (c.2.toNat ≤ leNat (s.mem.bytes pa 8))
    | .fault .. => false
  | 2 => decide (c.2.toNat ≤ (nget {} (s.vf vf).jqs (fld c.1 0 57)).done.toNat)
  | 3 => nget 0 (s.vf vf).dcs (fld c.1 0 57) == 0
  | _ => false

/-- A condition of a FENCE card that has held once counts as met (R102). -/
def State.noteFences (s : State) : State :=
  let met (j : Job) : List Nat :=
    (List.range j.conds.length).filter fun i => j.met.contains i || s.condHolds j.vf (j.conds.getD i (0, 0))
  if s.jobs.all fun p => p.2.conds.isEmpty then s
  else { s with jobs := s.jobs.map fun p => (p.1, { p.2 with met := met p.2 }) }

/-- A condition on memory that holds after a write is never missed (R164): mark the groups whose wait it ends, and the
conditions of FENCE cards that it meets. -/
def State.noteWaits (s : State) : State :=
  let mark (g : Group) : Group := if s.memWaitHolds g.resume then { g with waitDone := true } else g
  let cores := s.cores.map fun (k : Core) => { k with groups := k.groups.map fun p => (p.1, mark p.2) }
  State.noteFences { s with cores := cores }

/-! ## Reads through L1 and L2 (R281 to R284) -/

/-- What a load does to the caches for one line. -/
def State.loadLine (s : State) (core part ctx : Nat) (via : Via) (hint : Nat) (loc : Loc) : State :=
  match loc, via with
  | .phys pa, .l1 l2 => match (s.core core).l1Find ctx pa with
    | some l => s.modCore core fun k => k.l1Touch l hint
    | none => (if l2 then s.l2Access core part ctx pa hint false else s).l1Fill core ctx pa hint
  | .phys pa, .slice l2 => (if l2 then s.l2Access core part ctx pa hint false true else s).l1Refresh core ctx pa
  | _, _ => s

/-! ## Accesses in flight, flips of bias (R292, R293) -/

def PendReq.locs (q : PendReq) : List Loc :=
  match q.dest with
  | .lanes ps => ps.map (·.loc)
  | .scalar _ p => [p.loc]
  | _ => []

/-- An access of some group to a physical address that a test picks is in flight. -/
def State.inFlight (s : State) (who : Group → Bool) (p : Nat → Bool) : Bool :=
  let hits (l : Loc) : Bool := match l with
    | .phys pa => p pa
    | _ => false
  s.groupList.any fun x => who x.2.2 &&
    ((x.2.2.pends.any fun q => q.locs.any hits) || x.2.2.sq.any fun b => b.elems.any fun e => hits e.loc)

/-- The page is named by a flip that fails (R293, R333). -/
def State.failingFlip (s : State) (pa : Nat) : Bool :=
  s.vfs.any fun p => match p.2.flip with
    | some (page, _, r) => r == 1 && page == pa / 4096
    | none => false

/-- A function's flip completes once no access to the page is in flight; a flip to host bias drops its lines. -/
def State.endFlip (s : State) (vf : Nat) : State :=
  match (s.vf vf).flip with
  | none => s
  | some (page, toHost, r) =>
    let fin (s : State) : State := s.modVf vf fun v => { v with flip := none, flipResult := r }
    let inPage (pa : Nat) : Bool := pa / 4096 == page
    if r ≠ 0 then fin s
    else if s.inFlight (fun _ => true) inPage then s
    else
      let s := if toHost then s.dropWhere inPage else s
      fin { s with hostBias := nset 0 s.hostBias page (if toHost then 0 else 1) }

/-- An access that the model makes in one event (a fetch, the dealer's and the device's own) waits for the flip of its page
by completing it first (DEDUCED, assumption 68). -/
def State.settleFlip (s : State) (pa : Nat) : State :=
  if s.flipping (.phys pa) then
    (s.vfs.filter fun p => match p.2.flip with
      | some (page, _, r) => r == 0 && page == pa / 4096
      | none => false).foldl (fun s p => s.endFlip p.1) s
  else s

/-- Such an access has to wait: an access to the page that is in flight does not let its flip complete (R292). -/
def State.flipHeld (s : State) (pa : Nat) : Bool := s.flipping (.phys pa) && (s.settleFlip pa).flipping (.phys pa)

/-- An address of a function lies in such a page. -/
def State.fnHeld (s : State) (fn va : Nat) : Bool :=
  match s.xlate 64 fn va true with
  | .ok t => s.flipHeld (Xlat.paOf t va)
  | .fault .. => false

/-- So does some byte of a span. -/
def State.spanHeld (s : State) (fn va n : Nat) : Bool :=
  (List.range ((va % 4096 + n + 4095) / 4096)).any fun i => s.fnHeld fn ((va / 4096 + i) * 4096 % 2 ^ 57)

/-- The device leaves something for a function until the flip is over. -/
def State.delay (s : State) (fn : Nat) (x : Late) : State := s.modVf fn fun v => { v with late := v.late ++ [x] }

/-- Something of a kind waits, and so does what comes after it. -/
def Late.isEvent (x : Late) : Bool := match x with
  | .event _ => true
  | _ => false
def Late.isPool (x : Late) : Bool := match x with
  | .pool .. => true
  | _ => false
def Late.isSample (x : Late) : Bool := match x with
  | .sample _ => true
  | _ => false
def Late.isCommand (x : Late) : Bool := match x with
  | .command _ => true
  | _ => false
def Vf.eventWaits (v : Vf) : Bool := v.late.any Late.isEvent

/-! ## Walks in arrival order (R135, R311) -/

/-- A prefetch of a line whose translation stands: TLBs, caches (R311). -/
def State.prefetch (s : State) (core part vf hint va : Nat) : State :=
  let r : Req := { core := core, vf := vf, part := part, wg := 0, fsize := 0 }
  let w : Want := { spads := false, dscr := false, size := 1, write := false }
  match s.check r w (BitVec.ofNat 64 va) with
  | .ok loc ty =>
    if s.flipping loc then s
    else
      let s := if (s.tlbHit core vf va false).isSome then s else s.walked core vf va false 0
      if hint = hintNal then s else match loc with
        | .phys pa => s.loadLine core part vf (.l1 (s.l2Caches pa ty)) hint (.phys (lineOf pa))
        | _ => s
  | _ => if (s.tlbHit core vf va false).isSome then s else s.walked core vf va false 0

/-- Queue a walk at the core's die, once for a line (R135, R295). -/
def State.queueWalk (s : State) (core vf hint va : Nat) : State :=
  s.modDie (core / 16) fun d =>
    let e := (core, 4 * vf + hint, va)
    if d.walks.contains e then d else { d with walks := d.walks ++ [e] }

/-- Walkers that a partition has on a die (R130). -/
def State.wlk (s : State) (die p : Nat) : Nat := fld (s.partWord die p) 32 6

/-- A queued walk is made. -/
def State.makeWalk (s : State) (die : Nat) (w : Nat × Nat × Nat) : State :=
  (s.modDie die fun d => { d with walks := d.walks.erase w }).prefetch w.1 (s.corePart w.1) (w.2.1 / 4) (w.2.1 % 4) w.2.2

/-- A miss of a core's access takes a walker of its partition: where the older misses of the partition on the die hold them
all, the oldest complete first (R135, DEDUCED, assumption 20). -/
def State.walkTurn (s : State) (core : Nat) : State :=
  let die := core / 16
  let old := (s.die die).walks.filter fun w => s.corePart w.1 == s.corePart core
  (old.take (old.length + 1 - max 1 (s.wlk die (s.corePart core)))).foldl (fun s w => s.makeWalk die w) s

/-- What an access that stands does to the tables, the log and the TLBs. -/
def State.touch (s : State) (core vf va : Nat) (write : Bool) (origin : Nat) : State :=
  match s.tlbHit core vf va write with
  | some e => if (tlbFind (s.core core).tlb vf va write).isSome then s
              else s.modCore core fun k => { k with tlb := tlbAdd 256 0 k.tlb e }
  | none => (if core < 64 then s.walkTurn core else s).walked core vf va write origin

/-- The walk of an access that a fault ends, in its turn (R135): A in the entries read (R295). -/
def State.walkMarks (s : State) (core vf va : Nat) : State :=
  if va < 2 ^ 57 ∧ (s.tlbHit core vf va false).isNone then (if core < 64 then s.walkTurn core else s).touchWalk vf va false 0 else s

/-! ## Writes at the single copy (R283, R287, R290) -/

/-- Whether L2 caches the place of an address of a function (R278, R292). -/
def State.cachedAt (s : State) (core vf va : Nat) (loc : Loc) : Bool :=
  match loc with
  | .phys pa => match s.xlate core vf va false with
    | .ok t => s.l2Caches pa t.ty
    | .fault .. => true
  | _ => false

/-- A write of a core's group or engine at the single copy: memory, L1's bytes, L2 where it caches the place, the waiters. -/
def State.store (s : State) (core part ctx : Nat) (loc : Loc) (b : List Byte) (hint : Nat) (cached : Bool := true) : State :=
  let s := s.putLoc loc b
  let s := match loc with
    | .phys pa =>
      let s := if cached then (linesIn pa b.length).foldl (fun (s : State) a => s.l2Access core part ctx a hint true) s else s
      s.modCore core fun k => k.l1Patch ctx pa b
    | _ => s
  s.noteWaits

/-! ## A function's own rings: event and fault queues -/

/-- A write of the device through a function's translation (R299, R454): none where it cannot be made. It
allocates nothing in L2 (R483, DEDUCED, assumption 64). -/
def State.fnWrite (s : State) (fn va : Nat) (b : List Byte) : Option State :=
  match s.xlate 64 fn va true with
  | .ok t =>
    let pa := Xlat.paOf t va
    if !t.wr || !inMap pa || s.poisoned (.phys pa) b.length || !s.xbar 64 (s.partOf fn) pa false then none
    else some (((s.settleFlip pa).touch 64 fn va true 2).store 64 (s.partOf fn) fn (.phys pa) b hintNal (s.l2Caches pa t.ty))
  | .fault .. => none

def wordBytes (l : List DWord) : List Byte := l.flatMap fun w => leBytes 8 w.toNat

/-- Write an event record, or count it lost (R454); during a flip of its page it waits (R292). -/
def State.eqWrite (s : State) (fn : Nat) (words : List DWord) : State :=
  let cfg := s.vr fn 0xB000
  let n := fld cfg 0 5
  let v := s.vf fn
  let cons := BitVec.ofNat 32 (s.vr fn 0xB010).toNat
  let va := fld cfg 12 45 * 4096 + 64 * (v.eqProd.toNat % 2 ^ n)
  let lost := s.modVf fn fun v => { v with eqLost := v.eqLost + 1 }
  if v.eventWaits || s.fnHeld fn va then s.delay fn (.event words)
  else if (v.eqProd - cons).toNat = 2 ^ n then lost
  else match s.fnWrite fn va (wordBytes words) with
    | none => lost
    | some s => (s.modVf fn fun v => { v with eqProd := v.eqProd + 1 }).raise fn (fld (s.vr fn 0x108) 0 11)

/-- The words of a fault record (R400). -/
def FaultRec.words (r : FaultRec) : List DWord :=
  let b (x : Bool) (i : Nat) : Nat := if x then 2 ^ i else 0
  [ BitVec.ofNat 64 (r.code + r.sub * 2 ^ 8 + b r.imp 16 + b r.term 17 + b r.inh 18 + r.inner * 2 ^ 24 + r.isub * 2 ^ 32),
    r.pc, r.cmd, r.addr, r.lanes.extractLsb' 0 64,
    BitVec.ofNat 64 ((maskWord r.lanes 2).toNat + r.vf * 2 ^ 32 + r.part * 2 ^ 41),
    BitVec.ofNat 64 r.stamp, r.card ]

/-! ## Disclosure levels and the records of operator-side queues (R439 to R441) -/

/-- The policy word of a class in a partition (R440): WITHHOLD unless its policy is locked. -/
def State.partClass (s : State) (p cls : Nat) : DWord :=
  if (s.part p).pstate = 2 then nget 0 (s.part p).classes cls else 0

/-- That of a function: WITHHOLD where it is bound to no partition. -/
def State.classWord (s : State) (vf cls : Nat) : DWord :=
  match s.bound vf with
  | some p => s.partClass p cls
  | none => 0
def State.level (s : State) (vf cls : Nat) : Nat := if vf = pfn then 3 else fld (s.classWord vf cls) 0 2

/-- A record that AGGREGATE keeps back is counted for its class (R440). -/
def State.owe (s : State) (vf cls : Nat) : State :=
  let p := s.partOf vf
  let k := s.part p
  s.setPart p { k with owed := nset 0 k.owed cls (nget 0 k.owed cls + 1) }

/-- The one record of a class that COARSE delivers for a function in a grid interval, where it is still to come (R440). -/
def State.coarseDue (s : State) (vf cls : Nat) : Option State :=
  let p := s.partOf vf
  let k := s.part p
  let now := s.ref / (1000 * 2 ^ fld (s.classWord vf cls) 8 5) + 1
  if nget 0 k.delivered (8 * vf + cls) = now then none
  else some (s.setPart p { k with delivered := nset 0 k.delivered (8 * vf + cls) now })

/-- A record of a tenant's data goes to the physical function's event queue as its class's level allows (R440): whole, in
the form that COARSE shows once in an interval, or as what is disclosed whatever the level (R441), where that is anything. -/
def State.pfRecord (s : State) (vf cls : Nat) (whole shown : List DWord) (least : Option (List DWord)) : State :=
  let rest (s : State) : State := match least with
    | some words => s.eqWrite pfn words
    | none => s
  match s.level vf cls with
  | 3 => s.eqWrite pfn whole
  | 2 => rest (s.owe vf cls)
  | 1 => match s.coarseDue vf cls with
    | some s => s.eqWrite pfn shown
    | none => rest s
  | _ => rest s

/-- A fault record as COARSE shows it: the entry bundle for the PC, addresses to 2 MiB. -/
def FaultRec.coarse (r : FaultRec) : FaultRec :=
  { r with pc := r.entryB, addr := r.addr &&& ~~~0x1FFFFF#64, card := r.card &&& ~~~0x1FFFFF#64 }

/-- The floor of a fault record: CODE, TERM, VF, PART, and STAMP to the millisecond (R441). -/
def FaultRec.floor (r : FaultRec) : FaultRec :=
  { code := r.code, term := r.term, vf := r.vf, part := r.part, stamp := r.stamp / 1000000 * 1000000 }

/-- Write a fault record: whole to its function's event queue, and for a virtual function through the filter to the
physical function's, which is where an operator reads it (R400, R439 to R441; DEDUCED, assumption 81). -/
def eventFault (s : State) (r : FaultRec) : State :=
  let s := s.eqWrite r.vf r.words
  if r.vf = pfn then s else s.pfRecord r.vf 4 r.words r.coarse.words (some r.floor.words)

/-! ## Replayable page faults (R298, R299) -/

/-- What a fault-queue record says of an access, and the virtual address that the access named (R163). -/
structure PageMiss where
  va : DWord := 0
  stage2 : Bool
  addr : Nat
  level : Nat
  acc : Nat
  ctx : Nat
  part : Nat
  pc : DWord
  entryB : DWord
  cmd : DWord
deriving Repr

def PageMiss.fn (m : PageMiss) : Nat := if m.stage2 then pfn else m.ctx
/-- The key under which faults merge: context, stage, page, ACC. -/
def PageMiss.key (m : PageMiss) : Nat × Nat × Nat × Nat := (m.ctx, if m.stage2 then 1 else 0, m.addr / 4096, m.acc)

/-- PC and CMD of a record as its queue's reader sees them: a stage-2 record of a virtual function passes the filter, at
COARSE once in an interval (R298, R439, R440). -/
def State.fqSeen (s : State) (fn ctx : Nat) (e : FqEntry) : DWord × DWord × State :=
  if fn = ctx then (e.pc, e.cmd, s)
  else match s.level ctx 4 with
    | 3 => (e.pc, e.cmd, s)
    | 2 => (0, 0, s.owe ctx 4)
    | 1 => match s.coarseDue ctx 4 with
      | some s => (e.entryB, e.cmd, s)
      | none => (0, 0, s)
    | _ => (0, 0, s)

/-- The address of the next slot of a function's fault queue. -/
def State.fqSlot (s : State) (fn : Nat) : Nat :=
  fld (s.vr fn 0x5000) 12 45 * 4096 + 32 * ((s.vf fn).fqProd.toNat % 2 ^ fld (s.vr fn 0x5000) 0 5)

/-- A record that the queue does not take is withheld: where the ring is full OVF is set (R299), during a flip of its page it is
written afterwards (R292). -/
def State.fqRefused (s : State) (fn : Nat) : State :=
  if s.fnHeld fn (s.fqSlot fn) then s.delay fn .faults else s.setVr fn 0x5020 (putFld (s.vr fn 0x5020) 0 1 1)

/-- Write a fault-queue record if the ring has room and can be written; the new sequence number, the first being 1
(R477). -/
def State.fqWrite (s : State) (fn : Nat) (e : FqEntry) : Option (BitVec 32 × State) :=
  let cfg := s.vr fn 0x5000
  let n := fld cfg 0 5
  let v := s.vf fn
  let cons := BitVec.ofNat 32 (s.vr fn 0x5010).toNat
  if 2 ^ n ≤ (v.fqProd - cons).toNat || s.fnHeld fn (s.fqSlot fn) then none
  else
    let (ctx, stage, _, acc) := e.key
    let (pc, cmd, s) := s.fqSeen fn ctx e
    let w0 := BitVec.ofNat 64 (e.addr.toNat % 2 ^ 57 + stage * 2 ^ 57 + acc * 2 ^ 58 + e.level * 2 ^ 60)
    let w1 := BitVec.ofNat 64 ((v.fqSeq + 1).toNat + ctx * 2 ^ 32 + e.part * 2 ^ 41)
    match s.fnWrite fn (s.fqSlot fn) (wordBytes [w0, w1, pc, cmd]) with
    | none => none
    | some s =>
      let q := v.fqSeq + 1
      let s := s.modVf fn fun v => { v with fqProd := v.fqProd + 1, fqSeq := v.fqSeq + 1 }
      some (q, s.raise fn (fld (s.vr fn 0x108) 16 11))

/-- Report a page fault: merge with an outstanding record, else write one, else withhold it with OVF set. -/
def State.pageFault (s : State) (m : PageMiss) : State :=
  let fn := m.fn
  if (s.vf fn).fq.any fun e => e.key == m.key then s
  else
    let e : FqEntry := { key := m.key, addr := BitVec.ofNat 64 m.addr, level := m.level, pc := m.pc, cmd := m.cmd,
                         part := m.part, entryB := m.entryB, seq := none }
    match s.fqWrite fn e with
    | some (q, s) => s.modVf fn fun v => { v with fq := v.fq ++ [{ e with seq := some q }] }
    | none => (s.fqRefused fn).modVf fn fun v => { v with fq := v.fq ++ [e] }

/-- The sequence number that an access with this key waits on; 0 while its record is withheld. -/
def State.fqSeqOf (s : State) (fn : Nat) (key : Nat × Nat × Nat × Nat) : Nat :=
  match (s.vf fn).fq.find? fun e => e.key == key with
  | some e => (e.seq.getD 0).toNat
  | none => 0

end Sys2Proof.Machine
end

