-- ==== Sys2Proof/Machine/Lanes.lean ====
section
/-! DEFINITION. The issuing group and its lanes: masks, guards, coil and frame (R19, R63, R170 to R176), push sequence
numbers (R155) and the register cache (R161). -/

namespace Sys2Proof.Machine

/-! ## The issuing group -/

/-- The issuing group: core, group slot, group, its job's constant table and card address (R51, R60). -/
structure Ctx where
  core : Nat
  slot : Nat
  g : Group
  k : List DWord
  card : DWord
deriving Repr

def State.ctxOf (s : State) (core slot : Nat) : Option Ctx :=
  match s.group? core slot with
  | none => none
  | some g =>
    let (k, a) := match s.job? g.job with
      | some j => (j.ktab, j.addr)
      | none => ([], 0)
    some { core := core, slot := slot, g := g, k := k, card := a }

/-- Constant register n (R51). -/
def Ctx.kreg (c : Ctx) (n : Nat) : DWord := c.k.getD n 0

/-- The group that `State.cur` names. -/
def State.ctx? (s : State) : Option Ctx := s.ctxOf s.cur.1 s.cur.2

def Ctx.req (c : Ctx) (engine : Bool := false) : Req :=
  { core := c.core, vf := c.g.vf, part := c.g.part, wg := c.g.wg, fsize := c.g.frameSize, engine := engine }

def Group.sreg (g : Group) (n : Nat) : DWord := if h : n < 64 then g.s[n] else 0
/-- Write scalar n; a write clears the poison that a load left there (R300). -/
def Group.setS (g : Group) (n : Nat) (v : DWord) : Group :=
  if h : n < 64 then { g with s := g.s.set n v, spoison := g.spoison.filter fun p => p.1 != n } else g
def Group.lane (g : Group) (l : Fin 96) : Lane := g.lanes[l]

/-- The mask of s61 to s63 (R19, R192). -/
def Group.mask (g : Group) : LaneMask :=
  joinMask ((g.sreg 61).setWidth 32) ((g.sreg 62).setWidth 32) ((g.sreg 63).setWidth 32)
def Group.setMask (g : Group) (m : LaneMask) : Group :=
  ((g.setS 61 ((maskWord m 0).setWidth 64)).setS 62 ((maskWord m 1).setWidth 64)).setS 63 ((maskWord m 2).setWidth 64)

/-- A predicate of a lane; p0 is true (R176). -/
def Lane.p (l : Lane) (i : Nat) : Bool := i == 0 || l.preds.getLsbD (i - 1)
def Lane.setP (l : Lane) (i : Nat) (b : Bool) : Lane :=
  if i = 0 then l
  else
    let m : BitVec 7 := BitVec.ofNat 7 (2 ^ (i - 1))
    { l with preds := if b then l.preds ||| m else l.preds &&& ~~~m }

/-- A guard of a lane (R63). -/
def Lane.guard (l : Lane) (gd : Guard) : Bool := l.p gd.p.val != gd.inv

/-- E: mask bit set, both guards true (R63). -/
def Group.exec (g : Group) (g1 g2 : Guard) : LaneMask :=
  let m := g.mask
  maskOf fun l => inMask m l && (if h : l < 96 then g.lanes[l].guard g1 && g.lanes[l].guard g2 else false)

/-- Change the lanes of a mask. -/
def Group.modLanes (g : Group) (m : LaneMask) (f : Fin 96 → Lane → Lane) : Group :=
  { g with lanes := g.lanes.mapFinIdx fun i l h => if inMask m i then f ⟨i, h⟩ l else l }

/-- Lanes as a mask (bit order of R19), and lanes that satisfy a test. -/
def lanesWhere (m : LaneMask) (p : Fin 96 → Bool) : LaneMask :=
  maskOf fun l => inMask m l && (if h : l < 96 then p ⟨l, h⟩ else false)

/-! ## Coil and frame (R170 to R175) -/

def LaneAct.fresh : LaneAct := { P := 0, F := 0, coil := [], frame := [] }

/-- R171. -/
def LaneAct.push (D : Nat) (a : LaneAct) (v : Val) : LaneAct :=
  let p := a.P + 1
  { a with P := p, coil := nset (.word 0) a.coil (p.toNat % D) v,
           F := if D < (p - a.F).toNat then p - BitVec.ofNat 32 D else a.F }
def LaneAct.pushAll (D : Nat) (a : LaneAct) (vs : List Val) : LaneAct := vs.foldl (LaneAct.push D) a
/-- The coil slot of age a (R172). -/
def LaneAct.index (D : Nat) (a : LaneAct) (n : Nat) : Nat := (a.P.toNat + 2 ^ 32 + 1 - n) % D
def LaneAct.age (D : Nat) (a : LaneAct) (n : Nat) : Val := nget (.word 0) a.coil (a.index D n)
def LaneAct.count (a : LaneAct) : Nat := (a.P - a.F).toNat
def LaneAct.live (a : LaneAct) (n : Nat) : Bool := decide (n ≤ a.count)
def LaneAct.fr (a : LaneAct) (n : Nat) : Val := nget (.word 0) a.frame n
def LaneAct.setFr (a : LaneAct) (n : Nat) (v : Val) : LaneAct := { a with frame := nset (.word 0) a.frame n v }

def Lane.pushAll (D : Nat) (l : Lane) (vs : List Val) : Lane := { l with act := l.act.pushAll D vs }

/-! ## Push sequence numbers and the register cache (R155, R161) -/

/-- The last n pushes of a lane, made by an instruction before which the group's count stood at q, get their numbers. -/
def LaneAct.stamp (D n q : Nat) (a : LaneAct) : LaneAct :=
  { a with seqs := (List.range n).foldl (fun t i =>
      nset 0 t ((a.P.toNat + 2 ^ 32 - n + 1 + i) % 2 ^ 32 % D) (q + i + 1)) a.seqs }

/-- Number the pushes made since the lanes' push counts were `old`. -/
def Group.stamp (g : Group) (old : Fin 96 → BitVec 32) : Group :=
  let n (l : Fin 96) : Nat := ((g.lane l).act.P - old l).toNat
  let d := laneList.foldl (fun m l => max m (n l)) 0
  if d = 0 then g
  else { g with pushSeq := g.pushSeq + d
                lanes := g.lanes.mapFinIdx fun i l h => { l with act := l.act.stamp g.coilD (n ⟨i, h⟩) g.pushSeq } }

/-- The pushes of an instruction in the activation it found; RJN pushes nothing new (R186), a call and a return number
their own. -/
def Group.stampFrom (g old : Group) (i : Form) : Group :=
  match i with
  | .v 0x025 _ => g
  | _ => if g.base = old.base then g.stamp fun l => (old.lane l).act.P else g

/-- The last push before the youngest six, or before the cache was written back. -/
def Group.cacheEdge (g : Group) : Nat := max g.cacheFloor (g.pushSeq - 6)

/-- Whether the register cache holds a coil slot. -/
def Group.caches (g : Group) (a : LaneAct) (idx : Nat) : Bool := decide (g.cacheEdge < nget 0 a.seqs idx)

/-- Zero words among the pushes after `lo` up to `hi`: writes that their zero flags suppress as the cache gives them up
(R160). -/
def Group.zeroPushes (g : Group) (lo hi : Nat) : Nat :=
  g.lanes.foldl (fun n l => n + (l.act.seqs.filter fun p =>
    decide (lo < p.2) && decide (p.2 ≤ hi) && nget (.word 0) l.act.coil p.1 == .word 0).length) 0

end Sys2Proof.Machine
end

