-- ==== Sys2Proof/Machine/Scoreboard.lean ====
section
/-! DEFINITION. What the scoreboard and the ports know of an instruction before it issues (R147, R155, R156, R161, R162): the
words and scalars it reads and writes by name, its port, the clocks it takes, and whether a value it needs is still to
arrive. -/

namespace Sys2Proof.Machine

/-! ## Names of words -/

/-- A word of a lane's activation by name: a coil age, from 1, or a frame slot. -/
inductive RegWord where
  | age (n : Nat)
  | frame (n : Nat)
deriving DecidableEq, Repr

/-- The n consecutive words from a vector name. -/
def nameWords (x : VName) (n : Nat) : List RegWord :=
  match x with
  | .age a => (List.range n).map fun i => .age (a.val + 1 + i)
  | .frame k => (List.range n).map fun i => .frame (k.val + i)
  | _ => []

/-- Words that a use of a name field covers. -/
def useWords (u : Use) : Nat :=
  match u with
  | .word | .dest => 1
  | .pair | .dest2 => 2
  | _ => 0

def readWords (u : Use) (x : VName) : List RegWord := if useReads u then nameWords x (useWords u) else []

/-- Words of the DATA field of a memory instruction that reads it. -/
def dataWords (op : Nat) (f : MOps) : Nat :=
  let wide := f.scale.getLsbD 1
  if op = 0x101 then (if f.size = 5 then 2 else 1)
  else if op = 0x104 then (if wide then 2 else 1)
  else if op = 0x105 then (if wide then 4 else 2)
  else if mData op then 1 else 0

/-- Side j of a rejoin descriptor: N and the selected ages (R92). -/
def rjSide (d : Nat) (j m : Nat) : Nat × List Nat :=
  (d / 2 ^ (30 * j + 24) % 64, (List.range m).map fun i => d / 2 ^ (30 * j + 18 - 6 * i) % 64 + 1)

/-- The selected ages of RJN in a lane (R186). -/
def Ctx.rjWords (c : Ctx) (f : VOps) (l : Nat) : List RegWord :=
  let k := f.imm.toNat
  let d := (c.kreg (k + 1)).toNat * 2 ^ 64 + (c.kreg k).toNat
  let m := d / 2 ^ 125
  match (if c.g.completing && decide (m ≤ 4) then c.g.stack.head? else none) with
  | some (.rcv _ _ _ _ _ sd _) => (rjSide d (nget 0 sd l) m).2.map .age
  | _ => []

/-- The words that an instruction names as sources in a lane; `w` is the record size of the queue an ENQD names. -/
def Ctx.laneReads (c : Ctx) (i : Form) (w l : Nat) : List RegWord :=
  let ages (n : Nat) : List RegWord := (List.range n).map fun i => .age (i + 1)
  match i with
  | .v op f =>
    if op = 0x025 then c.rjWords f l
    else if op = 0x023 then nameWords f.b f.imm.toNat
    else
      let u := (vrule op).uses f
      readWords u.1 f.a ++ readWords u.2.1 f.b ++ readWords u.2.2 f.c
  | .m op f => nameWords f.ofs 1 ++ nameWords f.data (dataWords op f)
  | .b op f => if op = 0x007 ∨ op = 0x009 then ages f.aux.toNat else []
  | .bi op f => if op = 0x008 then ages f.aux.toNat else []
  | .e op f => if op = 0x142 ∨ op = 0x160 then nameWords f.an 6 else if op = 0x121 ∨ op = 0x122 then nameWords f.an 1 else []
  | .t op _ => if op = 0x181 then ages w else []
  | .plop _ | .s .. | .smovi _ | .event => []

/-- The frame slots that an instruction names as destinations, and the lanes in which it writes them (R183, R184,
R263). -/
def frameDest (i : Form) (E : LaneMask) : List RegWord × LaneMask :=
  match i with
  | .v op f =>
    if op = 0x022 then (nameWords f.a (if tyPair f.ty then 2 else 1), E)
    else if op = 0x023 then (nameWords f.a f.imm.toNat, E)
    else if op = 0x0CA then (nameWords f.a 1, maskOf fun l => l == f.imm.toNat && inMask E l)
    else ([], 0)
  | _ => ([], 0)

def vScalars : VName → List Nat
  | .scalar n => [n.val]
  | _ => []

def sScalars : SName → List Nat
  | .scalar n => [n.val]
  | _ => []

/-- The scalars that an instruction reads or writes. -/
def formScalars (i : Form) : List Nat :=
  match i with
  | .v op f =>
    let u := (vrule op).uses f
    let rd (u : Use) (x : VName) : List Nat := if useReads u then vScalars x else []
    rd u.1 f.a ++ rd u.2.1 f.b ++ rd u.2.2 f.c
  | .s op f =>
    let r := srule op
    let rd (used : Bool) (x : SName) : List Nat := if used then sScalars x else []
    (if r.d f then [f.d.val] else []) ++ rd (r.a f) f.a ++ rd (r.b f) f.b ++ rd (r.c f) f.c
  | .smovi f => [f.d.val]
  | .m _ f => f.base.val :: (vScalars f.ofs ++ vScalars f.data)
  | .bi _ f => [f.t.val]
  | .e op f =>
    let r := erule op
    (if r.p f then [f.p.val] else []) ++ (if r.q then [f.q.val] else []) ++ if op = 0x121 ∨ op = 0x122 then vScalars f.an else []
  | .t op f =>
    let r := trule op
    (if r.d f then [f.d.val] else []) ++ (if r.a f then [f.a.val] else []) ++ if r.b f then [f.b.val] else []
  | .plop _ | .b .. | .event => []

/-- The guards of an instruction. -/
def formGuards (i : Form) : Guard × Guard :=
  match i with
  | .v _ f => (f.g1, f.g2)
  | .plop f => (f.g1, f.g2)
  | .s _ f => (f.g1, f.g2)
  | .smovi f => (f.g1, f.g2)
  | .m _ f => (f.g1, f.g2)
  | .b _ f => (f.g1, f.g2)
  | .bi _ f => (f.g1, f.g2)
  | .e _ f => (f.g1, f.g2)
  | .t _ f => (f.g1, f.g2)
  | .event => (Guard.always, Guard.always)

/-- E of an instruction in the issuing group (R63). -/
def Ctx.execOf (c : Ctx) (i : Form) : LaneMask := c.g.exec (formGuards i).1 (formGuards i).2

/-- What a word's name supplies in a lane. -/
def Group.wordAt (g : Group) (l : Fin 96) : RegWord → Val
  | .age n => (g.lane l).act.age g.coilD n
  | .frame n => (g.lane l).act.fr n

/-- The value is still to arrive. -/
def Val.waits : Val → Bool
  | .pend .. => true
  | _ => false

/-- A value that an instruction reads, or a slot or scalar that it writes, is still to arrive (R156); the mask words count
as read by every instruction. -/
def Ctx.opHeld (c : Ctx) (i : Form) (w : Nat) : Bool :=
  let E := c.execOf i
  let (dst, M) := frameDest i E
  (c.g.spend.any fun p => decide (61 ≤ p.1) || (decide (E ≠ 0) && (formScalars i).contains p.1)) ||
    (lanesOf E).any fun l => (c.laneReads i w l.val).any (fun r => (c.g.wordAt l r).waits) ||
      (inMask M l.val && dst.any fun r => (c.g.wordAt l r).waits)

/-- The requests whose values an instruction waits for: of scalars, then of lanes' words (R157). -/
def Ctx.heldBy (c : Ctx) (i : Form) (w : Nat) : List Nat :=
  let E := c.execOf i
  let (dst, M) := frameDest i E
  let id (l : Fin 96) (r : RegWord) : Option Nat := match c.g.wordAt l r with
    | .pend id _ => some id
    | _ => none
  ((c.g.spend.filter fun p => decide (61 ≤ p.1) || (decide (E ≠ 0) && (formScalars i).contains p.1)).map (·.2)) ++
    (lanesOf E).flatMap (fun l => (c.laneReads i w l.val).filterMap (id l)) ++
    (lanesOf M).flatMap fun l => dst.filterMap (id l)

/-! ## Ports (R147, R162) -/

/-- The opcodes of the special-function pipe. -/
def sfuOps : List Nat := [0x08A, 0x08B, 0x08E, 0x08F, 0x090, 0x091, 0x092]

/-- The shared port of an instruction with this mask: special functions 0, scalar 1, memory 2, engine 3. One of the
special-function or memory pipe whose mask words are all zero occupies no pipe (R162), and so asks for none. -/
def portOf (i : Form) (m : LaneMask) : Option Nat :=
  match i with
  | .v op _ => if sfuOps.contains op ∧ m ≠ 0 then some 0 else none
  | .s .. | .smovi .. => some 1
  | .m .. => if m ≠ 0 then some 2 else none
  | .e .. | .t .. => some 3
  | _ => none

/-- An instruction with this mask occupies its slot's vector pipe (R147, R162). -/
def onPipe (i : Form) (m : LaneMask) : Bool :=
  match i with
  | .v op _ => !sfuOps.contains op && m != 0
  | .plop _ => m != 0
  | _ => false

/-- The clocks for which an instruction with this mask holds its pipe or port; one clock for an empty mask. -/
def occupancy (i : Form) (m : LaneMask) : Nat :=
  let n := (beatsOf m).length
  max 1 (match i with
    | .v op _ => if sfuOps.contains op then 4 * n else if op = 0x08C ∨ op = 0x08D then 6 * n else n
    | .plop _ => n
    | .m op _ => if op = 0x102 ∨ op = 0x103 ∨ op = 0x106 then 1 else n
    | _ => 1)

/-- The beats that an instruction with this mask counts: one for each nonzero mask word of the vector pipe, the
special-function pipe or the memory pipe (R162). -/
def beatCount (i : Form) (m : LaneMask) : Nat :=
  match i with
  | .v .. | .plop _ | .m .. => (beatsOf m).length
  | _ => 0

/-! ## What the register cache and the zero flags see (R160, R161) -/

/-- What an instruction's sources do, one source word of one lane at a time: read from the cache, read from their bank, or
suppressed there by a zero flag (the unit is the model's, DESIGN CHOICE, assumption 65). -/
def Ctx.regReads (c : Ctx) (i : Form) (w : Nat) : Nat × Nat × Nat :=
  (lanesOf (c.execOf i)).foldl (fun r l => (c.laneReads i w l.val).foldl (fun r x =>
    let hit := match x with
      | .age n => c.g.caches (c.g.lane l).act ((c.g.lane l).act.index c.g.coilD n)
      | .frame _ => false
    if hit then (r.1 + 1, r.2.1, r.2.2)
    else (r.1, r.2.1 + 1, r.2.2 + if c.g.wordAt l x = .word 0 then 1 else 0)) r) (0, 0, 0)

/-- The banks of an instruction's line reads, one entry a read: a beat reads a line of each slot row that some lane of E in it
names, but what the register cache holds and zero flags suppress (R158 to R161). -/
def Ctx.bankReads (c : Ctx) (i : Form) (w : Nat) : List Nat :=
  let row (l : Fin 96) : RegWord → Option Nat
    | .age n =>
      let k := (c.g.lane l).act.index c.g.coilD n
      if c.g.caches (c.g.lane l).act k then none else some (c.g.base + k)
    | .frame n => some (c.g.base + c.g.coilD + n)
  let reads := (lanesOf (c.execOf i)).foldl (fun t l => (c.laneReads i w l.val).foldl (fun (p : List (Nat × Nat × Nat) × Nat) x =>
    (match (if c.g.wordAt l x = .word 0 then none else row l x) with
      | some r => let e := (l.val / 32, p.2, r)
                  if p.1.contains e then p.1 else e :: p.1
      | none => p.1, p.2 + 1)) (t, 0) |>.1) []
  reads.map fun e => (e.2.2 ^^^ c.slot) % 16

/-- Zero words that an issue writes to frame slots. -/
def Ctx.zeroFrames (c : Ctx) (i : Form) (after : Group) : Nat :=
  let (dst, M) := frameDest i (c.execOf i)
  (lanesOf M).foldl (fun n l => n + (dst.filter fun r => after.wordAt l r == .word 0).length) 0

/-- Zero words among the pushes that the cache gives up between two forms of a group, those of the later form that it never
comes to hold among them. -/
def Group.evicted (old new : Group) : Nat :=
  old.zeroPushes old.cacheEdge (min new.cacheEdge old.pushSeq) + new.zeroPushes old.pushSeq new.cacheEdge

end Sys2Proof.Machine
end

