-- ==== Sys2Proof/Machine/Ops.lean ====
section
/-! DEFINITION. What instructions share: how an instruction ends (next slot, fault, hold), timelines (R324, R325), fetching
a bundle (R47, R48, R143), taking an exception (R402) and returning from it (R409), and the first steps of leaving (R405,
R422). -/

namespace Sys2Proof.Machine

/-! ## How an instruction ends -/

/-- A way for an instruction not to complete as usual: a precise fault (no effect; `faultOpen` where the spec names no
detail address), a hold (the group parks and issues it again), a stall (a port or a queue is busy: nothing happens), or an end of its own (the state as it is). -/
inductive Trap where
  | fault (code sub : Nat) (addr : DWord) (lanes : LaneMask)
  | faultOpen (code sub : Nat) (lanes : LaneMask)
  | hold (w : WaitRec) (r : Resume)
  | stall
  | out (s : State)
deriving Repr

/-- The next valid slot after slot n of a bundle (R49). -/
def nextValid (sv : BitVec 7) (n : Nat) : Option Nat :=
  (List.range 7).findSome? fun i => if n ≤ i ∧ sv.getLsbD i then some (i + 1) else none

/-- The PC after a slot (R49); none past the last bundle of the lower half (R145). -/
def PC.next (sv : BitVec 7) (pc : PC) : Option PC :=
  match nextValid sv pc.slot with
  | some n => some { pc with slot := n }
  | none =>
    let b := pc.bundle + 64
    if b.extractLsb' 56 8 ≠ (0 : BitVec 8) then none else some { bundle := b, slot := 1 }

/-- The slot after an instruction, to which RET, TRAP, BPT and TRET.skip resume: where it is invalid or does not exist, the
next bundle (R49). -/
def PC.after (sv : BitVec 7) (pc : PC) : PC :=
  if pc.slot < 7 ∧ sv.getLsbD pc.slot then { pc with slot := pc.slot + 1 } else ⟨pc.bundle + 64, 1⟩

/-- A PC as a record writes it (R400). -/
def PC.word (pc : PC) : DWord := pc.bundle ||| BitVec.ofNat 64 pc.slot

/-- Count n events of a kind for a function on a core (R413); a halted function's counters stand still (R431). -/
def State.count (s : State) (core vf ev n : Nat) : State :=
  if (s.core core).ctrs.any (fun p => p.1 / 8 == vf && p.2.en && p.2.event == ev) && (s.vf vf).pstate != .halted then
    s.modCore core fun k => { k with ctrs := k.ctrs.map fun p =>
      if p.1 / 8 = vf ∧ p.2.en ∧ p.2.event = ev then (p.1, { p.2 with count := p.2.count + BitVec.ofNat 64 n }) else p }
  else s

def satInc16 (x : BitVec 16) : BitVec 16 := if x = 0xFFFF then x else x + 1

/-! ## The baton (R353) -/

/-- Pass the baton to the head of the FIFO and invalidate the latch. -/
def Engine.passBaton (e : Engine) : Engine := { e with baton := e.fifo.head?, fifo := e.fifo.tail, latch := none }

/-- Give up the baton if this group slot holds it. -/
def State.dropBaton (s : State) (core slot : Nat) : State :=
  s.modCore core fun k => if k.eng.baton = some slot then { k with eng := k.eng.passBaton } else k

/-- The active slot that holds a group slot. -/
def Core.activeOf (k : Core) (slot : Nat) : Option Nat := (List.range 8).find? fun i => k.active[i]! == some slot

/-- The register cache of a group that is swapped out or stops is written back (R161), and what its operand collector holds is
given up. -/
def State.writeBack (s : State) (core slot : Nat) : State :=
  match s.group? core slot with
  | none => s
  | some g => (s.setGroup core slot { g with cacheFloor := g.pushSeq, bankAt := none }).count core g.vf 5
      (g.zeroPushes g.cacheEdge g.pushSeq)

/-- A group leaves the active set; a slot it held is free (R494). -/
def State.leaveActive (s : State) (core slot : Nat) : State :=
  s.modCore core fun k =>
    { k with active := k.active.map fun a => if a = some slot then none else a
             swaps := k.swaps.filter fun w => w.2.1 != slot }

/-- A group stops (R375, R416): it gives up the baton or its place in the FIFO, to rejoin when it resumes, and leaves the
active set. -/
def State.standDown (s : State) (core slot : Nat) : State :=
  let s := s.writeBack core slot
  let e := (s.core core).eng
  let had := e.baton == some slot || e.fifo.contains slot
  let s := if had then s.modGroup core slot fun g => { g with rejoin := true } else s
  let s := s.modCore core fun k => { k with eng := { k.eng with fifo := k.eng.fifo.filter (· != slot) } }
  (s.dropBaton core slot).leaveActive core slot

/-- A group halts where it is, under a live set. -/
def State.haltGroup (s : State) (core slot : Nat) (live : LiveSet) : State :=
  let s := s.standDown core slot
  let (n, s) := s.newId
  s.modGroup core slot fun g => { g with gstate := .halted, live := live, haltSeq := n }

/-- It joins the FIFO's tail again, once, when no stop holds it any more; a free baton is its own at once. -/
def State.standUp (s : State) (core slot : Nat) : State :=
  match s.group? core slot with
  | none => s
  | some g =>
    let e := (s.core core).eng
    if !g.rejoin || g.dstop || g.gstate != .running || e.baton == some slot || e.fifo.contains slot then s
    else s.modCore core fun k =>
      { k with eng := if e.baton.isNone ∧ e.fifo.isEmpty then { e with baton := some slot }
                      else { e with fifo := e.fifo ++ [slot] } }

/-- A debug stop (R447): like a pre-emption stop, the baton is released and the latch invalidated. The active slot that the
group leaves remembers it for the samples of its stop (R451). -/
def State.debugStop (s : State) (core slot : Nat) : State :=
  let a := (s.core core).activeOf slot
  let s := (s.standDown core slot).modGroup core slot fun g => { g with dstop := true, dstep := false }
  match a with
  | some a => s.modCore core fun k =>
      { k with left := (k.left.map fun x => if x = some slot then none else x).set! a (some slot) }
  | none => s

/-- A stepped group that has issued stops, once it waits for nothing (R448); `dstep` beside `dstop` keeps that a step has
completed (R451). -/
def State.stepDone (s : State) (core slot : Nat) : State :=
  match s.group? core slot with
  | some g =>
    if g.dstep && !g.dstop && g.resume == .none && g.gstate == .running then
      (s.debugStop core slot).modGroup core slot fun g => { g with dstep := true }
    else s
  | none => s

/-- Words of a record, slots of the ring and the address of a slot of a data queue (R111). -/
def dqCfgOfs (q : Nat) : Nat := 0x2008 + 0x20 * q
def State.dqCfg (s : State) (vf q : Nat) : DWord := s.vr vf (dqCfgOfs q)
def State.dqWords (s : State) (vf q : Nat) : Nat := fld (s.dqCfg vf q) 1 3 + 1
def State.dqSlots (s : State) (vf q : Nat) : Nat := 2 ^ fld (s.dqCfg vf q) 4 5
def State.slotAddr (s : State) (vf q i : Nat) : DWord :=
  BitVec.ofNat 64 (fld (s.vr vf (0x2000 + 0x20 * q)) 6 51 * 64 + 32 * (i % s.dqSlots vf q))

/-- The record size of the queue that an ENQD names (R120). -/
def State.enqdWords (s : State) (c : Ctx) (i : Form) : Nat :=
  match i with
  | .t 0x181 f => s.dqWords c.g.vf (c.g.sreg f.a.val).toNat
  | _ => 0

/-- A value that the issuing group's instruction needs is still to arrive (R156). -/
def State.opHeld (s : State) (c : Ctx) (i : Form) : Bool := c.opHeld i (s.enqdWords c i)

/-! ## Operand collectors (R158, R159) -/

/-- The clocks after which the last of some line reads, by bank, is queued: a read enters its bank's queue behind what is there and
waits only while 15 stand before it. -/
def State.bankDelay (s : State) (core : Nat) (rs : List Nat) : Nat :=
  rs.foldl (fun m b => max m ((s.core core).banks.toList.getD b 0 - s.clock + rs.count b - 15)) 0

/-- The clocks for which banks still hold an instruction at issue: since its sources asked for them, or if they asked now. -/
def State.bankWait (s : State) (c : Ctx) (i : Form) : Nat :=
  match c.g.bankAt.filter fun p => p.1 == c.g.pc with
  | some p => p.2 - s.clock
  | none => s.bankDelay c.core (c.bankReads i (s.enqdWords c i))

/-- The sources of an instruction that stands at issue ask their banks, once (DESIGN CHOICE, assumption 96). -/
def State.askBanks (s : State) (c : Ctx) (i : Form) : State :=
  if c.g.bankAt.any fun p => p.1 == c.g.pc then s
  else
    let rs := c.bankReads i (s.enqdWords c i)
    let k := s.core c.core
    let banks := rs.foldl (fun (v : Vector Nat 16) b => v.set! b (max (v.toList.getD b 0) s.clock + 1)) k.banks
    (s.modGroup c.core c.slot fun g => { g with bankAt := some (g.pc, s.clock + s.bankDelay c.core rs) }).modCore c.core
      fun k => { k with banks := banks }

/-! ## Issue accounting (R147, R152, R160 to R162, R413, R478) -/

/-- Count an instruction's issue: ISSUE, BEATS and what its sources read. -/
def State.countIssue (s : State) (c : Ctx) (i : Form) : State :=
  if (s.core c.core).ctrs.isEmpty then s
  else
    let (hit, miss, zr) := c.regReads i (s.enqdWords c i)
    let s := (s.count c.core c.g.vf 1 1).count c.core c.g.vf 2 (beatCount i c.g.mask)
    ((s.count c.core c.g.vf 6 hit).count c.core c.g.vf 7 miss).count c.core c.g.vf 4 zr

/-- Count the writes that its results bring: zero words of frame slots, and pushes that leave the cache. -/
def State.countWrites (s : State) (c : Ctx) (i : Form) (after : Group) : State :=
  if (s.core c.core).ctrs.isEmpty then s else s.count c.core c.g.vf 5 (c.zeroFrames i after + c.g.evicted after)

/-- An instruction takes its pipe or port for its clocks (R19, R147). -/
def State.takePipe (s : State) (c : Ctx) (i : Form) : State :=
  let till := s.clock + occupancy i c.g.mask
  match portOf i c.g.mask, onPipe i c.g.mask, (s.core c.core).activeOf c.slot with
  | some p, _, _ => s.modCore c.core fun k => { k with portFree := k.portFree.set! p till }
  | none, true, some a => s.modCore c.core fun k => { k with pipeFree := k.pipeFree.set! a till }
  | _, _, _ => s

/-- An instruction issues: its progress, its pipe or port, its sources' reads and its count, once whether or not a page fault
holds it then (R478). -/
def State.issues (s : State) (c : Ctx) (i : Form) : State :=
  if c.g.counted then s
  else
    (((s.askBanks c i).countIssue c i).takePipe c i).modGroup c.core c.slot fun g =>
      { g with progress := satInc16 g.progress, busy := s.clock + occupancy i c.g.mask }

/-- What issuing an instruction changes beside its own effect: what `issues` says, the numbers of its pushes, a debug step (R147,
R152, R155, R413, R448). -/
def State.issued (s : State) (c : Ctx) (i : Form) : State :=
  match s.group? c.core c.slot with
  | none => s
  | some g =>
    let g := { g.stampFrom c.g i with lastPC := c.g.pc, lostTo := none, bpPass := none }
    let s := ((s.setGroup c.core c.slot g).countWrites c i g).issues c i
    (s.modGroup c.core c.slot fun g => { g with bankAt := none, counted := false }).stepDone c.core c.slot

/-- An instruction that a page fault of its access holds from now on has issued (R478). -/
def State.heldIssue (s : State) (c : Ctx) (i : Form) : State :=
  if c.g.resume != .replay && (s.group? c.core c.slot).any fun g => g.resume == .replay then
    (s.issues c i).modGroup c.core c.slot fun g => { g with lostTo := none, bankAt := none, counted := true }
  else s

/-! ## Timelines (R324 to R326) -/

/-- K moves over every leading batch with no command left. -/
def Timeline.advance : Nat → List (Nat × List Nat) → Nat × List (Nat × List Nat)
  | k, [] => (k, [])
  | k, (n, cs) :: r => if cs.isEmpty then Timeline.advance n r else (k, (n, cs) :: r)

def Timeline.settle (t : Timeline) : Timeline :=
  let (k, b) := Timeline.advance t.k t.batches
  { t with k := k, batches := b }

/-- Commit the open batch; an implicit commit needs a command in it. -/
def Timeline.commit (t : Timeline) : Timeline :=
  Timeline.settle { t with c := t.c + 1, batches := t.batches ++ [(t.c + 1, t.openBatch)], openBatch := [], openCount := 0, named := [] }
def Timeline.implicit (t : Timeline) : Timeline := if t.openCount = 0 then t else t.commit

/-- A command joins the open batch. -/
def Timeline.join (t : Timeline) (id : Nat) : Timeline :=
  { t with openBatch := t.openBatch ++ [id], openCount := t.openCount + 1 }

/-- A command completes or is abandoned. -/
def Timeline.finish (t : Timeline) (id : Nat) : Timeline :=
  Timeline.settle { t with openBatch := t.openBatch.filter (· != id),
                           batches := t.batches.map fun b => (b.1, b.2.filter (· != id)) }

def Timeline.idle (t : Timeline) : Bool := t.k == t.c && t.openBatch.isEmpty

/-- A command's second half of its name as word 2 of R400. -/
def CmdSeq.word (q : CmdSeq) : DWord := BitVec.ofNat 64 (q.tl + 2 + q.idx * 2 ^ 8 + q.batch * 2 ^ 24)

def Group.tl (g : Group) (i : Nat) : Timeline := if i = 0 then g.t0 else g.t1
def Group.setTl (g : Group) (i : Nat) (t : Timeline) : Group := if i = 0 then { g with t0 := t } else { g with t1 := t }

/-! ## Fetch (R47, R48, R143, R144) -/

inductive Fetched where
  | words (ws : List DWord) (s : State)
  | miss (stage2 : Bool) (addr level : Nat)
  | bad (code sub : Nat)
  | wait
deriving Repr

/-- The fetch has to wait for a flip of its page (R292). -/
def Fetched.held (x : Fetched) : Bool := match x with
  | .wait => true
  | _ => false

def icSet (va : DWord) : Nat := va.toNat / 64 % 256

/-- Put a line into the instruction cache, most recent first, least recent of its set out (R143). -/
def icFill (l : List IcLine) (x : IcLine) : List IcLine :=
  let rest := l.filter fun y => !(y.vf == x.vf && y.job == x.job && y.va == x.va)
  let inSet := rest.filter fun y => icSet y.va == icSet x.va
  let rest := if inSet.length < 8 then rest
    else match inSet.getLast? with
      | some v => rest.filter fun y => !(y.vf == v.vf && y.job == v.job && y.va == v.va)
      | none => rest
  x :: rest

def Core.icFind (k : Core) (vf job : Nat) (va : DWord) : Option IcLine :=
  k.icache.find? fun y => y.vf == vf && y.job == job && y.va == va

def bundleWords (b : List Byte) : List DWord :=
  (List.range 8).map fun i => BitVec.ofNat 64 (leNat ((b.drop (8 * i)).take 8))

/-- Read a bundle from memory into the instruction cache (R48, R143), once a flip of its page is over (R292); it allocates
nothing in L2 (R483, DEDUCED, assumption 64). -/
def State.icRead (s : State) (core : Nat) (g : Group) (va : DWord) : Fetched :=
  let a := va.toNat % 2 ^ 57
  match s.xlate core g.vf a false with
  | .fault st x l => .miss st x l
  | .ok t =>
    let pa := Xlat.paOf t a
    if !inMap pa then .bad fcAddr 3
    else if !s.xbar core g.part pa false then .bad fcProt 4
    else if !t.ex then .bad fcProt 3
    else if s.flipHeld pa then .wait
    else if s.poisoned (.phys pa) 64 then .bad fcProt 6
    else
      let ws := bundleWords (s.mem.bytes pa 64)
      let s := (s.settleFlip pa).touch core g.vf a false 0
      let s := if s.l2Caches pa t.ty then s.l2Access core g.part g.vf pa hintNal false else s
      .words ws (s.modCore core fun k => { k with icache := icFill k.icache ⟨g.vf, g.job, va, ws⟩, fetchAt := s.clock + 1 })

/-- A bundle by way of the instruction cache (R143). -/
def State.fetchBundle (s : State) (core : Nat) (g : Group) (va : DWord) : Fetched :=
  match (s.core core).icFind g.vf g.job va with
  | some l => .words l.words s
  | none => s.icRead core g va

/-- Page-fault details of a group's access to an address. -/
def Ctx.miss (c : Ctx) (acc : Nat) (pc va : DWord) (stage2 : Bool) (addr level : Nat) : PageMiss :=
  { va := va, stage2 := stage2, addr := addr, level := level, acc := acc, ctx := c.g.vf, part := c.g.part, pc := pc,
    entryB := c.g.entryB, cmd := 0 }

/-- Park a group on a page fault: its record, wait kind 0x0F, and what remains to be done (R298, R302). -/
def State.parkPage (s : State) (core slot : Nat) (m : PageMiss) (waitPC : DWord) (r : Option Resume) : State :=
  let s := (s.walkMarks core m.ctx m.va.toNat).pageFault m
  s.modGroup core slot fun g =>
    { g with wait := { kind := 0x0F, sub := 0, obj := m.va,
                       val := BitVec.ofNat 64 (s.fqSeqOf m.fn m.key) },
             waitPC := waitPC, waitDone := false, resume := r.getD .replay, miss := some (m.fn, m.key) }

/-- A page fault of the instruction being issued: it is held and issues again after the replay. -/
def Ctx.pageTrap (c : Ctx) (s : State) (acc : Nat) (va : DWord) (stage2 : Bool) (addr level : Nat) : Trap :=
  .out (s.parkPage c.core c.slot (c.miss acc c.g.pc.word va stage2 addr level) c.g.pc.word none)

/-! ## Leaving (R405, R422): the steps made at once -/

/-- Every other member of a workgroup or cluster set that barriers await: started and not leaving (R340). -/
def State.wgGroups (s : State) (core wg : Nat) : List (Nat × Nat) :=
  (s.core core).groups.filterMap fun p =>
    if p.2.wg = wg ∧ p.2.gstate ≠ .retiring then some (core, p.1) else none

def State.setMembers (s : State) (core wg : Nat) : List (Nat × Nat) :=
  match s.wg? core wg with
  | none => [(core, wg)]
  | some w => match nfind s.clsets w.clset with
    | some cs => cs.members
    | none => [(core, wg)]

/-- A completed barrier phase resets the progress counts of its groups (R152, R341). -/
def State.resetProgress (s : State) (gs : List (Nat × Nat)) : State :=
  gs.foldl (fun s p => s.modGroup p.1 p.2 fun g => { g with progress := 0 }) s

/-- Complete the phase of a workgroup barrier if every awaited group has arrived (R340). -/
def State.settleBar (s : State) (core wg b : Nat) : State :=
  match s.wg? core wg with
  | none => s
  | some w =>
    let bar := nget {} w.barriers b
    let need := s.wgGroups core wg
    if bar.arrived.isEmpty || !(need.all fun p => bar.arrived.contains p) then s
    else (s.setWg core wg { w with barriers := nset {} w.barriers b { phase := bar.phase + 1, arrived := [] } }).resetProgress
      need

/-- The same for a cluster barrier. -/
def State.settleBarc (s : State) (core wg b : Nat) : State :=
  match s.wg? core wg with
  | none => s
  | some w => match nfind s.clsets w.clset with
    | none => s
    | some cs =>
      let bar := nget {} cs.barriers b
      let need := cs.members.flatMap fun p => s.wgGroups p.1 p.2
      if bar.arrived.isEmpty || !(need.all fun p => bar.arrived.contains p) then s
      else
        let cs := { cs with barriers := nset {} cs.barriers b { phase := bar.phase + 1, arrived := [] } }
        { s with clsets := nins s.clsets w.clset cs }.resetProgress need

/-- A group that leaves is awaited by no barrier (R340, R423). -/
def State.leaveBarriers (s : State) (core slot wg : Nat) : State :=
  let p := (core, slot)
  let drop (m : NMap Barrier) : NMap Barrier :=
    m.foldl (fun m e => nset {} m e.1 { e.2 with arrived := e.2.arrived.filter (· != p) }) m
  let s := s.modWg core wg fun w => { w with barriers := drop w.barriers }
  let s := match s.wg? core wg with
    | none => s
    | some w => match nfind s.clsets w.clset with
      | none => s
      | some cs => { s with clsets := nins s.clsets w.clset { cs with barriers := drop cs.barriers } }
  let s := (List.range 16).foldl (fun s b => s.settleBar core wg b) s
  (List.range 4).foldl (fun s b => s.settleBarc core wg b) s

/-- Leave every BTAKE and TALLOC queue, releasing the baton (R353, R357). -/
def State.leaveEngine (s : State) (core slot : Nat) : State :=
  let s := s.dropBaton core slot
  s.modCore core fun k => { k with eng := { k.eng with
    fifo := k.eng.fifo.filter (· != slot),
    tiles := k.eng.tiles.map fun t => { t with waiters := t.waiters.filter (· != slot) } } }

/-- Steps 1 and 2 of R422 (steps 2 and 3 of R405): commit, leave the engine's queues, wait with kind 0x03; barriers no
longer await the group. -/
def State.beginLeave (s : State) (core slot : Nat) : State :=
  let s := s.modGroup core slot fun g =>
    { g with t0 := g.t0.implicit, t1 := g.t1.implicit, gstate := .retiring, wait := { kind := 3 }, waitDone := false,
             waitPC := g.pc.word, resume := .retire, dstop := false, dstep := false }
  let s := s.leaveEngine core slot
  match s.group? core slot with
  | some g => s.leaveBarriers core slot g.wg
  | none => s

/-- Rendezvous slots in which a terminated group waits become empty again (R270); reservations of its data queues are
settled when it is released. -/
def State.leaveSlots (s : State) (core slot wg : Nat) : State :=
  s.modWg core wg fun w =>
    { w with xslots := w.xslots.filter fun e => e.2 != .sending slot && e.2 != .receiving slot }

/-- A slot is free once it and every earlier one is taken (R111), its record written. -/
def DQueue.free : Nat → DQueue → DQueue
  | 0, d => d
  | n + 1, d =>
    if d.taken.contains d.freed && d.published.contains d.freed then
      DQueue.free n { d with freed := d.freed + 1, taken := d.taken.filter (· != d.freed),
                             published := d.published.filter (· != d.freed), zeroed := d.zeroed.filter (· != d.freed) }
    else d

/-- Slots are published, as zero words where their producer was terminated (R111, R113). -/
def DQueue.publishSlots (d : DQueue) (base n : Nat) (zero : Bool) : DQueue :=
  let l := (List.range n).map (base + ·)
  let d := { d with published := d.published ++ l, zeroed := if zero then d.zeroed ++ l else d.zeroed }
  DQueue.free d.taken.length d

/-- Slots are taken. -/
def DQueue.takeSlots (d : DQueue) (base n : Nat) : DQueue :=
  let d := { d with taken := d.taken ++ (List.range n).map (base + ·) }
  DQueue.free d.taken.length d

def State.modDq (s : State) (vf q : Nat) (f : DQueue → DQueue) : State :=
  s.modVf vf fun v => { v with dqs := nset {} v.dqs q (f (nget {} v.dqs q)) }

/-- Slots are published as records of zero words (R113): written through the function's translation; a slot that cannot be
written so only reads as zero words (DEDUCED, assumption 19). -/
def State.publishZero (s : State) (vf q base n : Nat) : State :=
  (List.range n).foldl (fun s i =>
    if s.fnHeld vf (s.slotAddr vf q (base + i)).toNat then s.delay vf (.zeros q (base + i))
    else match s.fnWrite vf (s.slotAddr vf q (base + i)).toNat (List.replicate (4 * s.dqWords vf q) 0) with
    | some s => s.modDq vf q fun d => d.publishSlots (base + i) 1 false
    | none => s.modDq vf q fun d => d.publishSlots (base + i) 1 true) s

/-- A data-queue reservation of a terminated group (R113): published as zero words, or taken. -/
def State.settleReservation (s : State) (g : Group) : State :=
  match g.resume with
  | .publish q base recs => s.publishZero g.vf q base recs.length
  | .deq q base n _ _ => s.modDq g.vf q fun d => d.takeSlots base n
  | _ => s

/-- Terminate a group (R405, steps 1 to 3 and the records): it leaves every path, commits, leaves the queues; its
record goes to the event queue, and the queued engine faults after it. -/
def State.terminate (s : State) (core slot : Nat) (r : FaultRec) : State :=
  match s.group? core slot with
  | none => s
  | some g =>
    let r := { r with term := true }
    let s := eventFault (s.count core g.vf 0x0F 1) r
    let s := g.csr.epend.foldl eventFault s
    let s := s.modJob g.job fun j => { j with faultCode := some (j.faultCode.getD r.code) }
    let s := (s.settleReservation g).leaveSlots core slot g.wg
    let s := s.modGroup core slot fun g =>
      { (g.setMask 0) with members := 0, stack := [], rets := [], term := some r,
                           csr := { g.csr with epend := [] }, completing := false }
    s.beginLeave core slot

/-! ## Taking an exception (R399 to R404) -/

/-- The requests of a group for memory: all but the frame slots that an ADRV still has to fill. -/
def Group.loads (g : Group) : List PendReq := g.pends.filter fun p => p.dest != .tile

/-- The HMASK bit that routes a fault code to a handler (R399). -/
def handlerBit (code : Nat) : Option Nat :=
  if decide (0x01 ≤ code) && decide (code ≤ 0x0C) then some 0
  else if [0x10, 0x11, 0x13, 0x14].contains code then some 1
  else if decide (0x20 ≤ code) && decide (code ≤ 0x28) then some 2
  else if decide (0x30 ≤ code) && decide (code ≤ 0x34) then some 3
  else match code with
    | 0x40 => some 4
    | 0x50 | 0x51 | 0x53 => some 5
    | 0x60 => some 6
    | _ => none

/-- A handler's activation (R402): base after the current one, empty coil and frame; what it interrupts is saved. -/
def Group.enterHandler (g : Group) (r : FaultRec) (resume : PC) (hvec : DWord) : Group :=
  { g with
    rets := .handler g.entryB g.base g.frameSize g.depth g.members g.mask (g.lanes.map (·.preds)) (g.lanes.map (·.act))
              g.completing :: g.rets
    csr := { g.csr with fault := r, hrpc := resume.word, inHandler := true, mark := g.stack.length, hdepth := g.depth }
    lanes := g.lanes.map fun l => { l with act := LaneAct.fresh }
    base := g.base + g.coilD + g.frameSize
    frameSize := 0
    entryB := hvec
    completing := false
    pc := ⟨hvec, 1⟩
    wait := {}, resume := .none, waitDone := false, lostTo := none, bankAt := none, bpPass := none }

/-- Deliver a fault to the group's handler or terminate the group (R402); `resume` is the PC to resume at. -/
def State.deliver (s : State) (core slot : Nat) (r : FaultRec) (resume : PC) : State :=
  match (s.modGroup core slot fun g => { g with counted := false }).group? core slot with
  | none => s
  | some g =>
    let s := s.setGroup core slot g
    let wrap (sub : Nat) (inh : Bool) : FaultRec :=
      { r with code := 0x52, sub := sub, inh := inh, inner := r.code, isub := r.sub, imp := false }
    if g.csr.inHandler then
      if r.code = 0x53 then s.terminate core slot { r with inh := true } else s.terminate core slot (wrap 3 true)
    else
      let enabled := match handlerBit r.code with
        | some b => g.csr.hmask.getLsbD b
        | none => false
      let hvec := g.csr.hvec
      if hvec = 0 ∨ !enabled then s.terminate core slot r
      else if hvec.toNat % 64 ≠ 0 ∨ 2 ^ 56 ≤ hvec.toNat then s.terminate core slot (wrap 1 false)
      else match s.fetchBundle core g hvec with
        | .miss st a l =>
          let m : PageMiss := { va := hvec, stage2 := st, addr := a, level := l, acc := 2, ctx := g.vf, part := g.part, pc := hvec,
                                entryB := g.entryB, cmd := 0 }
          s.parkPage core slot m g.pc.word (some (.deliver r resume))
        | .bad .. => s.terminate core slot (wrap 1 false)
        | .wait => s.modGroup core slot fun g =>
            { g with wait := {}, resume := .deliver r resume, waitPC := g.pc.word, waitDone := true, miss := none }
        | .words ws s' =>
          if !hdrEntry (ws.headD 0) then s.terminate core slot (wrap 1 false)
          else if g.cap < g.base + g.coilD + g.frameSize + g.coilD then s'.terminate core slot (wrap 2 false)
          else
            (s'.count core g.vf 0x0F 1).modGroup core slot fun g => g.enterHandler r resume hvec

/-- The record of a fault raised by the issuing group (R400). -/
def Ctx.record (c : Ctx) (s : State) (code sub : Nat) (addr : DWord) (lanes : LaneMask) : FaultRec :=
  { code := code, sub := sub, imp := code == 0x40, pc := c.g.pc.word, addr := addr, lanes := lanes, vf := c.g.vf,
    part := c.g.part, stamp := s.ref, card := c.card, inh := false, entryB := c.g.entryB }

/-- A precise fault of the issuing group: its resume PC is the faulting instruction (R402). A debug step is over
then (R448). -/
def State.precise (s : State) (c : Ctx) (code sub : Nat) (addr : DWord) (lanes : LaneMask) : State :=
  (s.deliver c.core c.slot (c.record s code sub addr lanes) c.g.pc).stepDone c.core c.slot

/-- A precise fault for which the spec names no detail address (R400). -/
def State.preciseOpen (s : State) (c : Ctx) (code sub : Nat) (lanes : LaneMask) : State :=
  State.precise { s with fresh := s.fresh + 1 } c code sub (Config.faultDetail s.fresh) lanes

/-- A fault of a group's fetch: its record names the bundle with slot 0 (R47, R50, R145, R400). -/
def State.fetchFault (s : State) (c : Ctx) (code sub : Nat) : State :=
  (State.deliver { s with fresh := s.fresh + 1 } c.core c.slot
    { c.record s code sub (Config.faultDetail s.fresh) c.g.mask with pc := c.g.pc.bundle } c.g.pc).stepDone c.core c.slot

/-- Running past the last bundle of the window faults at the last valid slot executed (R145). -/
def State.pastEnd (s : State) (c : Ctx) : State :=
  let d : Ctx := { c with g := { c.g with pc := c.g.lastPC } }
  (State.deliver { s with fresh := s.fresh + 1 } c.core c.slot
    (d.record s fcLanding 2 (Config.faultDetail s.fresh) c.g.mask) c.g.lastPC).stepDone c.core c.slot

/-- The record of an engine fault (R333, R404); the spec names no detail address for one. -/
def engineRecord (s : State) (sub vf part : Nat) (pc cmd : DWord) (lanes : LaneMask) (card entryB : DWord) : FaultRec :=
  { code := 0x60, sub := sub, pc := pc, cmd := cmd, addr := Config.faultDetail s.fresh, lanes := lanes, vf := vf, part := part,
    stamp := s.ref, card := card, entryB := entryB }

/-- An engine fault is detected: it queues for its group, is counted lost, or goes to the event queue when the group is
leaving or gone (R400, R404, R405, R422). -/
def State.engineFault (s : State) (core slot : Nat) (r : FaultRec) : State :=
  let s := { s with fresh := s.fresh + 1 }
  match s.group? core slot with
  | none => eventFault s r
  | some g =>
    if g.gstate = .retiring then eventFault s r
    else if g.csr.epend.length < 4 then
      s.modGroup core slot fun g => { g with csr := { g.csr with epend := g.csr.epend ++ [r] } }
    else eventFault (s.modGroup core slot fun g => { g with csr := { g.csr with elost := g.csr.elost + 1 } }) r

/-- Leave the handler (R409): free its activation and restore what its entry saved. The record holds the interrupted
program. -/
def Group.leaveHandler (g : Group) (pc : PC) : Group :=
  match g.rets with
  | .handler eb base fs depth members mask preds acts compl :: rets =>
    ({ g with
        rets := rets, base := base, frameSize := fs, depth := depth, entryB := eb, members := members, pc := pc,
        lostTo := none, bankAt := none,
        completing := compl && pc.slot == 1 && (match g.stack.head? with
          | some (.rcv b _ _ _ _ _ _) => b == pc.bundle
          | _ => false),
        lanes := g.lanes.mapFinIdx fun i l h => { l with act := acts[i], preds := preds[i] }
        csr := { g.csr with inHandler := false, fault := {} } }).setMask mask
  | _ => g

/-- The trap of a failed check of R302 at an address; where the translation stood, its walk has been made (R295). -/
def State.failAt (s : State) (c : Ctx) (rank code sub : Nat) (a : DWord) (E : LaneMask) : Trap :=
  if 7 ≤ rank then .out ((s.walkMarks c.core c.g.vf a.toNat).precise c code sub a E) else .fault code sub a E

/-! ## Running an instruction's body -/

/-- What a trap does to the state. -/
def State.trap (s : State) (c : Ctx) : Trap → State
  | .fault code sub addr lanes => s.precise c code sub addr lanes
  | .faultOpen code sub lanes => s.preciseOpen c code sub lanes
  | .hold w r => s.modGroup c.core c.slot fun g =>
      { g with wait := w, resume := r, waitPC := g.pc.word, waitDone := false }
  | .stall => s
  | .out s' => s'

/-- The next state of an instruction whose body answers the state with its effect made, the PC apart: sequential advance
(R49, R145), issue accounting. -/
def instr (i : Form) (body : Ctx → State → Except Trap State) (s : State) : Host.Outcome State Fault Refusal :=
  if s.sys.stopped then .fault .stopped
  else match s.ctx? with
    | none => .refused .noIssuingGroup
    | some c =>
      match body c s with
      | .error t => .next ((s.trap c t).heldIssue c i)
      | .ok s' =>
        match c.g.pc.next c.g.sv with
        | none => .next (s.preciseOpen c fcLanding 2 c.g.mask)
        | some pc => .next ((s'.modGroup c.core c.slot fun g => { g with pc := pc, completing := false }).issued c i)

/-- The same for a body that changes its own group alone. -/
def localInstr (i : Form) (body : Ctx → Except Trap Group) : State → Host.Outcome State Fault Refusal :=
  instr i fun c s => (body c).map fun g => s.setGroup c.core c.slot g

/-- An instruction whose body sets the PC itself. -/
def jumpInstr (i : Form) (body : Ctx → State → Except Trap State) (s : State) : Host.Outcome State Fault Refusal :=
  if s.sys.stopped then .fault .stopped
  else match s.ctx? with
    | none => .refused .noIssuingGroup
    | some c =>
      match body c s with
      | .error t => .next ((s.trap c t).heldIssue c i)
      | .ok s' => .next (s'.issued c i)

/-- The sequential next PC for a body that may need it; past the window it faults (R145). -/
def Ctx.nextPc (c : Ctx) : Except Trap PC :=
  match c.g.pc.next c.g.sv with
  | some pc => .ok pc
  | none => .error (.faultOpen fcLanding 2 c.g.mask)

/-- An event of the part; a module without power takes none (R463). -/
def event (f : State → State) (s : State) : Host.Outcome State Fault Refusal :=
  if s.sys.off then .fault .stopped else .next (f s)

/-- An event of a core, its caches and its engines: nothing happens on a core that stands stopped (R468). -/
def coreEvent (f : State → State) : State → Host.Outcome State Fault Refusal :=
  event fun s => if s.sys.stopped then s else f s

/-- An event of the host's link; a module that presents its identity alone takes none (R466). -/
def hostEvent (f : State → State) : State → Host.Outcome State Fault Refusal :=
  event fun s => if s.sys.identityOnly then s else f s

/-- A fault of the entry's own checks. -/
def raise {α : Type} (code sub : Nat) (addr : DWord) (lanes : LaneMask) : Except Trap α := .error (.fault code sub addr lanes)
/-- The same where the spec names no detail address. -/
def raiseOpen {α : Type} (code sub : Nat) (lanes : LaneMask) : Except Trap α := .error (.faultOpen code sub lanes)

end Sys2Proof.Machine
end

