-- ==== Sys2Proof/Machine/Operands.lean ====
section
/-! DEFINITION. Operand forms: what a vector or scalar name supplies (R78, R79, R81), the range and floor checks (R66,
R80, R172), waiting on pending values (R156) and poison (R302), and the one way in which a vector instruction that works
lane by lane runs. -/

namespace Sys2Proof.Machine

/-! ## Names -/

/-- The value of a special in a lane (R13, R78). -/
def Ctx.special (c : Ctx) (lane : Nat) : Special → Nat
  | .lane => lane
  | .quad => lane / 4
  | .qlane => lane % 4
  | .gid => c.g.gid
  | .wgid => 0
  | .wgn => c.g.wgn
  | .clrank => c.core % 4
  | .core => c.core % 16
  | .die => c.core / 16
  | .chunk => c.g.wgn * 96 + lane

/-- A D8 immediate in a floating format (R28, R79). -/
def immFloat (m : FFmt) (imm : BitVec 8) : Nat := (m.ofVal .rne (d8Decode imm.toNat)).1

/-- imm8 as a 32-bit source of a type (R79). -/
def immWord (t : Ty) (imm : BitVec 8) : Word :=
  match t with
  | .i32 | .n32 | .i64 | .n64 => imm.signExtend 32
  | .f32 => wordOfNat (immFloat fp32 imm)
  | .f16x2 => let h := immFloat fp16 imm
              packElems 16 [h, h]
  | .bf16x2 => let h := immFloat bfp16 imm
               packElems 16 [h, h]
  | .i16x2 | .n16x2 => let h := (imm.signExtend 16).toNat
                       packElems 16 [h, h]
  | .i8x4 | .n8x4 | .d8x4 | .e4m3x4 => packElems 8 [imm.toNat, imm.toNat, imm.toNat, imm.toNat]
  | .f4x8 => packElems 4 (List.replicate 8 imm.toNat)

/-- What a name supplies: a value, a value still to arrive, or poisoned data. -/
inductive Opnd where
  | val (w : DWord)
  | wait (id : Nat)
  | bad (pc : DWord)
deriving DecidableEq, Repr

def Val.opnd : Val → Opnd
  | .word w => .val (w.setWidth 64)
  | .pend id _ => .wait id
  | .poison pc => .bad pc

/-- A pair from its low and high words (R79). -/
def Opnd.join : Opnd → Opnd → Opnd
  | .wait i, _ => .wait i
  | _, .wait i => .wait i
  | .bad p, _ => .bad p
  | _, .bad p => .bad p
  | .val l, .val h => .val (joinPair (lowWord l) (lowWord h))

/-- A scalar register, which a scalar load may still have to write (R155, R234). -/
def Group.sOpnd (g : Group) (n : Nat) : Opnd :=
  match g.spend.find? fun p => p.1 == n with
  | some p => .wait p.2
  | none => match g.spoison.find? fun p => p.1 == n with
    | some p => .bad p.2
    | none => .val (g.sreg n)

/-- The workgroup index %wgid is the workgroup's (R105). -/
def Ctx.specialVal (c : Ctx) (wgid lane : Nat) (x : Special) : Nat := if x = .wgid then wgid else c.special lane x

/-- The word or pair that a vector name supplies in a lane (R79). -/
def Ctx.vsrc (c : Ctx) (wgid : Nat) (t : Ty) (imm : BitVec 8) (pair : Bool) (x : VName) (l : Fin 96) : Opnd :=
  let a := (c.g.lane l).act
  let D := c.g.coilD
  match x with
  | .age n => if pair then ((a.age D (n.val + 2)).opnd).join (a.age D (n.val + 1)).opnd
              else (a.age D (n.val + 1)).opnd
  | .frame n => if pair then (a.fr n.val).opnd.join (a.fr (n.val + 1)).opnd else (a.fr n.val).opnd
  | .konst n => .val (if pair then c.kreg n.val else (lowWord (c.kreg n.val)).setWidth 64)
  | .scalar n => match c.g.sOpnd n.val with
    | .val v => .val (if pair then v else (lowWord v).setWidth 64)
    | o => o
  | .special x => .val (BitVec.ofNat 64 (c.specialVal wgid l.val x))
  | .zero => .val 0
  | .imm => .val (if pair then imm.signExtend 64 else (immWord t imm).setWidth 64)

/-! ## Checks of names (R66, R80, R172) -/

def fcCoilRange : Nat := 0x05
def fcCoilFloor : Nat := 0x06

/-- COIL_RANGE or FRAME_RANGE of one name of n words (R80). -/
def Ctx.nameRange (c : Ctx) (E : LaneMask) (x : VName) (n : Nat) : Except Trap Unit :=
  match x with
  | .age a => if c.g.coilD < a.val + n then raise fcCoilRange 1 (BitVec.ofNat 64 (a.val + n)) E else .ok ()
  | .frame a => if c.g.frameSize < a.val + n then raise fcFrame 4 (BitVec.ofNat 64 (a.val + n - 1)) E else .ok ()
  | _ => .ok ()

/-- COIL_FLOOR of one name of n words, in the lanes of E (R172). Its detail holds the age that the name gives, the youngest of
the n (DESIGN CHOICE, assumption 91). -/
def Ctx.nameFloor (c : Ctx) (E : LaneMask) (x : VName) (n : Nat) : Except Trap Unit :=
  match x with
  | .age a =>
    let bad := lanesWhere E fun l => !(c.g.lane l).act.live (a.val + n)
    if bad = 0 then .ok () else raise fcCoilFloor 1 (BitVec.ofNat 64 (a.val + 1)) bad
  | _ => .ok ()

/-- A mask word that a scalar load has left poisoned is consumed by every instruction that reads the mask (R300), after the
checks that need no mask (R66; DESIGN CHOICE, assumption 91). -/
def Ctx.maskSound (c : Ctx) : Except Trap Unit :=
  match c.g.spoison.find? fun p => decide (61 ≤ p.1) with
  | some p => raise fcProt 6 p.2 c.g.mask
  | none => .ok ()

/-- Steps 2 and 3 of R66 for name fields from the highest bit position down, each with the words it names; the second needs
E, and so a sound mask. -/
def Ctx.checkNames (c : Ctx) (E : LaneMask) (ns : List (VName × Nat)) : Except Trap Unit := do
  ns.forM fun p => c.nameRange E p.1 p.2
  c.maskSound
  ns.forM fun p => c.nameFloor E p.1 p.2

/-- The wait of an operand still to arrive (R149, R163); one whose request waits for a miss slot alone stalls at its port
(R426). -/
def Ctx.holdOn (c : Ctx) (id : Nat) : Trap :=
  match c.g.pends.find? fun p => p.id == id with
  | some p => if p.dest = .tile || !p.slot then .stall else .hold { kind := p.kind, obj := p.obj } (.operand id)
  | none => .hold { kind := 2 } (.operand id)

/-- A value, or the hold of a pending one, or PROTECTION 0x06 of poisoned data with the load's PC (R302). -/
def Ctx.need (c : Ctx) (E : LaneMask) : Opnd → Except Trap DWord
  | .val v => .ok v
  | .wait id => .error (c.holdOn id)
  | .bad pc => raise fcProt 6 pc E

/-- A name read in every lane of E: pending values hold the instruction before poison faults it. -/
def Ctx.readLanes (c : Ctx) (E : LaneMask) (f : Fin 96 → Opnd) : Except Trap (Vector DWord 96) :=
  match (lanesOf E).findSome? fun l => match f l with
    | .wait id => some id
    | _ => none with
  | some id => .error (c.holdOn id)
  | none =>
    let bad := lanesWhere E fun l => match f l with
      | .bad _ => true
      | _ => false
    match (lanesOf E).findSome? fun l => match f l with
      | .bad pc => some pc
      | _ => none with
    | some pc => raise fcProt 6 pc bad
    | none => .ok (Vector.ofFn fun l => if inMask E l.val then match f l with
        | .val v => v
        | _ => 0 else 0)

/-- The mask words may be written by a scalar load still pending (R156). -/
def Ctx.maskWait (c : Ctx) : Except Trap Unit :=
  match c.g.spend.find? fun p => decide (61 ≤ p.1) with
  | some p => .error (c.holdOn p.2)
  | none => .ok ()

/-- The mask is there and sound: what an instruction without name fields begins with. -/
def Ctx.maskReady (c : Ctx) : Except Trap Unit := do
  c.maskWait
  c.maskSound

/-- Scalar register n, awaited if a load still has to write it. -/
def Ctx.readS (c : Ctx) (n : Nat) : Except Trap DWord := c.need c.g.mask (c.g.sOpnd n)

/-! ## Lane-by-lane vector instructions -/

def usedNames (f : VOps) (u : Use × Use × Use) : List (VName × Nat) :=
  [(f.a, useWords u.1), (f.b, useWords u.2.1), (f.c, useWords u.2.2)].filter fun p => p.2 != 0

/-- The three sources of every lane of E, after steps 2 and 3 of R66. -/
def Ctx.sources (c : Ctx) (wgid : Nat) (E : LaneMask) (f : VOps) (u : Use × Use × Use) :
    Except Trap (Vector DWord 96 × Vector DWord 96 × Vector DWord 96) := do
  c.checkNames E (usedNames f u)
  let rd (use : Use) (x : VName) : Except Trap (Vector DWord 96) :=
    if useReads use then c.readLanes E (c.vsrc wgid f.ty f.imm (use == .pair) x) else .ok (Vector.replicate 96 0)
  return (← rd u.1 f.a, ← rd u.2.1 f.b, ← rd u.2.2 f.c)

/-- What a lane's result does to the lane: pushes in order, flags ORed in, a predicate written (R171, R82, R240). -/
def Lane.apply (D : Nat) (pd : Nat) (l : Lane) (o : LaneOut) : Lane :=
  let l := { l with act := l.act.pushAll D (o.push.map .word), flags := l.flags ||| o.flags }
  match o.pred with
  | some b => l.setP pd b
  | none => l

/-- The %wgid of the issuing group's workgroup. -/
def State.wgidOf (s : State) (c : Ctx) : Nat :=
  match s.wg? c.core c.g.wg with
  | some w => w.wgid
  | none => 0

/-- A vector instruction whose lanes are independent: sources, one function of a lane's inputs, its outputs. -/
def vecBody (op : Nat) (f : VOps) (fn : VOps → LaneIn → LaneOut) (wgid : Nat) (c : Ctx) : Except Trap Group := do
  c.maskWait
  let E := c.g.exec f.g1 f.g2
  let (a, b, t) ← c.sources wgid E f ((vrule op).uses f)
  return c.g.modLanes E fun l ln => ln.apply c.g.coilD (f.imm.toNat % 8) (fn f ⟨a[l], b[l], t[l]⟩)

/-- An instruction that writes a frame slot waits while a lane of E has a write to it pending (R156). -/
def Ctx.framePending (c : Ctx) (E : LaneMask) (n : Nat) : Except Trap Unit :=
  match (lanesOf E).findSome? fun l => match (c.g.lane l).act.fr n with
    | .pend id _ => some id
    | _ => none with
  | some id => .error (c.holdOn id)
  | none => .ok ()

/-- Run a lane-by-lane instruction of an opcode. -/
def vecInstr (op : Nat) (f : VOps) (fn : VOps → LaneIn → LaneOut) : State → Host.Outcome State Fault Refusal :=
  instr (.v op f) fun c s => (vecBody op f fn (s.wgidOf c) c).map fun g => s.setGroup c.core c.slot g

/-! ## Scalar sources (R81) -/

/-- The 64-bit value of a scalar name. -/
def Ctx.sname (c : Ctx) (wgid : Nat) (imm : BitVec 8) (x : SName) : Opnd :=
  let n (v : Nat) : Opnd := .val (BitVec.ofNat 64 v)
  match x with
  | .scalar i => c.g.sOpnd i.val
  | .konst i => .val (c.kreg i.val)
  | .gid => n c.g.gid
  | .wgid => n wgid
  | .wgn => n c.g.wgn
  | .clrank => n (c.core % 4)
  | .core => n (c.core % 16)
  | .die => n (c.core / 16)
  | .job => .val c.card
  | .part => n c.g.part
  | .vf => n c.g.vf
  | .zero => .val 0
  | .imm => .val (imm.signExtend 64)

/-- Write scalar d: a write of a mask word stores zero above bit 31 and may set only members of the current path (R193,
R235). -/
def writeS (g : Group) (d : Nat) (v : DWord) : Except Trap Group :=
  if d < 61 then .ok (g.setS d v)
  else
    let w := d - 61
    let bad : Word := lowWord v &&& ~~~(maskWord g.members w)
    let m : LaneMask := joinMask (if w = 0 then bad else 0) (if w = 1 then bad else 0) (if w = 2 then bad else 0)
    if bad = 0 then .ok (g.setS d ((lowWord v).setWidth 64)) else raise 0x0B 1 (BitVec.ofNat 64 d) m

/-- A scalar whose earlier write is still pending holds a new write (R156). -/
def Ctx.freeS (c : Ctx) (d : Nat) : Except Trap Unit :=
  match c.g.spend.find? fun p => p.1 == d with
  | some p => .error (c.holdOn p.2)
  | none => .ok ()

end Sys2Proof.Machine
end

