-- ==== Sys2Proof/Machine/Flags.lean ====
section
/-! DEFINITION. Sticky flags and their reporting (R32, R240, R401, R411): the flag bits themselves are in Formats.lean,
each instruction's flags in its own entry; here is what reads, reports and clears them. -/

namespace Sys2Proof.Machine

/-- The enabled flags of a lane that have not been reported (R401). -/
def Group.newFlags (g : Group) (l : Fin 96) : Flags := (g.lane l).flags &&& g.csr.trapen &&& ~~~(g.lane l).rep

/-- The OR of the new flags of some lanes. -/
def Group.newFlagsOr (g : Group) (E : LaneMask) : Flags := (lanesOf E).foldl (fun a l => a ||| g.newFlags l) 0

def Group.newEngine (g : Group) : Flags := g.csr.engflags &&& g.csr.trapen &&& ~~~g.csr.engrep

/-- Mark what is new as reported. -/
def Group.report (g : Group) (E : LaneMask) : Group :=
  let g' := g.modLanes E fun _ l => { l with rep := l.rep ||| (l.flags &&& g.csr.trapen &&& ~~~l.rep) }
  { g' with csr := { g'.csr with engrep := g.csr.engrep ||| g.newEngine } }

/-- The check that BAR, BARC and EXIT make before they take effect (R401): the state after the ARITH it raises. -/
def Ctx.arith (c : Ctx) (E : LaneMask) (s : State) : Option State :=
  let fl := c.g.newFlagsOr E
  let ne := c.g.newEngine
  if fl = 0 ∧ ne = 0 then none
  else
    let bad := lanesWhere E fun l => c.g.newFlags l != 0
    let s := s.setGroup c.core c.slot (c.g.report E)
    some (s.precise c 0x40 0 (BitVec.ofNat 64 (fl.toNat + ne.toNat * 2 ^ 8)) (if bad = 0 then E else bad))

/-- A reporting instruction waits for the flags that an ADRV of the group has still to raise (R240, R371). -/
def Ctx.flagsIn (c : Ctx) : Except Trap Unit :=
  if c.g.pends.any fun p => p.dest == .tile then .error .stall else .ok ()

/-- Every earlier instruction of the group has completed (R240, R410). -/
def Ctx.allDone (c : Ctx) : Except Trap Unit := if c.g.pends.isEmpty then .ok () else .error .stall

/-- The word FLAGS pushes for a lane (R411). -/
def Lane.flagWord (l : Lane) : Word := wordOfNat (l.flags.toNat + l.rep.toNat * 2 ^ 8)

/-- Clear flags and reported bits of a lane (R411). -/
def Lane.clearFlags (l : Lane) (m : Flags) : Lane := { l with flags := l.flags &&& ~~~m, rep := l.rep &&& ~~~m }

end Sys2Proof.Machine
end

