-- ==== Sys2Proof/Machine/Disclose.lean ====
section
/-! DEFINITION. Programmable counters and what operator-side readers see of a tenant's data (R413, R431, R439, R440). -/

namespace Sys2Proof.Machine

/-! ## Counters (R413) -/

/-- The counter i of a function on a core. -/
def ctrKey (vf i : Nat) : Nat := 8 * vf + i
def State.ctr (s : State) (core vf i : Nat) : Counter := nget {} (s.core core).ctrs (ctrKey vf i)

/-- The policy class of an event (R413, R439): PERF 0, STALL 2, FAULT 4. -/
def eventClass (ev : Nat) : Nat := if ev = 0x0F then 4 else if decide (0x0A ≤ ev) && decide (ev ≤ 0x0C) then 2 else 0

/-! ## Sums and slices -/

/-- The functions bound to a partition. -/
def State.boundTo (s : State) (part : Nat) : List Nat := (List.range 256).filter fun v => s.bound v == some part

/-- The sum of the same counter over every function of the partition and every core of it. -/
def State.ctrSum (s : State) (part i : Nat) : DWord :=
  let cores := (List.range 64).filter fun c => s.corePart c == part
  ((s.boundTo part).flatMap fun vf => cores.map fun c => (s.ctr c vf i).count).foldl (· + ·) 0

/-- OCC and EVICT of a context in a slice (R288): the lines it holds under the context's id, and those replaced or taken
over. -/
def State.occ (s : State) (i ctx : Nat) : Nat := ((s.slice i).lines.filter fun l => l.ctx == ctx).length
def State.evicted (s : State) (i ctx : Nat) : Nat := (nget 0 (s.slice i).evict ctx).toNat
/-- The slices of a partition, module-wide (R130). -/
def State.slicesOf (s : State) (part : Nat) : List Nat :=
  (List.range 96).filter fun i => (s.slc (i / 24) part).testBit (i % 24)

/-- A partition is present on a die: it holds a slice, a die-scratch group or a core of it. -/
def State.onDie (s : State) (part d : Nat) : Bool :=
  s.slc d part != 0 || s.dsg d part != 0 || (List.range 16).any fun i => s.coreOn (16 * d + i) && s.corePart (16 * d + i) == part

/-- Soft errors counted on a die (R300): corrected, and uncorrectable in the high half. -/
def State.softCount (s : State) (d : Nat) : DWord :=
  BitVec.ofNat 64 ((s.die d).corrected % 2 ^ 32 + (s.die d).uncorrected % 2 ^ 32 * 2 ^ 32)

/-! ## Data by number: what a sample holds at each grid instant (R440) -/

/-- Counters; latencies of a function's queue (buckets 0 to 31 start, 32 to 63 completion, 64 the percentile word); OCC of a
context in a slice, and one more EVICT; a register of a debug block; a die's soft errors, and four more its temperature. -/
def ctrDatum (core vf i : Nat) : Nat := 4096 * core + ctrKey vf i
def latDatum (vf q b : Nat) : Nat := 2 ^ 20 + 4096 * vf + 128 * q + b
def occDatum (i ctx : Nat) : Nat := 2 ^ 22 + 2 * (257 * i + ctx)
def dbgDatum (vf o : Nat) : Nat := 2 ^ 23 + 256 * vf + o
def dieDatum (d : Nat) : Nat := 2 ^ 24 + d

/-! ## Levels (R440) -/

/-- A datum as an operator-side reader sees it under a class word: unchanged, summed, as it was at the latest instant of the
grid and rounded down, or zero. -/
def State.filterBy (s : State) (w : DWord) (datum : Nat) (full : DWord) (sum : State → DWord) : DWord :=
  match fld w 0 2 with
  | 3 => full
  | 2 => sum s
  | 1 =>
    let g := 2 ^ fld w 2 6
    BitVec.ofNat 64 ((nget 0 (nget [] s.snap (fld w 8 5)) datum).toNat / g * g)
  | _ => 0

/-- A function's datum of a class; what belongs to the physical function is no tenant's. -/
def State.filtered (s : State) (vf cls datum : Nat) (full : DWord) (sum : State → DWord) : DWord :=
  if vf = pfn then full else s.filterBy (s.classWord vf cls) datum full sum

/-- A counter as an operator-side reader sees it. -/
def State.ctrSeen (s : State) (core vf i : Nat) : DWord :=
  let k := s.ctr core vf i
  s.filtered vf (eventClass k.event) (ctrDatum core vf i) k.count fun s => s.ctrSum (s.partOf vf) i

/-- OCC and EVICT of a context in a slice as an operator-side reader sees them (R288, R439, R440): halves of one word. -/
def State.occSeen (s : State) (i ctx : Nat) : DWord :=
  let sum (f : State → Nat → Nat → Nat) (s : State) : DWord :=
    BitVec.ofNat 64 ((s.boundTo (s.partOf ctx)).foldl (fun a v =>
      (s.slicesOf (s.partOf ctx)).foldl (fun a j => a + f s j v) a) 0)
  let o := s.filtered ctx 1 (occDatum i ctx) (BitVec.ofNat 64 (s.occ i ctx)) (sum State.occ)
  let e := s.filtered ctx 1 (occDatum i ctx + 1) (BitVec.ofNat 64 (s.evicted i ctx)) (sum State.evicted)
  BitVec.ofNat 64 (o.toNat % 2 ^ 16 + e.toNat % 2 ^ 32 * 2 ^ 32)

/-- FWDUSE and MIGR of a slice: zero unless every partition that holds it has OCC at AGGREGATE or FULL (R439). -/
def State.fwdSeen (s : State) (i : Nat) : DWord :=
  if (List.range 64).all fun p => !((s.slc (i / 24) p).testBit (i % 24)) || decide (2 ≤ fld (s.partClass p 1) 0 2) then
    BitVec.ofNat 64 ((s.slice i).fwd.length + (s.slice i).migr.toNat * 2 ^ 32)
  else 0

/-- The telemetry of a partition (R300, R439, class TELEM): words 0 to 3 the soft errors of the dies on which it is present,
words 4 to 7 their temperatures in tenths of a degree, which have no sum. -/
def State.telemSeen (s : State) (p i : Nat) : DWord :=
  let d := i % 4
  let dies := (List.range 4).filter (s.onDie p)
  if 8 ≤ i || !dies.contains d then 0
  else
    let full := if i < 4 then s.softCount d else BitVec.ofNat 64 (s.die d).tenths
    s.filterBy (s.partClass p 5) (dieDatum i) full fun s =>
      if i < 4 then BitVec.ofNat 64 ((dies.map fun d => (s.die d).corrected).sum % 2 ^ 32 +
        (dies.map fun d => (s.die d).uncorrected).sum % 2 ^ 32 * 2 ^ 32) else 0

/-- A read through the filter in this clock: a policy that is locked in the same clock applies to it (R444). -/
def State.noteRead (s : State) : State := { s with readAt := some s.clock }

end Sys2Proof.Machine
end

