-- ==== Sys2Proof/Machine/Control.lean ====
section
/-! DEFINITION. Control flow (R192 to R208) and the operand-class instructions that move between activations and paths
(R177 to R180, R183 to R186, R190, R191): paths, the reconvergence stack, calls and rejoins. -/

namespace Sys2Proof.Machine

def fcUniform : Nat := 0x04
def fcRejoin : Nat := 0x08
def fcStackOvf : Nat := 0x09
def fcActOvf : Nat := 0x0A
def fcStackState : Nat := 0x0C

/-! ## The stack -/

/-- Entries that the current code sees: inside a handler, those above its mark (R403). -/
def Group.visible (g : Group) : List Entry := g.stack.take (g.stack.length - (if g.csr.inHandler then g.csr.mark else 0))

/-- Position, from the top, of the innermost RCV entry of the current call depth. -/
def Group.inner (g : Group) : Option Nat :=
  g.visible.findIdx? fun e => match e with
    | .rcv _ d .. => d == g.depth
    | .pnd .. => false

/-- The bundle of that entry. -/
def Group.innerBundle (g : Group) : Option DWord :=
  match g.inner with
  | none => none
  | some i => match g.stack[i]? with
    | some (.rcv b ..) => some b
    | _ => none

/-- Change the entry at a position. -/
def Group.modEntry (g : Group) (i : Nat) (f : Entry → Entry) : Group := { g with stack := g.stack.modify i f }

/-- The path stands at slot 1 of the innermost entry's bundle and has not been selected to complete it (R196). -/
def Group.atArrival (g : Group) : Bool :=
  g.pc.slot == 1 && !g.completing && g.innerBundle == some g.pc.bundle

/-- Lanes leave every path, entry and return record (R198). -/
def Group.removeLanes (g : Group) (x : LaneMask) : Group :=
  let k := ~~~x
  { g.setMask (g.mask &&& k) with
    members := g.members &&& k
    stack := g.stack.map fun e => match e with
      | .rcv b d m a y sd mks => .rcv b d (m &&& k) (a &&& k) (y &&& k) sd mks
      | .pnd pc d m pk => .pnd pc d (m &&& k) (pk &&& k)
    rets := g.rets.map fun r => match r with
      | .call ret eb bs fs n cm ms sb acts => .call ret eb bs fs n (cm &&& k) (ms &&& k) sb acts
      | h => h }

/-- Put back the caller's activation of the top return record (R191, R197). -/
def Group.popCall (g : Group) : Group :=
  match g.rets with
  | .call _ eb bs fs _ _ _ _ acts :: r =>
    { g with rets := r, base := bs, frameSize := fs, entryB := eb, depth := g.depth - 1,
             lanes := g.lanes.mapFinIdx fun i l h => { l with act := acts[i] } }
  | _ => g

/-- Select the next path (R197); none when the group has no lane left. A completed entry whose bundle lacks RJT and at which no
path has arrived goes on at slot 1 of that bundle, without a fault (R50, R204; DEDUCED, assumption 92). -/
def Group.select : Nat → Group → Option Group
  | 0, _ => none
  | n + 1, g =>
    let free : Option (PC × LaneMask × LaneMask) := match g.rets with
      | .call ret _ _ _ _ cm ms sb _ :: _ =>
        if g.members = 0 ∧ sb = g.stack.length then some (ret, cm, ms) else none
      | _ => none
    match free with
    | some (ret, cm, ms) =>
      let g := g.popCall
      if ms = 0 then Group.select n g else some ({ g with members := ms, pc := ret, completing := false }.setMask cm)
    | none =>
      match g.stack with
      | [] => none
      | .pnd pc _ m pk :: r => some ({ g with stack := r, members := m, pc := pc, completing := false }.setMask pk)
      | .rcv b _ m a y _ _ :: r =>
        if m = 0 then
          if y = 0 then Group.select n { g with stack := r }
          else some ({ g with stack := r, members := y, pc := ⟨b, 2⟩, completing := false }.setMask 0)
        else some ({ g with members := a ||| y, pc := ⟨b, 1⟩, completing := true }.setMask a)

def Group.selectNext (g : Group) : Option Group := g.select (g.stack.length + g.rets.length + 1)

/-- Store a group after its path was left: another path, or retirement (R422). -/
def State.goOn (s : State) (c : Ctx) (g : Group) : State :=
  match g.selectNext with
  | some g => s.setGroup c.core c.slot g
  | none => (s.setGroup c.core c.slot g).beginLeave c.core c.slot

/-- The current path arrives (R196); a bundle without RJT faults before any lane is added (R50, R204). -/
def State.arrive (s : State) (c : Ctx) (rjt : Bool) : State :=
  if !rjt then s.precise c fcLanding 1 c.g.pc.bundle c.g.mask
  else match c.g.inner with
    | none => s
    | some i =>
      let g := c.g.modEntry i fun e => match e with
        | .rcv b d m a y sd mks => .rcv b d m (a ||| c.g.members) y sd mks
        | e => e
      s.goOn c { g with members := 0 }

/-! ## Branches (R202 to R207) -/

def branchTo (a : DWord) (disp : BitVec 20) : DWord := a + (disp.signExtend 64 <<< 6)

/-- A target in the lower half of the global window (R145). -/
def Ctx.target (E : LaneMask) (a : DWord) : Except Trap Unit :=
  if a.extractLsb' 56 8 = (0 : BitVec 8) then .ok () else raiseOpen fcLanding 2 E

def execNop (f : BOps) : State → Host.Outcome State Fault Refusal := localInstr (.b 0x000 f) fun c => .ok c.g

/-- Store a group at the next slot. -/
def Ctx.step (c : Ctx) (s : State) (g : Group) : Except Trap State := do
  return s.setGroup c.core c.slot { g with pc := ← c.nextPc, completing := false }

/-- BR (R203). -/
def execBr (f : BOps) : State → Host.Outcome State Fault Refusal := jumpInstr (.b 0x001 f) fun c s => do
  c.maskReady
  let E := c.g.exec f.g1 f.g2
  if E = 0 then c.step s c.g
  else
    let t := lanesWhere E fun l => (c.g.lane l).guard f.cond
    if t = 0 then c.step s c.g
    else if t ≠ E then raiseOpen fcUniform 1 t
    else
      let a := branchTo c.g.pc.bundle f.disp
      Ctx.target E a
      return s.setGroup c.core c.slot { c.g with pc := ⟨a, 1⟩, completing := false }

/-- The PND of the innermost entry at a PC: its position from the top (R204). -/
def Group.pndAt (g : Group) (above : Nat) (pc : PC) : Option Nat :=
  (g.stack.take above).findIdx? fun e => match e with
    | .pnd p d .. => p == pc && d == g.depth
    | _ => false

/-- The entry at a position takes marks and sides from its lanes' last pass (R204). -/
def Group.refresh (g : Group) (i : Nat) (E T : LaneMask) : Group :=
  g.modEntry i fun e => match e with
    | .rcv b d m a y sd mks =>
      let ls := lanesOf E
      .rcv b d m a y (ls.foldl (fun t l => nset 0 t l.val (if inMask T l.val then 0 else 1)) sd)
        (ls.foldl (fun t l => nset 0 t l.val (g.lane l).act.P) mks)
    | e => e

/-- BRC (R204). -/
def execBrc (f : BOps) : State → Host.Outcome State Fault Refusal := jumpInstr (.b 0x002 f) fun c s => do
  c.maskReady
  let g := c.g
  let E := g.exec f.g1 f.g2
  if E = 0 then c.step s g
  else
    let rpc := branchTo g.pc.bundle f.disp2
    let tpc := branchTo g.pc.bundle f.disp
    let T := lanesWhere E fun l => (g.lane l).guard f.cond
    let N := E &&& ~~~T
    let e := if g.innerBundle = some rpc then g.inner else none
    let npc := g.pc.next g.sv
    let merge := match e, npc with
      | some i, some p => g.pndAt i p
      | _, _ => none
    let both := decide (T ≠ 0) && decide (N ≠ 0)
    let need := (if e.isSome then 0 else 1) + (if both && merge.isNone then 1 else 0)
    if 32 < g.stack.length + need then raiseOpen fcStackOvf 1 E
    else
      let cleared := if e.isSome then g.members &&& ~~~E else 0
      let (g1, i) := match e with
        | some i => (g, i)
        | none => ({ g with stack := .rcv rpc g.depth E 0 (g.members &&& ~~~E) [] [] :: g.stack }, 0)
      let g2 := g1.refresh i E T
      if T = 0 then
        let p ← c.nextPc
        match merge with
        | none => return s.setGroup c.core c.slot ({ g2 with members := N ||| cleared, pc := p, completing := false }.setMask N)
        | some j =>
          let (pm, pk) := match g2.stack[j]? with
            | some (.pnd _ _ m k) => (m, k)
            | _ => (0, 0)
          return s.setGroup c.core c.slot
            ({ g2 with stack := g2.stack.eraseIdx j, members := N ||| cleared ||| pm, pc := p, completing := false }.setMask
              (N ||| pk))
      else
        Ctx.target E tpc
        let go (h : Group) : State :=
          s.setGroup c.core c.slot ({ h with members := T ||| cleared, pc := ⟨tpc, 1⟩, completing := false }.setMask T)
        if N = 0 then return go g2
        else
          let p ← c.nextPc
          match merge with
          | some j => return go (g2.modEntry j fun e => match e with
              | .pnd p d m k => .pnd p d (m ||| N) (k ||| N)
              | e => e)
          | none => return go { g2 with stack := .pnd p g.depth N N :: g2.stack }

/-- The bundle an indirect transfer lands on: aligned, with ENTRY (R50, R205). What the fetch did stands whatever the
bundle says. -/
def Ctx.landing (c : Ctx) (s : State) (E : LaneMask) (a : DWord) : Except Trap State := do
  Ctx.target E a
  if a.toNat % 64 ≠ 0 then raise fcLanding 1 a E
  else match s.fetchBundle c.core c.g a with
    | .miss st x l => .error (c.pageTrap s 2 a st x l)
    | .bad code sub => raise code sub a E
    | .wait => .error .stall
    | .words ws s => if hdrEntry (ws.headD 0) then .ok s else .error (.out (s.precise c fcLanding 1 a E))

/-- JMPI (R205). -/
def execJmpi (f : BIOps) : State → Host.Outcome State Fault Refusal := jumpInstr (.bi 0x003 f) fun c s => do
  c.maskReady
  let E := c.g.exec f.g1 f.g2
  if E = 0 then c.step s c.g
  else
    let a ← c.readS f.t.val
    let s ← c.landing s E a
    return s.modGroup c.core c.slot fun g => { g with pc := ⟨a, 1⟩, completing := false }

/-- BRK (R206). Its lanes join ARRIVED without a fetch of the reconvergence bundle, so one that lacks RJT raises nothing for
them (R50; DEDUCED, assumption 92). -/
def execBrk (f : BOps) : State → Host.Outcome State Fault Refusal := jumpInstr (.b 0x004 f) fun c s => do
  c.maskReady
  let E := c.g.exec f.g1 f.g2
  if E = 0 then c.step s c.g
  else match c.g.inner with
    | none => raiseOpen fcStackState 3 E
    | some i =>
      let g := c.g.modEntry i fun e => match e with
        | .rcv b d m a y sd mks =>
          .rcv b d m (a ||| E) y ((lanesOf E).foldl (fun t l => nset 0 t l.val f.aux.toNat) sd) mks
        | e => e
      let left := g.members &&& ~~~E
      let g := { g.setMask (g.mask &&& ~~~E) with members := left }
      if left = 0 then return s.goOn c g else c.step s g

/-- Siblings of the current path: PND entries above the innermost RCV entry, as positions (R207). -/
def Group.siblingTop (g : Group) : Nat :=
  match g.inner with
  | some i => i
  | none => g.visible.length

/-- YLDP (R207): the topmost sibling runs, the yielding path goes below the others. -/
def execYldp (f : BOps) : State → Host.Outcome State Fault Refusal := jumpInstr (.b 0x005 f) fun c s => do
  c.maskReady
  let g := c.g
  let E := g.exec f.g1 f.g2
  let top := g.siblingTop
  let sib := (g.stack.take top).findIdx? fun e => match e with
    | .pnd _ d .. => g.inner.isSome || d == g.depth
    | _ => false
  match E = (0 : LaneMask), sib with
  | _, none => c.step s g
  | _, some i =>
    if E = 0 then c.step s g
    else
      let p ← c.nextPc
      match g.stack[i]? with
      | some (.pnd pc _ m k) =>
        let below := g.stack.drop top
        let rest := (g.stack.take top).eraseIdx i
        return s.setGroup c.core c.slot
          ({ g with stack := rest ++ Entry.pnd p g.depth g.members g.mask :: below, members := m, pc := pc,
                    completing := false }.setMask k)
      | _ => c.step s g

/-- ILLEGAL_INSTRUCTION 0x0C inside a handler (R403). -/
def Ctx.notInHandler (c : Ctx) (E : LaneMask) (w : DWord) : Except Trap Unit :=
  if c.g.csr.inHandler then raise fcIllegal 0x0C w E else .ok ()

/-- EXIT (R208). -/
def execExit (f : BOps) : State → Host.Outcome State Fault Refusal := jumpInstr (.b 0x006 f) fun c s => do
  c.maskReady
  let E := c.g.exec f.g1 f.g2
  if E = 0 then c.step s c.g
  else
    c.notInHandler E (wordB 0x006 f)
    c.flagsIn
    match c.arith E s with
    | some s => .error (.out s)
    | none =>
      let g := c.g.removeLanes E
      if g.members = 0 then return s.goOn c g else c.step s g

/-! ## Calls (R177, R178, R190, R191) -/

/-- COIL_FLOOR of ages 1 to n in the lanes of E (R172). Its detail holds n, the oldest of them (DESIGN CHOICE, assumption
91). -/
def Ctx.floorN (c : Ctx) (E : LaneMask) (n : Nat) : Except Trap Unit :=
  let bad := lanesWhere E fun l => !(c.g.lane l).act.live n
  if bad = 0 then .ok () else raise fcCoilFloor 1 (BitVec.ofNat 64 n) bad

/-- Ages n down to 1 of every lane of E. -/
def Ctx.readAges (c : Ctx) (E : LaneMask) (n : Nat) : Except Trap (List (Vector DWord 96)) :=
  (List.range n).mapM fun i => c.readLanes E fun l => ((c.g.lane l).act.age c.g.coilD (n - i)).opnd

def pushWords (D : Nat) (a : LaneAct) (l : Fin 96) (vs : List (Vector DWord 96)) : LaneAct :=
  a.pushAll D (vs.map fun v => .word (lowWord v[l]))

/-- The new activation and path of a call (R190), which writes the register cache back (R161). -/
def Group.enter (g : Group) (E : LaneMask) (ret : PC) (n : Nat) (vs : List (Vector DWord 96)) (t : DWord) : Group :=
  let h : Group := { (g.setMask E) with
    rets := .call ret g.entryB g.base g.frameSize n E g.members g.stack.length (g.lanes.map (·.act)) :: g.rets
    depth := g.depth + 1, base := g.base + g.coilD + g.frameSize, frameSize := 0, entryB := t
    members := E, pc := ⟨t, 1⟩, completing := false, cacheFloor := g.pushSeq
    lanes := g.lanes.mapFinIdx fun i l h =>
      { l with act := if inMask E i then pushWords g.coilD LaneAct.fresh ⟨i, h⟩ vs else LaneAct.fresh } }
  h.stamp fun _ => 0

def Ctx.callChecks (c : Ctx) (E : LaneMask) : Except Trap Unit := do
  if c.g.depth = c.g.cdepth then raiseOpen fcActOvf 2 E
  if c.g.cap < c.g.base + c.g.coilD + c.g.frameSize + c.g.coilD then raiseOpen fcActOvf 1 E

/-- CALL (R190). Its target is tested against the window (R145) after the checks of the entry (DEDUCED, assumption 33). -/
def execCall (f : BOps) : State → Host.Outcome State Fault Refusal := jumpInstr (.b 0x007 f) fun c s => do
  c.maskReady
  let E := c.g.exec f.g1 f.g2
  if E = 0 then c.step s c.g
  else
    let n := f.aux.toNat
    c.floorN E n
    let vs ← c.readAges E n
    c.callChecks E
    let t := branchTo c.g.pc.bundle f.disp
    Ctx.target E t
    return s.setGroup c.core c.slot (c.g.enter E (c.g.pc.after c.g.sv) n vs t)

/-- CALLI (R190). -/
def execCalli (f : BIOps) : State → Host.Outcome State Fault Refusal := jumpInstr (.bi 0x008 f) fun c s => do
  c.maskReady
  let E := c.g.exec f.g1 f.g2
  if E = 0 then c.step s c.g
  else
    let n := f.aux.toNat
    c.floorN E n
    let vs ← c.readAges E n
    let a ← c.readS f.t.val
    let s' ← c.landing s E a
    match c.callChecks E with
    | .error t => .error (.out (s'.trap c t))
    | .ok () => return s'.setGroup c.core c.slot (c.g.enter E (c.g.pc.after c.g.sv) n vs a)

/-- RET (R191), which acts even when E is empty; a return PC past the window is its own fault (R145). -/
def execRet (f : BOps) : State → Host.Outcome State Fault Refusal := jumpInstr (.b 0x009 f) fun c s => do
  c.maskReady
  let g := c.g
  let E := g.exec f.g1 f.g2
  let m := f.aux.toNat
  c.floorN E m
  let vs ← c.readAges E m
  match g.rets with
  | [] => raiseOpen fcStackState 2 E
  | .handler .. :: _ => raiseOpen fcStackState 4 E
  | .call ret _ _ _ n _ ms sb _ :: _ =>
    if sb ≠ g.stack.length then raiseOpen fcStackState 1 E
    else
      Ctx.target E ret.bundle
      let back := g.popCall.modLanes E fun _ ln => { ln with act := { ln.act with P := ln.act.P - BitVec.ofNat 32 n } }
      let h := (back.modLanes E fun l ln => { ln with act := pushWords g.coilD ln.act l vs }).stamp
        fun l => (back.lane l).act.P
      return s.setGroup c.core c.slot { h with members := ms, pc := ret, completing := false }

/-! ## Rejoin (R179, R180, R186) -/

/-- The first per-lane check of R180 that a lane fails. -/
def rjCheck (D d m : Nat) (a : LaneAct) (side : Nat) (mark : BitVec 32) : Option Nat :=
  let (n, sel) := rjSide d side m
  firstCause [
    (4, !d.testBit (121 + side)),
    (1, (a.P - mark).toInt != n),
    (2, sel.any fun x => decide (D < n + x)),
    (3, sel.any fun x => decide (a.count < x))]

/-- The coil of a lane after RJN (R186); the selected values keep the numbers of their pushes. The
floor never passes P (R170; DEDUCED, assumption 12). -/
def rjApply (D n : Nat) (a : LaneAct) (sel : List Nat) (vs : List Word) : LaneAct :=
  let m := vs.length
  let mk := a.P - BitVec.ofNat 32 n
  let rel : Int := (a.count : Int) - n
  let up := max 0 (max (rel + n - D) (rel + m - D))
  let f := min up (max 0 (rel + m))
  let p := mk + BitVec.ofNat 32 m
  let at' (i : Nat) : Nat := (mk.toNat + i + 1) % 2 ^ 32 % D
  let coil := (List.range m).foldl (fun t i => nset (.word 0) t (at' i) (.word (vs.getD i 0))) a.coil
  let seqs := (List.range m).foldl (fun t i => nset 0 t (at' i) (nget 0 a.seqs (a.index D (sel.getD i 1)))) a.seqs
  { a with P := p, coil := coil, seqs := seqs, F := if rel + m < 0 then p else a.F + BitVec.ofInt 32 f }

/-- RJN (R186). Its checks are the instruction's and not a lane's: they are made whatever E is (R180, R196; DEDUCED,
assumption 84). -/
def execRjn (f : VOps) : State → Host.Outcome State Fault Refusal := instr (.v 0x025 f) fun c s => do
  c.maskWait
  let g := c.g
  let E := g.exec f.g1 f.g2
  if g.pc.slot ≠ 1 ∨ !g.rjt then raise fcIllegal 9 (wordV 0x025 f) E
  c.maskSound
  let k := f.imm.toNat
  let d := (c.kreg (k + 1)).toNat * 2 ^ 64 + (c.kreg k).toNat
  let m := d / 2 ^ 125
  if 4 < m then raiseOpen fcRejoin 5 E
  match (if g.completing then g.stack.head? else none) with
  | some (.rcv _ _ _ _ _ sd mks) =>
    let side (l : Fin 96) := nget 0 sd l.val
    let mark (l : Fin 96) := nget 0 mks l.val
    let chk (l : Fin 96) := rjCheck g.coilD d m (g.lane l).act (side l) (mark l)
    let bad := lanesWhere E fun l => (chk l).isSome
    match firstLane bad with
    | some l =>
      let cnt := ((g.lane l).act.P - mark l).toNat % 256
      raise fcRejoin ((chk l).getD 0)
        (BitVec.ofNat 64 (l.val + side l * 2 ^ 8 + (rjSide d (side l) m).1 * 2 ^ 16 + cnt * 2 ^ 24)) bad
    | none =>
      let vs ← (List.range m).mapM fun i => c.readLanes E fun l =>
        ((g.lane l).act.age g.coilD ((rjSide d (side l) m).2.getD i 1)).opnd
      let h := g.modLanes E fun l ln =>
        let (n, sel) := rjSide d (side l) m
        { ln with act := rjApply g.coilD n ln.act sel (vs.map fun v => lowWord v[l]) }
      return s.setGroup c.core c.slot { h with stack := h.stack.tail, completing := false }
  | _ => raiseOpen fcRejoin 6 E

end Sys2Proof.Machine
end

