-- ==== Sys2Proof/Machine/FloatOps.lean ====
section
/-! DEFINITION. What each lane of the thirty floating-point, packed and conversion instructions computes (R238 to
R258), the special-function pipe apart. -/

namespace Sys2Proof.Machine

/-- MOD[10:9] as a rounding mode (R69). -/
def rmOf (f : VOps) : RMode := RMode.ofBits (f.mod.setWidth 2)

/-- The source-a modifier on a w-bit floating element (R69, R238): none, negate, absolute, negated absolute. -/
def modElem (m : Nat) (w : Nat) (isD8 : Bool) (c : Nat) : Nat :=
  let body := c % 2 ^ (w - 1)
  let sign := c / 2 ^ (w - 1) % 2
  if isD8 && body == 0 then c
  else
    let s := match m with
      | 0 => sign
      | 1 => 1 - sign
      | 2 => 0
      | _ => 1
    body + s * 2 ^ (w - 1)

/-- The modifier on every element of a word of a type. -/
def modWord (m : Nat) (t : Ty) (x : Word) : Word :=
  packElems (tyWidth t) ((List.range (tyElems t)).map fun i =>
    modElem m (tyWidth t) (t == .d8x4) (elemNat (tyWidth t) i x))

/-- Source a after its modifier. -/
def srcA (f : VOps) (x : LaneIn) : Word := modWord (f.mod.toNat / 4) f.ty x.wa

/-- The interchange format of a floating type. -/
def fmtOf : Ty → FFmt
  | .f16x2 => fp16
  | .bf16x2 => bfp16
  | _ => fp32

/-- Apply an operation with flags to every element of a word and push the result. -/
def eachFloat (t : Ty) (g : Nat → Nat × Flags) : LaneOut :=
  let rs := (List.range (tyElems t)).map g
  { push := [packElems (tyWidth t) (rs.map (·.1))], flags := rs.foldl (fun fl r => fl ||| r.2) 0 }

def float2 (f : VOps) (x : LaneIn) (g : FFmt → Nat → Nat → Nat × Flags) : LaneOut :=
  let w := tyWidth f.ty
  let a := srcA f x
  eachFloat f.ty fun i => g (fmtOf f.ty) (elemNat w i a) (elemNat w i x.wb)

def opFadd (f : VOps) (x : LaneIn) : LaneOut := float2 f x fun m a b => m.add (rmOf f) a b
def opFsub (f : VOps) (x : LaneIn) : LaneOut := float2 f x fun m a b => m.sub (rmOf f) a b
def opFmul (f : VOps) (x : LaneIn) : LaneOut := float2 f x fun m a b => m.mul (rmOf f) a b
def opFfma (f : VOps) (x : LaneIn) : LaneOut :=
  let w := tyWidth f.ty
  let a := srcA f x
  eachFloat f.ty fun i => (fmtOf f.ty).fma (rmOf f) (elemNat w i a) (elemNat w i x.wb) (elemNat w i x.wc)
def opFdiv (f : VOps) (x : LaneIn) : LaneOut := float2 f x fun m a b => m.div (rmOf f) (m.decode a) (m.decode b)
def opFsqrt (f : VOps) (x : LaneIn) : LaneOut :=
  eachFloat f.ty fun i =>
    (fmtOf f.ty).sqrt (rmOf f) ((fmtOf f.ty).decode (elemNat (tyWidth f.ty) i (srcA f x)))
/-- FMIN, FMAX and their packed forms (R242); MOD[10] is `.num`. -/
def opFmin (f : VOps) (x : LaneIn) : LaneOut := float2 f x fun m a b => m.minmax false (f.mod.getLsbD 1) a b
def opFmax (f : VOps) (x : LaneIn) : LaneOut := float2 f x fun m a b => m.minmax true (f.mod.getLsbD 1) a b

/-- FCMP (R244). -/
def opFcmp (f : VOps) (x : LaneIn) : LaneOut :=
  let a := fp32.decode (srcA f x).toNat
  let b := fp32.decode x.wb.toNat
  let code := f.imm.toNat / 8 % 8
  let u := f.imm.getLsbD 6
  let sig := f.mod.getLsbD 0
  let unord := a.isNan || b.isNan
  let c := cmpVal a b
  let rel := match code with
    | 0 => c == .eq
    | 1 => c == .lt
    | 2 => c != .gt
    | 3 => c == .gt
    | 4 => c != .lt
    | 5 => c != .eq
    | _ => false
  let r := match code with
    | 6 => !unord
    | 7 => unord
    | _ => if unord then u else rel
  let quietNv := unord && (sig || (!u && decide (1 ≤ code) && decide (code ≤ 4)))
  { pred := some r, flags := sigFlag [a, b] ||| (if quietNv then flNV else 0) }

/-- The class bit of one element (R245). -/
def classBit (m : FFmt) (c : Nat) : Nat :=
  match m.decode c with
  | .nan s => if s then 8 else 9
  | .inf n => if n then 0 else 7
  | .fin n k _ =>
    if k = 0 then (if n then 3 else 4)
    else if k < 2 ^ m.fracBits then (if n then 2 else 5) else (if n then 1 else 6)

def opFclass (f : VOps) (x : LaneIn) : LaneOut :=
  let w := tyWidth f.ty
  pushWord (packElems w ((List.range (tyElems f.ty)).map fun i =>
    2 ^ classBit (fmtOf f.ty) (elemNat w i (srcA f x))))

/-- FRND of one element (R246). -/
def roundIntegral (m : FFmt) (rm : RMode) (xflag : Bool) (c : Nat) : Nat × Flags :=
  match m.decode c with
  | .nan s => (m.nanBits, if s then flNV else 0)
  | .inf _ => (c, 0)
  | .fin n k e =>
    if k = 0 then (c, 0)
    else
      let (v, inexact) := roundInt rm n k e
      ((m.round .rne n v 0).1, if xflag && inexact then flNX else 0)

def opFrnd (f : VOps) (x : LaneIn) : LaneOut :=
  eachFloat f.ty fun i =>
    roundIntegral (fmtOf f.ty) (rmOf f) (f.imm.getLsbD 0) (elemNat (tyWidth f.ty) i (srcA f x))

/-- FSCALE of one element (R247). -/
def scaleElem (m : FFmt) (rm : RMode) (n : Int) (c : Nat) : Nat × Flags :=
  match m.decode c with
  | .fin s k e => if k = 0 then (c, 0) else
      -- beyond these exponents every finite value of the format overflows or falls below half its least value
      m.round rm s k (e + max (-400) (min n 400))
  | v => m.ofVal rm v

/-- An imm8 in source b is an integer, whatever the type. -/
def opFscale (f : VOps) (x : LaneIn) : LaneOut :=
  let n : Word := if f.b = .imm then f.imm.signExtend 32 else x.wb
  eachFloat f.ty fun i => scaleElem (fmtOf f.ty) (rmOf f) n.toInt (elemNat (tyWidth f.ty) i (srcA f x))

/-! ## Conversions (R250 to R253) -/

/-- The element format of a type code as a conversion source or destination. -/
def elemOfTy : Ty → Elem
  | .f16x2 => .f16
  | .bf16x2 => .bf16
  | .d8x4 => .d8
  | .e4m3x4 => .e4m3
  | .f4x8 => .fp4
  | _ => .f32

/-- The exact value of an element of an integer type; f4x8 as INT4 (R253). -/
def intElemVal (t : Ty) (c : Nat) : FVal := intVal (tyWidth t) (tySigned t) c

/-- The mapping of R250: source elements `src` (their number es), destination width and elements ed, group index j,
merge word. -/
def convertGroup (es ed wd j : Nat) (merge : Word) (conv : Nat → Nat × Flags) : LaneOut :=
  if es < ed then
    let rs := (List.range es).map conv
    let fl := rs.foldl (fun fl r => fl ||| r.2) (0 : Flags)
    let cs := (List.range ed).map fun i =>
      if j * es ≤ i ∧ i < j * es + es then ((rs[i - j * es]?).map (·.1)).getD 0 else elemNat wd i merge
    { push := [packElems wd cs], flags := fl }
  else
    let rs := (List.range ed).map fun i => conv (j * ed + i)
    { push := [packElems wd (rs.map (·.1))], flags := rs.foldl (fun fl r => fl ||| r.2) 0 }

/-- The destination type of FCVT and ICVTF. -/
def cvtTy (f : VOps) : Ty := (tyOfCode (f.imm.toNat % 16)).getD .f32

def opFcvt (f : VOps) (x : LaneIn) : LaneOut :=
  let d := cvtTy f
  let w := tyWidth f.ty
  convertGroup (tyElems f.ty) (tyElems d) (tyWidth d) (f.imm.toNat / 32) x.wb fun i =>
    (elemOfTy d).encode (rmOf f) (f.imm.getLsbD 4) ((elemOfTy f.ty).decode (elemNat w i (srcA f x)))

/-- FCVTI of one element (R252). -/
def floatToInt (rm : RMode) (isSigned xflag : Bool) (v : FVal) : Word × Flags :=
  let lo : Int := if isSigned then -(2 ^ 31) else 0
  let hi : Int := if isSigned then 2 ^ 31 - 1 else 2 ^ 32 - 1
  match v with
  | .nan _ => (0, flNV)
  | .inf n => (wordOfInt (if n then lo else hi), flNV)
  | .fin n m e =>
    let (k, inexact) := roundInt rm n m e
    let i := signed n k
    if i < lo then (wordOfInt lo, flNV)
    else if hi < i then (wordOfInt hi, flNV)
    else (wordOfInt i, if xflag && inexact then flNX else 0)

def opFcvti (f : VOps) (x : LaneIn) : LaneOut :=
  let j := f.imm.toNat / 32
  let c := elemNat (tyWidth f.ty) j (srcA f x)
  let (r, fl) := floatToInt (rmOf f) (f.imm.toNat % 16 == 0) (f.imm.getLsbD 4) ((elemOfTy f.ty).decode c)
  { push := [r], flags := fl }

def opIcvtf (f : VOps) (x : LaneIn) : LaneOut :=
  let d := cvtTy f
  let w := tyWidth f.ty
  convertGroup (tyElems f.ty) (tyElems d) (tyWidth d) (f.imm.toNat / 32) x.wb fun i =>
    (elemOfTy d).encode (rmOf f) (f.imm.getLsbD 4) (intElemVal f.ty (elemNat w i x.wa))

/-! ## Block quantisation (R254 to R257) -/

/-- The element formats of R254. -/
def blockElem (c : Nat) : Elem :=
  match c with
  | 0 => .d8
  | 1 => .e4m3
  | 2 => .fp4
  | 3 => .i8
  | _ => .i4

def opQscl (f : VOps) (x : LaneIn) : LaneOut :=
  pushWord (wordOfNat (scaleByte (blockElem (f.imm.toNat % 8)) (fp32.decode (srcA f x).toNat).abs))

def opFpack (f : VOps) (x : LaneIn) : LaneOut :=
  let el := blockElem (f.imm.toNat % 8)
  let s := x.wb.toNat % 256
  convertGroup (tyElems f.ty) (fmtElems (f.imm.toNat % 8)) el.width (f.imm.toNat / 32) x.wc fun i =>
    match scaleDown s ((fmtOf f.ty).decode (elemNat (tyWidth f.ty) i (srcA f x))) with
    | .inf n => if el = .i8 ∨ el = .i4 then ((intEncode el.width (.inf n)).1, flNV)
                else el.encode (rmOf f) (f.imm.getLsbD 4) (.inf n)
    | v => el.encode (rmOf f) (f.imm.getLsbD 4) v

def opFunpk (f : VOps) (x : LaneIn) : LaneOut :=
  let el := blockElem (f.imm.toNat % 8)
  let s := x.wb.toNat % 256
  let m := fmtOf f.ty
  convertGroup (fmtElems (f.imm.toNat % 8)) (tyElems f.ty) (tyWidth f.ty) (f.imm.toNat / 32) 0 fun i =>
    match el.decode (elemNat el.width i x.wa) with
    | .nan _ => (m.nanBits, 0)
    | v => if s = 255 then (m.nanBits, 0) else m.ofVal (rmOf f) (scaleUp s v)

end Sys2Proof.Machine
end

