-- ==== Sys2Proof/Machine/Exchange.lean ====
section
/-! DEFINITION. Lane exchange (R259 to R267) and the rendezvous between two groups (R268 to R270). -/

namespace Sys2Proof.Machine

/-- Source a's words in the lanes of E, with the word lane L reads of lane j (R260). -/
def srcOf (E : LaneMask) (v : Vector DWord 96) (l : Fin 96) (j : Nat) : Word :=
  if h : j < 96 then (if inMask E j then lowWord v[j] else lowWord v[l]) else lowWord v[l]

/-- An instruction that reads lanes of its own group: sources, then one function of all of them per lane. -/
def exchBody (op : Nat) (f : VOps) (wgid : Nat) (fn : Ctx → LaneMask → Vector DWord 96 → Vector DWord 96 → Fin 96 → LaneOut)
    (c : Ctx) : Except Trap Group := do
  c.maskWait
  let E := c.g.exec f.g1 f.g2
  let (a, b, _) ← c.sources wgid E f ((vrule op).uses f)
  let outs := fn c E a b
  return c.g.modLanes E fun l ln => ln.apply c.g.coilD (f.imm.toNat % 8) (outs l)

def exchInstr (op : Nat) (f : VOps) (fn : Ctx → LaneMask → Vector DWord 96 → Vector DWord 96 → Fin 96 → LaneOut) :
    State → Host.Outcome State Fault Refusal :=
  instr (.v op f) fun c s => (exchBody op f (s.wgidOf c) fn c).map fun g => s.setGroup c.core c.slot g

/-- Contributing lanes (R260). -/
def Ctx.contrib (c : Ctx) (E : LaneMask) : LaneMask := E &&& ~~~c.g.helper

/-- QSWP (R261): what a lane pushes. -/
def xQswp (f : VOps) (_ : Ctx) (E : LaneMask) (a _ : Vector DWord 96) (l : Fin 96) : LaneOut :=
  pushWord (srcOf E a l (l.val / 4 * 4 + (l.val % 4 ^^^ (f.mod.toNat % 4 + 1))))
def execQswp (f : VOps) : State → Host.Outcome State Fault Refusal := exchInstr 0x0C0 f (xQswp f)

/-- QBC (R261). -/
def xQbc (f : VOps) (_ : Ctx) (E : LaneMask) (a _ : Vector DWord 96) (l : Fin 96) : LaneOut :=
  pushWord (srcOf E a l (l.val / 4 * 4 + f.imm.toNat))
def execQbc (f : VOps) : State → Host.Outcome State Fault Refusal := exchInstr 0x0C1 f (xQbc f)

/-- Segment widths of SHFL (R259). -/
def segWidth (n : Nat) : Nat := [96, 4, 8, 16, 32, 48].getD n 96

/-- The lane that SHFL reads (R262). -/
def shflLane (mode w l n : Nat) : Option Nat :=
  let base := l - l % w
  let x := l % w
  let j := match mode with
    | 0 => some n
    | 1 => if n ≤ x then some (x - n) else none
    | 2 => some (x + n)
    | _ => some (x ^^^ n)
  match j with
  | some j => if j < w then some (base + j) else none
  | none => none

/-- SHFL (R262). -/
def xShfl (f : VOps) (_ : Ctx) (E : LaneMask) (a b : Vector DWord 96) (l : Fin 96) : LaneOut :=
  pushWord (match shflLane (f.mod.toNat % 4) (segWidth (f.imm.toNat % 8)) l.val (lowWord b[l]).toNat with
    | some j => srcOf E a l j
    | none => lowWord a[l])
def execShfl (f : VOps) : State → Host.Outcome State Fault Refusal := exchInstr 0x0C2 f (xShfl f)

/-- Bit k of a word says whether lane 32w + k is in a set and satisfies a test (R264, R267). -/
def laneBits (m : LaneMask) (w : Nat) (p : Nat → Bool) : Word :=
  maskWord (maskOf fun l => inMask m l && p l) w

/-- The word of source a in a lane by number. -/
def wordAt (v : Vector DWord 96) (l : Nat) : Word := if h : l < 96 then lowWord v[l] else 0

/-- VOTE (R264). -/
def xVote (f : VOps) (c : Ctx) (E : LaneMask) (a _ : Vector DWord 96) (_ : Fin 96) : LaneOut :=
  let C := c.contrib E
  let t (l : Nat) : Bool := wordAt a l != 0
  match f.mod.toNat % 4 with
  | 0 => setPred ((lanesOf C).any fun l => t l.val)
  | 1 => setPred ((lanesOf C).all fun l => t l.val)
  | 2 => setPred (match firstLane C with
      | none => true
      | some l0 => (lanesOf C).all fun l => wordAt a l.val == wordAt a l0.val)
  | _ => pushWord (laneBits C (f.imm.toNat % 4) t)
def execVote (f : VOps) : State → Host.Outcome State Fault Refusal := exchInstr 0x0C3 f (xVote f)

/-- MATCH (R267). -/
def xMatch (f : VOps) (c : Ctx) (E : LaneMask) (a _ : Vector DWord 96) (l : Fin 96) : LaneOut :=
  pushWord (laneBits (c.contrib E) (f.imm.toNat % 4) fun k => wordAt a k == lowWord a[l])
def execMatchLanes (f : VOps) : State → Host.Outcome State Fault Refusal := exchInstr 0x0C6 f (xMatch f)

/-- RDLANE (R261). -/
def xRdlane (f : VOps) (_ : Ctx) (E : LaneMask) (a _ : Vector DWord 96) (l : Fin 96) : LaneOut :=
  pushWord (srcOf E a l f.imm.toNat)
def execRdlane (f : VOps) : State → Host.Outcome State Fault Refusal := exchInstr 0x0C9 f (xRdlane f)

/-! ## Reductions (R42, R43, R265, R266) -/

/-- A partial result: absent, or a code with the flags of the roundings that formed it. -/
abbrev Part1 := Option (Nat × Flags)

def comb1 (op : Nat → Nat → Nat × Flags) : Part1 → Part1 → Part1
  | none, b => b
  | a, none => a
  | some (x, fx), some (y, fy) =>
    let (r, fl) := op x y
    some (r, fx ||| fy ||| fl)

/-- tree(lo, 2^k) of R42. -/
def tree1 (op : Nat → Nat → Nat × Flags) (x : Nat → Part1) : Nat → Nat → Part1
  | 0, lo => x lo
  | k + 1, lo => comb1 op (tree1 op x k lo) (tree1 op x k (lo + 2 ^ k))

/-- The prefix of lanes 0 to n − 1 from the aligned blocks of the tree, largest first (R43). -/
def prefix1 (op : Nat → Nat → Nat × Flags) (x : Nat → Part1) (n : Nat) : Part1 :=
  let whole := n / 32
  let acc := (List.range whole).foldl (fun acc i => comb1 op acc (tree1 op x 5 (32 * i))) none
  let r := n % 32
  ([4, 3, 2, 1, 0].foldl (fun (acc : Part1 × Nat) k =>
    if r / 2 ^ k % 2 = 1 then (comb1 op acc.1 (tree1 op x k acc.2), acc.2 + 2 ^ k) else acc) (acc, 32 * whole)).1

/-- The operation of REDV and SCAN on 32-bit codes (R265). -/
def redOp (f : VOps) (a b : Nat) : Nat × Flags :=
  let op := f.imm.toNat % 8
  if f.ty = .f32 then
    match op with
    | 0 => fp32.add (rmOf f) a b
    | 1 => fp32.minmax false (f.imm.getLsbD 3) a b
    | _ => fp32.minmax true (f.imm.getLsbD 3) a b
  else
    let s := tySigned f.ty
    let x := codeInt s 32 a
    let y := codeInt s 32 b
    (match op with
      | 0 => (a + b) % 2 ^ 32
      | 1 => if x ≤ y then a else b
      | 2 => if x ≤ y then b else a
      | 3 => a &&& b
      | 4 => a ||| b
      | _ => a ^^^ b, 0)

def redIdentity (f : VOps) : Nat :=
  let op := f.imm.toNat % 8
  if f.ty = .f32 then match op with
    | 0 => 0
    | 1 => 0x7F800000
    | _ => 0xFF800000
  else match op with
    | 1 => if f.ty = .i32 then 0x7FFFFFFF else 0xFFFFFFFF
    | 2 => if f.ty = .i32 then 0x80000000 else 0
    | 3 => 0xFFFFFFFF
    | _ => 0

/-- A lane's contribution, after the source-a modifier; a signalling NaN raises NV (R265). -/
def redLeaf (f : VOps) (C : LaneMask) (a : Vector DWord 96) (l : Nat) : Part1 :=
  if inMask C l then
    let w := if f.ty = .f32 then modElem (f.mod.toNat / 4) 32 false (wordAt a l).toNat else (wordAt a l).toNat
    some (w, if f.ty = .f32 then sigFlag [fp32.decode w] else 0)
  else none

/-- The result of a partial result: the identity if absent, the canonical NaN for a NaN. -/
def redOut (f : VOps) : Part1 → LaneOut
  | none => pushWord (wordOfNat (redIdentity f))
  | some (x, fl) =>
    { push := [wordOfNat (if f.ty = .f32 ∧ (fp32.decode x).isNan then fp32.nanBits else x)], flags := fl }

/-- REDV (R265). -/
def xRedv (f : VOps) (c : Ctx) (E : LaneMask) (a _ : Vector DWord 96) : Fin 96 → LaneOut :=
  let o := redOut f (prefix1 (redOp f) (redLeaf f (c.contrib E) a) 96)
  fun _ => o
def execRedv (f : VOps) : State → Host.Outcome State Fault Refusal := exchInstr 0x0C4 f (xRedv f)

/-- SCAN (R266). -/
def xScan (f : VOps) (c : Ctx) (E : LaneMask) (a _ : Vector DWord 96) (l : Fin 96) : LaneOut :=
  redOut f (prefix1 (redOp f) (redLeaf f (c.contrib E) a) (if f.imm.getLsbD 4 then l.val else l.val + 1))
def execScan (f : VOps) : State → Host.Outcome State Fault Refusal := exchInstr 0x0C5 f (xScan f)

/-- WRLANE (R263). -/
def wrlaneBody (f : VOps) (wgid : Nat) (c : Ctx) : Except Trap Group := do
  c.maskWait
  let E := c.g.exec f.g1 f.g2
  let (_, b, _) ← c.sources wgid E f ((vrule 0x0CA).uses f)
  let n := match f.a with
    | .frame n => n.val
    | _ => 0
  let one := maskOf fun l => l == f.imm.toNat && inMask E l
  c.framePending one n
  return c.g.modLanes one fun l ln => { ln with act := ln.act.setFr n (.word (lowWord b[l])) }

def execWrlane (f : VOps) : State → Host.Outcome State Fault Refusal :=
  instr (.v 0x0CA f) fun c s => (wrlaneBody f (s.wgidOf c) c).map fun g => s.setGroup c.core c.slot g

/-! ## Rendezvous (R268 to R270) -/

def fcXchg : Nat := 0x34

/-- Whether another started group of the workgroup remains unretired (R270). -/
def State.hasPartner (s : State) (core slot wg : Nat) : Bool := (s.wgGroups core wg).any fun p => p.2 != slot

/-- The executing set and values with which a group waits at a slot. -/
def Group.rendez (g : Group) (n : Nat) : Option (Bool × LaneMask × List Word) :=
  match g.resume with
  | .send m E vs => if m = n then some (true, E, vs) else none
  | .recv m E _ => if m = n then some (false, E, []) else none
  | _ => none

/-- Push a sender's values in the lanes of E. -/
def Group.pushSent (g : Group) (E : LaneMask) (vs : List Word) : Group :=
  g.modLanes E fun l ln => ln.pushAll g.coilD [.word (vs.getD l.val 0)]

/-- What a receiver gets at a rendezvous (R269): a halted receiver whose rows are claimed is owed them until it
resumes. -/
def Group.receive (g : Group) (E : LaneMask) (vs : List Word) : Group :=
  if g.claimed.isEmpty then g.pushSent E vs else { g with owed := g.owed ++ [(E, vs)] }

/-- A waiting party continues at its next instruction. -/
def Group.goNext (g : Group) : Group :=
  { g with pc := (g.pc.next g.sv).getD ⟨g.pc.bundle + 64, 1⟩, wait := {}, resume := .none, waitDone := false,
           miss := none, completing := false }

/-- Pushes made since a group was `old`, when a wait ended or its context came back, are numbered and counted as an issue's are
(R155, R160). -/
def State.stampLate (s : State) (core slot : Nat) (old : Group) : State :=
  match s.group? core slot with
  | none => s
  | some g =>
    let h := g.stamp fun l => (old.lane l).act.P
    (s.setGroup core slot h).count core g.vf 5 (old.evicted h)

/-- A change of a group that pushes so. -/
def State.pushLate (s : State) (core slot : Nat) (f : Group → Group) : State :=
  match s.group? core slot with
  | none => s
  | some g => (s.setGroup core slot (f g)).stampLate core slot g

/-- A waiting group, changed so, continues at its next instruction; a debug step is over then (R448). -/
def State.goNextWith (s : State) (core slot : Nat) (f : Group → Group) : State :=
  ((s.pushLate core slot f).modGroup core slot Group.goNext).stepDone core slot

/-- A slot's state. -/
def State.xslot (s : State) (core wg n : Nat) : XSlot :=
  match s.wg? core wg with
  | some w => nget .empty w.xslots n
  | none => .empty

/-- Store a slot's state. -/
def State.setXslot (s : State) (core wg n : Nat) (x : XSlot) : State :=
  s.modWg core wg fun w => { w with xslots := nset .empty w.xslots n x }

/-- A parked group whose function is stopping stops where it is (R415). -/
def State.stopParked (s : State) (core slot : Nat) (g : Group) : State :=
  if (s.vf g.vf).pstate = .stopping ∧ g.gstate = .running then s.haltGroup core slot {} else s

/-- A rendezvous of the issuing group (executing set E; values to send, or none to receive) with a partner's slot. A parked partner
whose function is stopping stops first (R415). Where the sets differ both fault, the waiting party first (DESIGN CHOICE,
assumption 92). -/
def State.meet (s : State) (c : Ctx) (n partner : Nat) (E : LaneMask) (vs : Option (List Word)) : Except Trap State :=
  match s.group? c.core partner with
  | none => .error .stall
  | some p => match p.rendez n with
    | none => .error .stall
    | some (_, E', pv) =>
      let s := (s.setXslot c.core c.g.wg n .empty).stopParked c.core partner p
      if E' ≠ E then
        let s := match s.ctxOf c.core partner with
          | some d => s.precise d fcXchg 2 (BitVec.ofNat 64 (n + c.g.wgn * 2 ^ 8)) E'
          | none => s
        .error (.out (s.precise c fcXchg 2 (BitVec.ofNat 64 (n + p.wgn * 2 ^ 8)) E))
      else
        match vs with
        | some vs => .ok (s.goNextWith c.core partner fun g => g.receive E vs)
        | none => .ok ((s.goNextWith c.core partner id).modGroup c.core c.slot fun g => g.receive E pv)

/-- Wait at an empty slot: the group parks at the instruction and its issue is counted (R163, R269). Only WAITT on a timeline and
TALLOC give SUB a value; no other kind has a port or a rank to name (DESIGN CHOICE, assumption 95). -/
def State.waitSlot (s : State) (c : Ctx) (i : Form) (n kind : Nat) (x : XSlot) (r : Resume) : State :=
  ((s.setXslot c.core c.g.wg n x).modGroup c.core c.slot fun g =>
    { g with wait := { kind := kind, obj := BitVec.ofNat 64 n }, waitPC := g.pc.word, resume := r, waitDone := false }).issued c i

/-- Earlier loads have their values, and an acquire among them is performed: what a read of memory at issue and the issue of an
engine command wait for (R316 to R318). -/
def Ctx.loadsDone (c : Ctx) : Except Trap Unit := if c.g.loads.isEmpty then .ok () else .error .stall

/-- Earlier loads have their values and earlier stores are performed: what a release waits for at issue (R316, R318). -/
def Ctx.quiet (c : Ctx) : Except Trap Unit :=
  if c.g.sq.isEmpty && c.g.loads.isEmpty then .ok () else .error .stall

/-- XSEND (R269), a release at workgroup scope, which acts even when E is empty. -/
def execXsend (f : VOps) : State → Host.Outcome State Fault Refusal := instr (.v 0x0C7 f) fun c s => do
  c.maskWait
  let E := c.g.exec f.g1 f.g2
  let (a, _, _) ← c.sources (s.wgidOf c) E f ((vrule 0x0C7).uses f)
  c.notInHandler E (wordV 0x0C7 f)
  let n := f.imm.toNat % 16
  if !s.hasPartner c.core c.slot c.g.wg then raise fcXchg 3 (BitVec.ofNat 64 n) E
  let _ ← c.nextPc
  let vs := a.toList.map lowWord
  match s.xslot c.core c.g.wg n with
  | .sending _ => raise fcXchg 1 (BitVec.ofNat 64 n) E
  | .receiving p => do
    c.quiet
    s.meet c n p E (some vs)
  | .empty => do
    c.quiet
    .error (.out (s.waitSlot c (.v 0x0C7 f) n 0x0C (.sending c.slot) (.send n E vs)))

/-- XRECV (R269), which acts even when E is empty. -/
def execXrecv (f : VOps) : State → Host.Outcome State Fault Refusal := instr (.v 0x0C8 f) fun c s => do
  c.maskReady
  let E := c.g.exec f.g1 f.g2
  c.notInHandler E (wordV 0x0C8 f)
  let n := f.imm.toNat % 16
  if !s.hasPartner c.core c.slot c.g.wg then raise fcXchg 3 (BitVec.ofNat 64 n) E
  let _ ← c.nextPc
  match s.xslot c.core c.g.wg n with
  | .receiving _ => raise fcXchg 1 (BitVec.ofNat 64 n) E
  | .sending p => s.meet c n p E none
  | .empty => .error (.out (s.waitSlot c (.v 0x0C8 f) n 0x0D (.receiving c.slot) (.recv n E 0)))

end Sys2Proof.Machine
end

