-- ==== Sys2Proof/Machine/Scalar.lean ====
section
/-! DEFINITION. The scalar instructions that touch no memory (R228 to R233, R235, R236): one result, computed from the
sources of a scalar name, written to s[SD]. -/

namespace Sys2Proof.Machine

/-- W of R228. -/
def sWidth (t : Ty) : Nat := if tyPair t then 64 else 32
def sSigned (t : Ty) : Bool := t == .i32 || t == .i64

/-- A source as the type reads it. -/
def sInt (t : Ty) (x : DWord) : Int := codeInt (sSigned t) (sWidth t) (x.toNat % 2 ^ sWidth t)
def sNat (t : Ty) (x : DWord) : Nat := x.toNat % 2 ^ sWidth t

/-- A result mod 2^W, extended to 64 bits (R228). -/
def sExtend (t : Ty) (v : Int) : DWord := BitVec.ofInt 64 (codeInt (sSigned t) (sWidth t) (wrapNat (sWidth t) v))

def sAddV (t : Ty) (x y : DWord) : DWord := sExtend t (sInt t x + sInt t y)
def sSubV (t : Ty) (x y : DWord) : DWord := sExtend t (sInt t x - sInt t y)
def sMulV (t : Ty) (x y : DWord) : DWord := sExtend t (sInt t x * sInt t y)
def sAndV (t : Ty) (x y : DWord) : DWord := sExtend t (sNat t (x &&& y))
def sOrV (t : Ty) (x y : DWord) : DWord := sExtend t (sNat t (x ||| y))
def sXorV (t : Ty) (x y : DWord) : DWord := sExtend t (sNat t (x ^^^ y))
def sMinV (t : Ty) (x y : DWord) : DWord := sExtend t (min (sInt t x) (sInt t y))
def sMaxV (t : Ty) (x y : DWord) : DWord := sExtend t (max (sInt t x) (sInt t y))
def sShlV (t : Ty) (x y : DWord) : DWord :=
  sExtend t (if sNat t y < sWidth t then (sNat t x * 2 ^ sNat t y : Nat) else 0)
def sShrV (t : Ty) (x y : DWord) : DWord :=
  sExtend t (if sNat t y < sWidth t then (sNat t x / 2 ^ sNat t y : Nat) else 0)
def sSarV (t : Ty) (x y : DWord) : DWord :=
  let v := codeInt true (sWidth t) (sNat t x)
  sExtend t (if sNat t y < sWidth t then v.fdiv (2 ^ sNat t y : Nat) else if v < 0 then -1 else 0)
def sPopcV (t : Ty) (x _ : DWord) : DWord := sExtend t (popCount (sWidth t) (sNat t x))
def sClzV (t : Ty) (x _ : DWord) : DWord := sExtend t (leadZeros (sWidth t) (sNat t x))
def sBfxV (t : Ty) (x y : DWord) : DWord := sExtend t (bitField (sSigned t) (sWidth t) (sNat t x) y.toNat)

/-- The three sources (R81), in the order of their fields. -/
def Ctx.ssources (c : Ctx) (wgid : Nat) (op : Nat) (f : SOps) : Except Trap (DWord × DWord × DWord) := do
  let r := srule op
  let rd (used : Bool) (x : SName) : Except Trap DWord :=
    if used then c.need c.g.mask (c.sname wgid f.imm x) else .ok 0
  return (← rd (r.a f) f.a, ← rd (r.b f) f.b, ← rd (r.c f) f.c)

/-- A scalar instruction: nothing when E is empty (R64); else its result to s[SD]. -/
def scalarBody (op : Nat) (f : SOps) (fn : Ctx → DWord → DWord → DWord → DWord) (wgid : Nat) (c : Ctx) :
    Except Trap Group := do
  c.maskReady
  if c.g.exec f.g1 f.g2 = 0 then return c.g
  let (a, b, t) ← c.ssources wgid op f
  c.freeS f.d.val
  writeS c.g f.d.val (fn c a b t)

def scalarInstr (op : Nat) (f : SOps) (fn : Ctx → DWord → DWord → DWord → DWord) :
    State → Host.Outcome State Fault Refusal :=
  instr (.s op f) fun c s => (scalarBody op f fn (s.wgidOf c) c).map fun g => s.setGroup c.core c.slot g

/-- SADD (R230). -/
def execSadd (f : SOps) : State → Host.Outcome State Fault Refusal :=
  scalarInstr 0x0E0 f fun _ a b _ => sAddV f.ty a b

/-- SSUB (R230). -/
def execSsub (f : SOps) : State → Host.Outcome State Fault Refusal :=
  scalarInstr 0x0E1 f fun _ a b _ => sSubV f.ty a b

/-- SMUL (R230). -/
def execSmul (f : SOps) : State → Host.Outcome State Fault Refusal :=
  scalarInstr 0x0E2 f fun _ a b _ => sMulV f.ty a b

/-- SAND (R230). -/
def execSand (f : SOps) : State → Host.Outcome State Fault Refusal :=
  scalarInstr 0x0E3 f fun _ a b _ => sAndV f.ty a b

/-- SOR (R230). -/
def execSor (f : SOps) : State → Host.Outcome State Fault Refusal :=
  scalarInstr 0x0E4 f fun _ a b _ => sOrV f.ty a b

/-- SXOR (R230). -/
def execSxor (f : SOps) : State → Host.Outcome State Fault Refusal :=
  scalarInstr 0x0E5 f fun _ a b _ => sXorV f.ty a b

/-- SSHL (R230). -/
def execSshl (f : SOps) : State → Host.Outcome State Fault Refusal :=
  scalarInstr 0x0E6 f fun _ a b _ => sShlV f.ty a b

/-- SSHR (R230). -/
def execSshr (f : SOps) : State → Host.Outcome State Fault Refusal :=
  scalarInstr 0x0E7 f fun _ a b _ => sShrV f.ty a b

/-- SSAR (R230). -/
def execSsar (f : SOps) : State → Host.Outcome State Fault Refusal :=
  scalarInstr 0x0E8 f fun _ a b _ => sSarV f.ty a b

/-- SMIN (R230). -/
def execSmin (f : SOps) : State → Host.Outcome State Fault Refusal :=
  scalarInstr 0x0E9 f fun _ a b _ => sMinV f.ty a b

/-- SMAX (R230). -/
def execSmax (f : SOps) : State → Host.Outcome State Fault Refusal :=
  scalarInstr 0x0EA f fun _ a b _ => sMaxV f.ty a b

/-- SPOPC (R230). -/
def execSpopc (f : SOps) : State → Host.Outcome State Fault Refusal :=
  scalarInstr 0x0F1 f fun _ a b _ => sPopcV f.ty a b

/-- SCLZ (R230). -/
def execSclz (f : SOps) : State → Host.Outcome State Fault Refusal :=
  scalarInstr 0x0F2 f fun _ a b _ => sClzV f.ty a b

/-- SBFX (R230). -/
def execSbfx (f : SOps) : State → Host.Outcome State Fault Refusal :=
  scalarInstr 0x0F4 f fun _ a b _ => sBfxV f.ty a b

/-- SCMP (R231): the truth value goes to s[SD] and to predicate pd in each lane of E. -/
def scmpBody (f : SOps) (wgid : Nat) (c : Ctx) : Except Trap Group := do
  c.maskReady
  let E := c.g.exec f.g1 f.g2
  if E = 0 then return c.g
  let (a, b, _) ← c.ssources wgid 0x0EB f
  c.freeS f.d.val
  let r := intCond (f.mod.toNat % 8) (sInt f.ty a) (sInt f.ty b)
  writeS (c.g.modLanes E fun _ ln => ln.setP (f.imm.toNat % 8) r) f.d.val (if r then 1 else 0)

def execScmp (f : SOps) : State → Host.Outcome State Fault Refusal :=
  instr (.s 0x0EB f) fun c s => (scmpBody f (s.wgidOf c) c).map fun g => s.setGroup c.core c.slot g

/-- SSEL (R232). -/
def execSsel (f : SOps) : State → Host.Outcome State Fault Refusal :=
  scalarInstr 0x0EC f fun _ a b t => if t ≠ 0 then a else b

/-- SMOVK (R232): an index of 128 or more reads zero. -/
def execSmovk (f : SOps) : State → Host.Outcome State Fault Refusal :=
  scalarInstr 0x0ED f fun c a _ _ =>
    let n := (a + f.imm.setWidth 64).toNat
    if n < 128 then c.kreg n else 0

/-- SMOVS (R236). -/
def execSmovs (f : SOps) : State → Host.Outcome State Fault Refusal :=
  scalarInstr 0x0F3 f fun c a _ _ =>
    match f.mod.toNat with
    | 0 => a
    | 1 => a &&& (maskWord c.g.members (f.d.val - 61)).setWidth 64
    | _ => (maskWord c.g.members (f.imm.toNat % 4)).setWidth 64

/-- SMOVI (R233). -/
def smoviBody (f : SmoviOps) (c : Ctx) : Except Trap Group := do
  c.maskReady
  if c.g.exec f.g1 f.g2 = 0 then return c.g
  c.freeS f.d.val
  let v : DWord := if f.hi then f.lit ++ lowWord (c.g.sreg f.d.val)
    else if f.ty = .i32 then f.lit.signExtend 64 else f.lit.setWidth 64
  let g ← writeS c.g f.d.val v
  return if f.hi then { g with spoison := c.g.spoison } else g

def execSmovi (f : SmoviOps) : State → Host.Outcome State Fault Refusal := localInstr (.smovi f) (smoviBody f)

end Sys2Proof.Machine
end

