-- ==== Sys2Proof/Machine/Memory.lean ====
section
/-! DEFINITION. The memory instructions (R234, R301 to R313), the store queue (R306), pending loads (R304, R281) and the
events that land a load and drain a beat. -/

namespace Sys2Proof.Machine

/-! ## Addresses and checks (R74, R302) -/

/-- One lane's access after its checks. -/
structure LaneAt where
  lane : Nat
  loc : Loc
  ty : Nat
  va : DWord
deriving DecidableEq, Repr

/-- The effective address of a lane (R74). -/
def effAddr (base : DWord) (o : DWord) (scale : Nat) (disp : BitVec 8) (size : Nat) : DWord :=
  base + (lowWord o).signExtend 64 * BitVec.ofNat 64 scale + disp.signExtend 64 * BitVec.ofNat 64 size

/-- Addresses of the lanes of E, after steps 2 and 3 of R66 for OFS and `nd` words of DATA. -/
def Ctx.addresses (c : Ctx) (wgid : Nat) (E : LaneMask) (f : MOps) (scale size nd : Nat) :
    Except Trap (Vector DWord 96) := do
  c.checkNames E ([(f.ofs, 1), (f.data, nd)].filter fun p => p.2 != 0)
  let base ← if E = 0 then .ok 0 else c.readS f.base.val
  let o ← c.readLanes E (c.vsrc wgid .n32 0 false f.ofs)
  return o.map fun x => effAddr base x scale f.disp size

/-- Checks of every lane of a mask. -/
def State.checks (s : State) (c : Ctx) (m : LaneMask) (w : Want) (a : Vector DWord 96) : List (Nat × DWord × Chk) :=
  (lanesOf m).map fun l => (l.val, a[l], s.check c.req w a[l])

/-- The first check that fails in any lane (R302): its precise fault, or the page faults of all lanes; the walks that these
accesses caused have been made. -/
def State.judge (s : State) (c : Ctx) (write : Bool) (cs : List (Nat × DWord × Chk)) : Except Trap Unit :=
  let r := cs.foldl (fun r p => min r p.2.2.rank) 100
  let fails := cs.filter fun p => p.2.2.rank == r
  let m := maskOf fun l => fails.any fun p => p.1 == l
  let s := if 6 ≤ r ∧ r < 100 then cs.foldl (fun s p => s.walkMarks c.core c.g.vf p.2.1.toNat) s else s
  match fails.head? with
  | none => .ok ()
  | some (_, a, k) => match k with
    | .ok .. => .ok ()
    | .bad rk code sub => .error (s.failAt c rk code sub a m)
    | .miss st x l =>
      let acc := if write then 1 else 0
      let s := fails.foldl (fun s p => match p.2.2 with
        | .miss st x l => s.pageFault (c.miss acc c.g.pc.word p.2.1 st x l)
        | _ => s) s
      .error (c.pageTrap s acc a st x l)

/-- The lanes whose checks pass, with their places. -/
def placed (cs : List (Nat × DWord × Chk)) : List LaneAt :=
  cs.filterMap fun p => match p.2.2 with
    | .ok loc ty => some ⟨p.1, loc, ty, p.2.1⟩
    | _ => none

/-- An access to a page whose bias is being flipped waits (R292). -/
def State.noFlip (s : State) (ls : List LaneAt) : Except Trap Unit :=
  if ls.any fun p => s.flipping p.loc then .error .stall else .ok ()

/-- A and D bits, the dirty-page log and the TLBs for accesses that stand (R295, R434). -/
def State.touchAll (s : State) (c : Ctx) (write : Bool) (ls : List LaneAt) : State :=
  ls.foldl (fun s p => match p.loc with
    | .phys _ => s.touch c.core c.g.vf (p.va.toNat % 2 ^ 57) write 0
    | _ => s) s

/-! ## The store queue (R306) -/

def Loc.overlaps (a : Loc) (n : Nat) (b : Loc) (m : Nat) : Bool :=
  decide (locKey a < locKey b + m) && decide (locKey b < locKey a + n)

/-- The youngest byte queued for a key before a stamp. -/
def queuedByte (sq : List Beat) (stamp key : Nat) : Option Byte :=
  sq.foldl (fun r b =>
    if b.op = .store ∧ b.stamp < stamp then
      b.elems.foldl (fun r e =>
        if locKey e.loc ≤ key ∧ key < locKey e.loc + e.size
        then some (BitVec.ofNat 8 (e.data.toNat / 2 ^ (8 * (key - locKey e.loc)))) else r) r
    else r) none

def Beat.isStore (b : Beat) : Bool := b.op == .store

/-- A load that names bytes of a queued atomic waits at issue. -/
def Group.behindAtomic (g : Group) (loc : Loc) (n : Nat) : Bool :=
  g.sq.any fun b => !b.isStore && b.elems.any fun e => e.loc.overlaps e.size loc n

/-! ## Miss slots (R426) -/

/-- Whether a request goes from the cluster's L1 towards L2 or beyond. -/
def PendReq.needsSlot (q : PendReq) : Bool := !q.hit && q.locs.any fun l => match l with
  | .phys _ => true
  | _ => false

/-- The requests of a cluster's groups that hold slots, or wait for one, as (core, slot, function, request). -/
def State.slotReqs (s : State) (cl : Nat) (held : Bool) : List (Nat × Nat × Nat × PendReq) :=
  (List.range 4).flatMap fun i => (s.core (4 * cl + i)).groups.flatMap fun p =>
    (p.2.pends.filter fun q => q.needsSlot && q.slot == held).map fun q => (4 * cl + i, p.1, p.2.vf, q)

def State.missCap (s : State) (cl ctx : Nat) : Nat := fld (s.pr (0x5C0000 + 0x1000 * cl + 8 * ctx)) 0 9

/-- The requests of a beat: one for each of its lines of memory. -/
def Beat.requests (b : Beat) : Nat :=
  (b.elems.filterMap fun e => match e.loc with
    | .phys pa => some (lineOf pa)
    | _ => none).eraseDups.length

/-- The oldest beat of a group where nothing but a slot may keep it: no earlier load still awaits its value (R316), and its
lines are there (R281). -/
def State.beatReady (s : State) (g : Group) : Option Beat :=
  g.sq.head?.filter fun b =>
    (g.loads.all fun p => decide (b.stamp ≤ p.stamp)) && b.elems.all fun e => !s.absentLine e.loc

/-- The slots that a context's n requests take of its cap and of the cluster's. A beat whose lines are more than its context's
cap sends the rest as the first return. -/
def State.slotNeed (s : State) (cl ctx n : Nat) : Nat := min n (min 256 (s.missCap cl ctx))

/-- The beats of a cluster that stand at the memory pipe before a request, with their functions and the slots they need. -/
def State.beatsBefore (s : State) (cl id : Nat) : List (Nat × Nat) :=
  (List.range 4).flatMap fun i => (s.core (4 * cl + i)).groups.filterMap fun p =>
    ((s.beatReady p.2).filter fun b => decide (b.stamp < id)).map fun b => (p.2.vf, s.slotNeed cl p.2.vf b.requests)

/-- A cluster has slots for n requests of a context, after those that hold one and after the older beats. -/
def State.slotFree (s : State) (cl ctx id n : Nat) : Bool :=
  let held := s.slotReqs cl true
  let older := s.beatsBefore cl id
  let own := (older.filter fun b => b.1 == ctx).map (·.2)
  decide (held.length + (older.map (·.2)).sum + s.slotNeed cl ctx n ≤ 256) &&
    decide ((held.filter fun r => r.2.2.1 == ctx).length + own.sum + s.slotNeed cl ctx n ≤ s.missCap cl ctx)

/-- The waiting request with the least number among those that a test admits. -/
def oldestReq (ok : Nat → Nat → Bool) (rs : List (Nat × Nat × Nat × PendReq)) : Option (Nat × Nat × Nat × PendReq) :=
  rs.foldl (fun r x => if !ok x.2.2.1 x.2.2.2.id then r else match r with
    | some y => if x.2.2.2.id < y.2.2.2.id then some x else r
    | none => some x) none

/-- Waiting requests of a cluster receive slots, oldest first. -/
def State.grantSlots (s : State) (cl : Nat) : Nat → State
  | 0 => s
  | n + 1 => match oldestReq (fun ctx id => s.slotFree cl ctx id 1) (s.slotReqs cl false) with
    | none => s
    | some (core, slot, _, q) =>
      (s.modGroup core slot fun g => { g with pends := g.pends.map fun p => if p.id = q.id then { p with slot := true } else p }).grantSlots cl n

def State.settleSlots (s : State) (cl : Nat) : State := s.grantSlots cl (s.slotReqs cl false).length

/-- A request joins its group's, and takes a miss slot if it needs one and one is free. -/
def State.sendReq (s : State) (core slot : Nat) (q : PendReq) : State :=
  (s.modGroup core slot fun g => { g with pends := g.pends ++ [{ q with slot := !q.needsSlot }] }).settleSlots (core / 4)

/-- Room for n beats, or a wait at issue. -/
def Group.room (g : Group) (n : Nat) : Except Trap Unit :=
  if 32 < g.sq.length + n then .error .stall else .ok ()

/-- An access scope's acquire of R318 by an order code. -/
def orderAcq (order : BitVec 2) (sc : Scope) : Option Scope := if order.getLsbD 0 then some sc else none

/-! ## Loads (R281, R304) -/

def State.viaOf (s : State) (line : Bool) (loc : Loc) (ty : Nat) : Via :=
  match loc with
  | .phys pa => if ty = 2 then .uncached else if line then .slice (s.l2Caches pa ty) else .l1 (s.l2Caches pa ty)
  | _ => .uncached

/-- Bytes of a location as a load sees them beneath the store queue, with whether a byte is poisoned. -/
def State.seen (s : State) (core ctx : Nat) (via : Via) (loc : Loc) (n : Nat) : List (Byte × Bool) :=
  let mem : List (Byte × Bool) :=
    (List.range n).zipWith (fun i b => (b, s.poisoned (loc.add i) 1)) (s.readLoc loc n)
  match loc, via with
  | .phys pa, .l1 _ => match (s.core core).l1Find ctx pa with
    | some l => (List.range n).map fun i => (l.data.getD (pa % 128 + i) 0, l.poisoned.contains (pa % 128 + i))
    | none => mem
  | _, _ => mem

/-- Zero- or sign-extend the low n bytes. -/
def extend (sext : Bool) (n v : Nat) : DWord := BitVec.ofInt 64 (codeInt sext (8 * n) v)

/-- The value of one part of a load: queued bytes over memory; none where a byte of memory it takes is poisoned, and zero then
for a helper lane (R303). -/
def State.partValue (s : State) (core ctx : Nat) (via : Via) (sq : List Beat) (stamp : Nat) (p : LoadPart) :
    Option DWord :=
  let under := s.seen core ctx via p.loc p.size
  let bs := (List.range p.size).zipWith (fun i (u : Byte × Bool) => match queuedByte sq stamp (locKey p.loc + i) with
    | some b => (b, false)
    | none => u) under
  if bs.any fun b => b.2 then (if p.help then some 0 else none) else some (extend p.sext p.size (leNat (bs.map (·.1))))

/-- A place whose data is at hand: a present line of the core's own scratchpad, or an L1 hit (R148, R304). -/
def State.atHand (s : State) (core ctx : Nat) (via : Via) (loc : Loc) : Bool :=
  match loc with
  | .spad c _ _ => c == core && !s.absentLine loc
  | .phys pa => (match via with
    | .l1 _ => true
    | _ => false) && ((s.core core).l1Find ctx pa).isSome
  | _ => false

def DWord.line (a : DWord) : DWord := a &&& ~~~(127#64)

def wordVal (pc : DWord) : Option DWord → Val
  | some v => .word (lowWord v)
  | none => .poison pc

/-- The distinct lines of some accesses, in order of their first lane. -/
def linesOf (ls : List LaneAt) : List Nat := (ls.map fun p => locKey p.loc / 128).eraseDups

/-- Count an L1 lookup of the issuing group as a hit or a miss (R413). -/
def State.lookup (s : State) (c : Ctx) (via : Via) (loc : Loc) (hit : Bool) : State :=
  match loc, via with
  | .phys _, .l1 _ => s.count c.core c.g.vf (if hit then 8 else 9) 1
  | _, _ => s

/-- The accesses of a load that are one event each: by lines for LD, by beats for LDL (R304, R307). -/
def loadEvents (line : Bool) (ls : List LaneAt) : List (List LaneAt) :=
  if line then ((List.range 3).map fun w => ls.filter fun p => p.lane / 32 == w).filter fun l => !l.isEmpty
  else (linesOf ls).map fun key => ls.filter fun p => locKey p.loc / 128 == key

/-- The acquire of a load whose E is not empty (R64, R318). -/
def loadAcq (E : LaneMask) (f : MOps) : Option Scope := if E = 0 then none else orderAcq f.order f.scope

/-- Issue the accesses of one load: the state, and each lane's value or reserved slot. The beats of an LDL are performed in
order, so none of them takes its value before an earlier one. -/
def State.issueLoad (s : State) (c : Ctx) (size : Nat) (sext line : Bool) (acq : Option Scope) (hint : Nat)
    (ls : List LaneAt) : State × List (Nat × Val) :=
  let g := c.g
  let s := s.touchAll c false ls
  let part (q : LaneAt) : LoadPart := ⟨q.lane, q.loc, size, sext, inMask g.helper q.lane⟩
  let (s, vals, _) := (loadEvents line ls).foldl (fun (r : State × List (Nat × Val) × Bool) mine =>
    let (s, out, busy) := r
    match mine.head? with
    | none => r
    | some p =>
      let via := s.viaOf line p.loc p.ty
      let hand := s.atHand c.core g.vf via p.loc
      let s := s.lookup c via p.loc hand
      if hand && !busy then
        let vals := mine.map fun q => (q.lane, wordVal c.g.pc.word (s.partValue c.core g.vf via g.sq s.nextId (part q)))
        (s.loadLine c.core g.part g.vf via hint p.loc, out ++ vals, busy)
      else
        let (id, s) := s.newId
        let q : PendReq := { id := id, kind := if s.absentLine p.loc then 1 else 2, obj := DWord.line p.va,
                             pc := g.pc.word, stamp := id, hint := hint, via := via, acq := acq,
                             dest := .lanes (mine.map part), hit := hand }
        (s.sendReq c.core c.slot q, out ++ mine.map fun q => (q.lane, Val.pend id q.lane), busy || line))
    (s, [], !g.loads.isEmpty)
  match acq with
  | some sc => (s.acquire c.core g.vf sc, vals)
  | none => (s, vals)

/-- Push a value per lane of E. -/
def State.pushVals (s : State) (c : Ctx) (E : LaneMask) (v : Fin 96 → List Val) : State :=
  s.modGroup c.core c.slot fun g => g.modLanes E fun l ln => ln.pushAll g.coilD (v l)

def valIn (vals : List (Nat × Val)) (l : Nat) : Val :=
  match vals.find? fun p => p.1 == l with
  | some p => p.2
  | none => .word 0

/-- Bytes of a SIZE code (R72). -/
def sizeBytes (n : Nat) : Nat := [1, 1, 2, 2, 4, 8].getD n 4

/-- A lane-private place's frame slot. -/
def privSlot : Loc → Option Nat
  | .priv o => some o
  | _ => none

/-- Lanes of some accesses as a mask. -/
def lanesAt (ls : List LaneAt) : LaneMask := maskOf fun l => ls.any fun p => p.lane == l

def privLanes (ls : List LaneAt) : LaneMask := lanesAt (ls.filter fun p => (privSlot p.loc).isSome)

def privOfs (ls : List LaneAt) (l : Nat) : Nat :=
  match ls.find? fun p => p.lane == l with
  | some p => (privSlot p.loc).getD 0
  | none => 0

/-- LD (R304). -/
def execLd (f : MOps) : State → Host.Outcome State Fault Refusal := instr (.m 0x100 f) fun c s => do
  c.maskWait
  let E := c.g.exec f.g1 f.g2
  let size := sizeBytes f.size.toNat
  let sext := f.size.getLsbD 0
  let a ← c.addresses (s.wgidOf c) E f (2 ^ f.scale.toNat) size 0
  let w : Want := { priv := true, size := size, write := false, uncached := true }
  s.judge c false (s.checks c (E &&& ~~~c.g.helper) w a)
  let ls := placed (s.checks c E w a)
  s.noFlip ls
  if ls.any fun p => c.g.behindAtomic p.loc size then .error .stall
  else
    let P := privLanes ls
    let pv ← c.readLanes P fun l => match (c.g.lane l).act.fr (privOfs ls l.val / 4) with
      | .poison pc => if inMask c.g.helper l.val then .val 0 else .bad pc
      | v => v.opnd
    let zeros := ((lanesOf P).filter fun l => (c.g.lane l).act.fr (privOfs ls l.val / 4) == .word 0).length
    let (s, vals) := (s.count c.core c.g.vf 4 zeros).issueLoad c size sext false (loadAcq E f) f.hint.toNat
      (ls.filter fun p => (privSlot p.loc).isNone)
    return s.pushVals c E fun l =>
      if inMask P l.val then
        [.word (lowWord (extend sext size (pv[l].toNat / 2 ^ (8 * (privOfs ls l.val % 4)) % 2 ^ (8 * size))))]
      else [valIn vals l.val]

/-! ## Stores (R305) -/

/-- Whether L2 caches a place of a memory type. -/
def State.l2At (s : State) (loc : Loc) (ty : Nat) : Bool :=
  match loc with
  | .phys pa => s.l2Caches pa ty
  | _ => false

/-- A beat of each mask word that holds an element, in beat order. -/
def beatsFrom (op : BeatOp) (order : Nat) (sc : Scope) (hint : Nat) (stamp : Nat) (pc : DWord) (es : List SqElem) :
    List Beat :=
  (List.range 3).filterMap fun w =>
    let mine := es.filter fun e => e.lane / 32 == w
    if mine.isEmpty then none else some ⟨op, mine, order, sc, hint, stamp, pc⟩

/-- Put beats at the end of the group's store queue. -/
def State.enqueue (s : State) (c : Ctx) (bs : List Beat) : State :=
  s.modGroup c.core c.slot fun g => { g with sq := g.sq ++ bs }

/-- Write bytes of a frame slot; a partial write of poisoned data leaves it poisoned. -/
def privPut (v : Val) (ofs size : Nat) (data : Nat) : Val :=
  let o := 8 * (ofs % 4)
  match v with
  | .word w => .word (wordOfNat (w.toNat - w.toNat / 2 ^ o % 2 ^ (8 * size) * 2 ^ o + data % 2 ^ (8 * size) * 2 ^ o))
  | x => if size = 4 then .word (wordOfNat data) else x

/-- ST (R305). -/
def execSt (f : MOps) : State → Host.Outcome State Fault Refusal := instr (.m 0x101 f) fun c s => do
  c.maskWait
  let E := c.g.exec f.g1 f.g2
  let size := sizeBytes f.size.toNat
  let pair := f.size == 5
  let a ← c.addresses (s.wgidOf c) E f (2 ^ f.scale.toNat) size (if pair then 2 else 1)
  let d ← c.readLanes E (c.vsrc (s.wgidOf c) (if pair then .n64 else .n32) 0 pair f.data)
  let M := E &&& ~~~c.g.helper
  let cs := s.checks c M { priv := true, size := size, write := true, uncached := true } a
  s.judge c true cs
  let ls := placed cs
  s.noFlip ls
  let dat (l : Nat) : DWord := if h : l < 96 then d[l] else 0
  let es := (ls.filter fun p => (privSlot p.loc).isNone).map fun p =>
    { lane := p.lane, loc := p.loc, size := size, data := dat p.lane, cached := s.l2At p.loc p.ty : SqElem }
  let bs := beatsFrom .store f.order.toNat f.scope f.hint.toNat s.nextId c.g.pc.word es
  c.g.room bs.length
  let P := privLanes ls
  match (lanesOf P).findSome? fun l => match (c.g.lane l).act.fr (privOfs ls l.val / 4) with
    | .pend id _ => some id
    | _ => none with
  | some id => .error (c.holdOn id)
  | none =>
    let s := (s.newId.2.touchAll c true ls).enqueue c bs
    let g := c.g.modLanes P fun l ln =>
      let o := privOfs ls l.val
      { ln with act := ln.act.setFr (o / 4) (privPut (ln.act.fr (o / 4)) o size (d[l].toNat)) }
    let zeros := ((lanesOf P).filter fun l => (g.lane l).act.fr (privOfs ls l.val / 4) == .word 0).length
    return (s.modGroup c.core c.slot fun h => { h with lanes := g.lanes }).count c.core c.g.vf 5 zeros

/-! ## LDL and STL (R307) -/

/-- The address that each lane of E takes: its beat's line plus its place in it. -/
def lineAddr (E : LaneMask) (a : Vector DWord 96) (l : Nat) : DWord :=
  match (lanesOf E).find? fun x => x.val / 32 == l / 32 with
  | some x => a[x] + BitVec.ofNat 64 (4 * (l % 32))
  | none => 0

/-- Each lane of E with the address and check of its beat's line, which the beat's lowest lane of E names (R302, R307). -/
def State.lineChecks (s : State) (c : Ctx) (E : LaneMask) (write : Bool) (a : Vector DWord 96) :
    List (Nat × DWord × Chk) :=
  (List.range 3).flatMap fun w =>
    let mine := (lanesOf E).filter fun l => l.val / 32 == w
    match mine.head? with
    | some l0 =>
      let k := s.check c.req { size := 128, write := write } a[l0]
      mine.map fun l => (l.val, a[l0], k)
    | none => []

/-- The place of a lane's word in its beat's line. -/
def lineLanes (cs : List (Nat × DWord × Chk)) : List LaneAt :=
  cs.filterMap fun p => match p.2.2 with
    | .ok loc ty => some ⟨p.1, loc.add (4 * (p.1 % 32)), ty, p.2.1 + BitVec.ofNat 64 (4 * (p.1 % 32))⟩
    | _ => none

/-- The checks of the lanes that are not helpers. -/
def needed (helper : LaneMask) (cs : List (Nat × DWord × Chk)) : List (Nat × DWord × Chk) :=
  cs.filter fun p => !inMask helper p.1

/-- LDL (R307). -/
def execLdl (f : MOps) : State → Host.Outcome State Fault Refusal := instr (.m 0x102 f) fun c s => do
  c.maskWait
  let E := c.g.exec f.g1 f.g2
  let a ← c.addresses (s.wgidOf c) E f 1 128 0
  let cs := s.lineChecks c E false a
  s.judge c false (needed c.g.helper cs)
  let ls := lineLanes cs
  s.noFlip ls
  if ls.any fun p => c.g.behindAtomic p.loc 4 then .error .stall
  else
    let (s, vals) := s.issueLoad c 4 false true (loadAcq E f) f.hint.toNat ls
    return s.pushVals c E fun l => [valIn vals l.val]

/-- STL (R307). -/
def execStl (f : MOps) : State → Host.Outcome State Fault Refusal := instr (.m 0x103 f) fun c s => do
  c.maskWait
  let E := c.g.exec f.g1 f.g2
  let a ← c.addresses (s.wgidOf c) E f 1 128 1
  let d ← c.readLanes E (c.vsrc (s.wgidOf c) .n32 0 false f.data)
  let cs := needed c.g.helper (s.lineChecks c E true a)
  s.judge c true cs
  let ls := lineLanes cs
  s.noFlip ls
  let dat (l : Nat) : DWord := if h : l < 96 then d[l] else 0
  let es := ls.map fun p =>
    { lane := p.lane, loc := p.loc, size := 4, data := dat p.lane, cached := s.l2At p.loc p.ty : SqElem }
  let bs := beatsFrom .store f.order.toNat f.scope f.hint.toNat s.nextId c.g.pc.word es
  c.g.room bs.length
  return (s.newId.2.touchAll c true ls).enqueue c bs

/-! ## Atomics (R308, R309) -/

/-- f(old, v) of R308 on n-bit codes. -/
def atomFn (op n old v : Nat) : Nat :=
  let i (x : Nat) : Int := codeInt true n x
  match op with
  | 0 => (old + v) % 2 ^ n
  | 1 => if i v < i old then v else old
  | 2 => if i old < i v then v else old
  | 3 => min old v
  | 4 => max old v
  | 5 => old &&& v
  | 6 => old ||| v
  | 7 => old ^^^ v
  | 8 => v
  | 9 => (fp32.add .rne old v).1
  | 10 => (fp32.minmax false false old v).1
  | _ => (fp32.minmax true false old v).1

/-- Queue the beats of an atomic: one pending request for each beat. -/
def State.queueAtomic (s : State) (c : Ctx) (mk : Nat → BeatOp) (order : BitVec 2) (sc : Scope) (es : List SqElem)
    (vas : Nat → DWord) : State × (Nat → Option Nat) :=
  (beatsFrom .store order.toNat sc 0 0 c.g.pc.word es).foldl (fun (r : State × (Nat → Option Nat)) b =>
    let (s, ids) := r
    let (id, s) := s.newId
    let lane := (b.elems.head?.map (·.lane)).getD 0
    let q : PendReq := { id := id, kind := 2, obj := DWord.line (vas lane), pc := c.g.pc.word, stamp := id, hint := 0,
                         via := .uncached, acq := none, dest := .queued }
    (s.modGroup c.core c.slot fun g => { g with sq := g.sq ++ [{ b with op := mk id, stamp := id }],
                                                pends := g.pends ++ [q] },
     fun l => if l / 32 = lane / 32 then some id else ids l)) (s, fun _ => none)

/-- The values an atomic pushes in a lane: reserved slots of its beat, or the words of a value. -/
def atomPush (wide : Bool) (id : Option Nat) (l : Nat) : List Val :=
  match id with
  | some id => if wide then [.pend id (2 * l), .pend id (2 * l + 1)] else [.pend id (2 * l)]
  | none => if wide then [.word 0, .word 0] else [.word 0]

/-- ATOM (R308). -/
def execAtom (f : MOps) : State → Host.Outcome State Fault Refusal := instr (.m 0x104 f) fun c s => do
  c.maskWait
  let E := c.g.exec f.g1 f.g2
  let wide := f.scale.getLsbD 1
  let size := if wide then 8 else 4
  let a ← c.addresses (s.wgidOf c) E f size size (if wide then 2 else 1)
  let d ← c.readLanes E (c.vsrc (s.wgidOf c) (if wide then .n64 else .n32) 0 wide f.data)
  let M := E &&& ~~~c.g.helper
  let cs := s.checks c M { size := size, write := true } a
  s.judge c true cs
  let ls := placed cs
  s.noFlip ls
  let at' (v : Vector DWord 96) (l : Nat) : DWord := if h : l < 96 then v[l] else 0
  let es := ls.map fun p =>
    { lane := p.lane, loc := p.loc, size := size, data := at' d p.lane, cached := s.l2At p.loc p.ty : SqElem }
  c.g.room (beatsFrom .store 0 .group 0 0 0 es).length
  let s := s.touchAll c true ls
  let (s, ids) := s.queueAtomic c (fun id => .atom f.size.toNat wide id) f.order f.scope es (at' a)
  return s.pushVals c E fun l => atomPush wide (if inMask M l.val then ids l.val else none) l.val

/-- The expected and new values of ACAS in the lanes of E (R309). -/
def Ctx.casData (c : Ctx) (wgid : Nat) (E : LaneMask) (f : MOps) (wide : Bool) :
    Except Trap (Vector DWord 96 × Vector DWord 96) := do
  if wide then
    let rd (i : Nat) : Except Trap (Vector DWord 96) := c.readLanes E fun l => match f.data with
      | .age n => ((c.g.lane l).act.age c.g.coilD (n.val + 1 + i)).opnd
      | .frame n => ((c.g.lane l).act.fr (n.val + 3 - i)).opnd
      | _ => .val 0
    let e0 ← rd 3
    let e1 ← rd 2
    let n0 ← rd 1
    let n1 ← rd 0
    return (e0.zipWith (fun a b => joinPair (lowWord a) (lowWord b)) e1,
            n0.zipWith (fun a b => joinPair (lowWord a) (lowWord b)) n1)
  else
    let d ← c.readLanes E (c.vsrc wgid .n64 0 true f.data)
    return (d.map fun x => (lowWord x).setWidth 64, d.map fun x => (highWord x).setWidth 64)

/-- ACAS (R309); a helper lane reads, and reads zero where its read would fault (R303). -/
def execAcas (f : MOps) : State → Host.Outcome State Fault Refusal := instr (.m 0x105 f) fun c s => do
  c.maskWait
  let E := c.g.exec f.g1 f.g2
  let wide := f.scale.getLsbD 1
  let size := if wide then 8 else 4
  let a ← c.addresses (s.wgidOf c) E f size size (if wide then 4 else 2)
  let (e, n) ← c.casData (s.wgidOf c) E f wide
  s.judge c true (s.checks c (E &&& ~~~c.g.helper) { size := size, write := true } a)
  let own := placed (s.checks c (E &&& ~~~c.g.helper) { size := size, write := true } a)
  let help := placed (s.checks c (E &&& c.g.helper) { size := size, write := false } a)
  let ls := (lanesOf E).filterMap fun l => (own ++ help).find? fun p => p.lane == l.val
  s.noFlip ls
  let at' (v : Vector DWord 96) (l : Nat) : DWord := if h : l < 96 then v[l] else 0
  let es := ls.map fun p =>
    { lane := p.lane, loc := p.loc, size := size, data := at' n p.lane, expect := at' e p.lane,
      writes := !inMask c.g.helper p.lane, cached := s.l2At p.loc p.ty : SqElem }
  c.g.room (beatsFrom .store 0 .group 0 0 0 es).length
  let s := (s.touchAll c true own).touchAll c false help
  let (s, ids) := s.queueAtomic c (fun id => .acas wide id) f.order f.scope es (at' a)
  let P := lanesAt ls
  return s.pushVals c E fun l => atomPush wide (if inMask P l.val then ids l.val else none) l.val

/-! ## FENCE, PREF, SPRES, INVL (R310 to R313) -/

/-- FENCE (R310, R319): an acquire waits for earlier loads and atomics, acquire-release for the store queue as well. -/
def execFence (f : MOps) : State → Host.Outcome State Fault Refusal := instr (.m 0x106 f) fun c s => do
  c.maskReady
  if c.g.exec f.g1 f.g2 = 0 then return s
  let acq := f.order.getLsbD 0
  if (acq && !c.g.loads.isEmpty) || (f.order == 3 && !c.g.sq.isEmpty) then .error .stall
  else return if acq then s.acquire c.core c.g.vf f.scope else s

/-- PREF (R311): a line whose translation no TLB holds waits for its walk (PAGE_WALK). -/
def execPref (f : MOps) : State → Host.Outcome State Fault Refusal := instr (.m 0x107 f) fun c s => do
  c.maskWait
  let E := c.g.exec f.g1 f.g2
  let a ← c.addresses (s.wgidOf c) E f 1 128 0
  let vas := (((lanesOf E).map fun l => a[l].toNat).filter fun x => decide (x < 2 ^ 57)).map lineOf
  return vas.eraseDups.foldl (fun s x =>
    if (s.tlbHit c.core c.g.vf x false).isSome then s.prefetch c.core c.g.part c.g.vf f.hint.toNat x
    else s.queueWalk c.core c.g.vf f.hint.toNat x) s

/-- SPRES (R312). -/
def execSpres (f : MOps) : State → Host.Outcome State Fault Refusal := instr (.m 0x108 f) fun c s => do
  c.maskWait
  let E := c.g.exec f.g1 f.g2
  let a ← c.addresses (s.wgidOf c) E f 1 128 0
  let w : Want := { global := false, dscr := false, size := 1, write := false }
  s.judge c false (s.checks c (E &&& ~~~c.g.helper) w a)
  let ls := placed (s.checks c E w a)
  return s.pushVals c E fun l => match ls.find? fun p => p.lane == l.val with
    | some p => [.word (if s.absentLine p.loc then 0 else 1)]
    | none => [.word 0]

/-- INVL (R313). -/
def execInvl (f : MOps) : State → Host.Outcome State Fault Refusal := instr (.m 0x109 f) fun c s => do
  c.maskWait
  let E := c.g.exec f.g1 f.g2
  let a ← c.addresses (s.wgidOf c) E f 1 128 0
  if !scopeWide f.scope then return s
  let keys := (lanesOf E).filterMap fun l =>
    if a[l].toNat < 2 ^ 57 then
      match s.xlate c.core c.g.vf a[l].toNat false with
      | .ok t => some (lineOf (Xlat.paOf t a[l].toNat))
      | .fault .. => none
    else none
  return s.modCore c.core fun k =>
    { k with l1 := k.l1.filter fun l => l.ctx != c.g.vf || !keys.contains l.pa }

/-! ## SLD and SST (R234) -/

def sAddr (a : DWord) (imm : BitVec 8) (size : Nat) : DWord := a + imm.signExtend 64 * BitVec.ofNat 64 size

/-- SLD (R234). -/
def execSld (f : SOps) : State → Host.Outcome State Fault Refusal := instr (.s 0x0EF f) fun c s => do
  c.maskReady
  let E := c.g.exec f.g1 f.g2
  if E = 0 then return s
  let (b, _, _) ← c.ssources (s.wgidOf c) 0x0EF f
  c.freeS f.d.val
  let size := 2 ^ (f.mod.toNat % 4)
  let a := sAddr b f.imm size
  match s.check c.req { size := size, write := false, uncached := true } a with
  | .bad rk code sub => .error (s.failAt c rk code sub a E)
  | .miss st x l => .error (c.pageTrap s 0 a st x l)
  | .ok loc ty =>
    let at1 : LaneAt := ⟨0, loc, ty, a⟩
    s.noFlip [at1]
    if c.g.behindAtomic loc size then .error .stall
    else
      let acq := if f.mod.getLsbD 2 then some Scope.device else none
      let part : LoadPart := ⟨0, loc, size, f.ty == .i32, false⟩
      let via := s.viaOf false loc ty
      let hand := s.atHand c.core c.g.vf via loc
      let s := (s.touchAll c false [at1]).lookup c via loc hand
      if hand && c.g.loads.isEmpty then
        let v := s.partValue c.core c.g.vf via c.g.sq s.nextId part
        let g ← writeS c.g f.d.val (v.getD 0)
        let g := match v with
          | some _ => g
          | none => { g with spoison := (f.d.val, c.g.pc.word) :: g.spoison }
        let s := (s.loadLine c.core c.g.part c.g.vf via hintScalar loc).setGroup c.core c.slot g
        return match acq with
          | some sc => s.acquire c.core c.g.vf sc
          | none => s
      else
        let (id, s) := s.newId
        let q : PendReq := { id := id, kind := if s.absentLine loc then 1 else 2, obj := DWord.line a,
                             pc := c.g.pc.word, stamp := id, hint := hintScalar, via := via, acq := acq,
                             dest := .scalar f.d.val part, hit := hand }
        return (s.sendReq c.core c.slot q).modGroup c.core c.slot fun g => { g with spend := g.spend ++ [(f.d.val, id)] }

/-- SST (R234). -/
def execSst (f : SOps) : State → Host.Outcome State Fault Refusal := instr (.s 0x0F0 f) fun c s => do
  c.maskReady
  let E := c.g.exec f.g1 f.g2
  if E = 0 then return s
  let (b, d, _) ← c.ssources (s.wgidOf c) 0x0F0 f
  let size := 2 ^ (f.mod.toNat % 4)
  let a := sAddr b f.imm size
  match s.check c.req { size := size, write := true, uncached := true } a with
  | .bad rk code sub => .error (s.failAt c rk code sub a E)
  | .miss st x l => .error (c.pageTrap s 1 a st x l)
  | .ok loc ty =>
    let at1 : LaneAt := ⟨0, loc, ty, a⟩
    s.noFlip [at1]
    c.g.room 1
    let e : SqElem := { lane := 0, loc := loc, size := size, data := d, cached := s.l2At loc ty }
    let b : Beat := ⟨.store, [e], if f.mod.getLsbD 2 then 2 else 0, .device, 0, s.nextId, c.g.pc.word⟩
    return (s.newId.2.touchAll c true [at1]).enqueue c [b]

/-! ## Landing (R281, R304, R316) -/

def landVal (id : Nat) (v : Nat → Val) (x : Val) : Val :=
  match x with
  | .pend i p => if i = id then v p else x
  | _ => x

def landMap (id : Nat) (v : Nat → Val) (m : NMap Val) : NMap Val :=
  (m.map fun p => (p.1, landVal id v p.2)).filter fun p => p.2 != .word 0

def LaneAct.land (id : Nat) (v : Nat → Val) (a : LaneAct) : LaneAct :=
  { a with coil := landMap id v a.coil, frame := landMap id v a.frame }

/-- The same in the activations that a return record holds, by lane. -/
def RetRec.landLanes (id : Nat) (v : Nat → Nat → Val) : RetRec → RetRec
  | .call ret eb b fs n cm ms sb acts => .call ret eb b fs n cm ms sb (acts.mapFinIdx fun i a _ => a.land id (v i))
  | .handler eb b fs d ms msk ps acts cp => .handler eb b fs d ms msk ps (acts.mapFinIdx fun i a _ => a.land id (v i)) cp

/-- Put the values of a request into every slot that awaits them, and drop the request. -/
def Group.land (g : Group) (id : Nat) (v : Nat → Val) : Group :=
  { g with
    lanes := g.lanes.map fun l => { l with act := l.act.land id v }
    rets := g.rets.map fun r => r.landLanes id fun _ => v
    pends := g.pends.filter fun p => p.id != id }

/-- A scalar load's value lands; a breach of R193 in a mask word is a fault of the load (R235). -/
def State.landScalar (s : State) (core slot : Nat) (q : PendReq) (r : Nat) (v : Option DWord) : State :=
  match s.ctxOf core slot with
  | none => s
  | some c =>
    let g := { c.g with pends := c.g.pends.filter fun p => p.id != q.id,
                        spend := c.g.spend.filter fun p => p.2 != q.id }
    match writeS g r (v.getD 0) with
    | .ok g =>
      s.setGroup core slot (match v with
        | some _ => g
        | none => { g with spoison := (r, q.pc) :: g.spoison })
    | .error t =>
      let pc : PC := ⟨q.pc &&& ~~~(63#64), fld q.pc 0 3⟩
      let g := { g with pc := pc, wait := {}, resume := .none }
      (s.setGroup core slot g).trap { c with g := g } t

/-- The oldest pending load of a group whose data can be taken: its request has gone, and its lines are there. -/
def State.landable (s : State) (g : Group) : Option PendReq :=
  match g.loads with
  | [] => none
  | q :: _ =>
    let free (p : LoadPart) : Bool := !s.absentLine p.loc
    match q.dest with
    | .lanes ps => if q.slot && ps.all free then some q else none
    | .scalar _ p => if q.slot && free p then some q else none
    | _ => none

/-- Every activation that a group holds, lane by lane. -/
def Group.acts (g : Group) : List LaneAct :=
  (g.lanes.toList.map (·.act)) ++ g.rets.flatMap fun r => match r with
    | .call _ _ _ _ _ _ _ _ acts | .handler _ _ _ _ _ _ _ acts _ => acts.toList

/-- Zero words that land in their banks: in slots that the register cache does not hold (R160). -/
def Group.landZeros (g : Group) (id : Nat) (v : Nat → Val) : Nat :=
  let zero (x : Val) : Bool := match x with
    | .pend i p => i == id && v p == .word 0
    | _ => false
  (g.acts.map fun a => (a.coil.filter fun p => zero p.2 && !g.caches a p.1).length +
    (a.frame.filter fun p => zero p.2).length).sum

/-- The values of a request land in its group (R155, R160). -/
def State.landIn (s : State) (core slot id : Nat) (v : Nat → Val) : State :=
  match s.group? core slot with
  | none => s
  | some g =>
    let s := if (s.core core).ctrs.isEmpty then s else s.count core g.vf 5 (g.landZeros id v)
    s.setGroup core slot (g.land id v)

/-- A pending load takes its value and lands. -/
def State.landLoad (s : State) (core slot : Nat) (g : Group) (q : PendReq) : State :=
  let first : Option Loc := match q.dest with
    | .lanes ps => ps.head?.map (·.loc)
    | .scalar _ p => some p.loc
    | _ => none
  let s := match first with
    | some loc => s.loadLine core g.part g.vf q.via q.hint loc
    | none => s
  let val (p : LoadPart) : Option DWord := s.partValue core g.vf q.via g.sq q.stamp p
  let s := match q.dest with
    | .lanes ps => s.landIn core slot q.id fun i =>
        match ps.find? fun (p : LoadPart) => p.part == i with
        | some p => wordVal q.pc (val p)
        | none => .word 0
    | .scalar r p => s.landScalar core slot q r (val p)
    | _ => s
  let s := s.settleSlots (core / 4)
  match q.acq with
  | some sc => s.acquire core g.vf sc
  | none => s

/-- MISS_DATA_RETURN (R304): the data of the request arrives. Loads of a group take their values in program order
(R315), so the event does nothing for a request that is not the group's oldest. -/
def execMissDataReturn (core slot id : Nat) : State → Host.Outcome State Fault Refusal := coreEvent fun s =>
  match s.group? core slot with
  | none => s
  | some g => match s.landable g with
    | some q => if q.id = id then s.landLoad core slot g q else s
    | none => s

/-! ## Draining (R306, R308, R309, R316) -/

/-- The lines of a beat that L2 caches. -/
def cachedLines (es : List SqElem) : List Nat :=
  (es.filterMap fun e => match e.loc with
    | .phys pa => if e.cached then some (lineOf pa) else none
    | _ => none).eraseDups

/-- The single-copy writes of a beat's elements, with L1's bytes, then L2 once for each line (R283). -/
def State.storeElems (s : State) (core part ctx hint : Nat) (es : List SqElem) : State :=
  let s := es.foldl (fun s e =>
    let b := leBytes e.size e.data.toNat
    let s := s.putLoc e.loc b
    match e.loc with
    | .phys pa => s.modCore core fun k => k.l1Patch ctx pa b
    | _ => s) s
  ((cachedLines es).foldl (fun s a => s.l2Access core part ctx a hint true) s).noteWaits

/-- One lane's atomic at the single copy: the state and the old value; poisoned data is consumed and stays. -/
def State.atomElem (s : State) (op : BeatOp) (e : SqElem) : State × Option Nat :=
  let n := 8 * e.size
  let old := s.readNat e.loc e.size
  if s.poisoned e.loc e.size then (s, none)
  else
    let new : Option Nat := match op with
      | .atom o .. => some (atomFn o n old (e.data.toNat % 2 ^ n))
      | .acas .. => if old = e.expect.toNat % 2 ^ n ∧ e.writes then some (e.data.toNat % 2 ^ n) else none
      | .store => none
    (match new with
      | some v => s.putLoc e.loc (leBytes e.size v)
      | none => s, some old)

/-- Perform an atomic beat: its lanes in ascending order; a helper lane of ACAS reads zero where its data is poisoned
(R303). -/
def State.performAtomic (s : State) (core slot : Nat) (g : Group) (b : Beat) (id : Nat) : State :=
  let (s, olds) := b.elems.foldl (fun (r : State × List (Nat × Option Nat)) e =>
    let (s, o) := r.1.atomElem b.op e
    (s, r.2 ++ [(e.lane, o)])) (s, [])
  let lines := (b.elems.filterMap fun e => match e.loc with
    | .phys pa => some (lineOf pa)
    | _ => none).eraseDups
  let s := (cachedLines b.elems).foldl (fun s a => s.l2Access core g.part g.vf a 0 true) s
  let s := (lines.foldl (fun s a => s.l1Refresh core g.vf a) s).noteWaits
  let s := s.landIn core slot id fun i =>
    match olds.find? fun p => p.1 == i / 2 with
    | some (_, some o) => .word (wordOfNat (o / 2 ^ (32 * (i % 2))))
    | some (l, none) => if inMask g.helper l then .word 0 else .poison b.pc
    | none => .word 0
  match orderAcq (BitVec.ofNat 2 b.order) b.scope with
  | some sc => s.acquire core g.vf sc
  | none => s

def SqElem.physical (e : SqElem) : Bool := match e.loc with
  | .phys _ => true
  | _ => false

/-- A beat finds the miss slots that its requests need (R426). -/
def State.beatSlots (s : State) (core : Nat) (g : Group) (b : Beat) : Bool :=
  b.requests == 0 || s.slotFree (core / 4) g.vf b.stamp b.requests

/-- Whether the oldest beat may leave: nothing keeps it, and its requests find their slots. -/
def State.drainable (s : State) (core : Nat) (g : Group) : Option Beat := (s.beatReady g).filter (s.beatSlots core g)

/-- It waits for them: a port stall (R426). -/
def State.beatWaits (s : State) (core : Nat) (g : Group) : Bool := (s.beatReady g).any fun b => !s.beatSlots core g b

/-- The oldest beat is performed, and the slots go to what waits for them. -/
def State.drainBeat (s : State) (core slot : Nat) (g : Group) (b : Beat) : State :=
  let s := s.modGroup core slot fun g => { g with sq := g.sq.tail }
  (match b.op with
  | .store => s.storeElems core g.part g.vf b.hint b.elems
  | .atom _ _ id => s.performAtomic core slot g b id
  | .acas _ id => s.performAtomic core slot g b id).settleSlots (core / 4)

/-- STORE_QUEUE_DRAIN (R306). -/
def execStoreQueueDrain (core slot : Nat) : State → Host.Outcome State Fault Refusal := coreEvent fun s =>
  match s.group? core slot with
  | none => s
  | some g => match s.drainable core g with
    | some b => s.drainBeat core slot g b
    | none => s

end Sys2Proof.Machine
end

