-- ==== Sys2Proof/Machine/Queues.lean ====
section
/-! DEFINITION. What the job dealer keeps for a function: quotas and queue registers (R98), entry of cards (R95, R99, R100),
dependence counters (R110), futures and join records (R114 to R116). -/

namespace Sys2Proof.Machine

/-! ## Quotas and queues (R98) -/

def State.jqn (s : State) (vf : Nat) : Nat := fld (s.vr vf 0x100) 0 5
def State.dqn (s : State) (vf : Nat) : Nat := fld (s.vr vf 0x100) 8 7
def State.dcn (s : State) (vf : Nat) : Nat := fld (s.vr vf 0x100) 16 13
def State.slotq (s : State) (vf : Nat) : Nat := fld (s.vr vf 0x100) 32 16
def State.jnn (s : State) (vf : Nat) : Nat := fld (s.vr vf 0x100) 48 16
def jqCfgOfs (q : Nat) : Nat := 0x1008 + 0x20 * q
def State.jqCfg (s : State) (vf q : Nat) : DWord := s.vr vf (jqCfgOfs q)
def State.jqUsable (s : State) (vf q : Nat) : Bool := decide (q < s.jqn vf) && bit (s.jqCfg vf q) 0
def State.dqUsable (s : State) (vf q : Nat) : Bool := decide (q < s.dqn vf) && bit (s.dqCfg vf q) 0
def State.jq (s : State) (vf q : Nat) : JQueue := nget {} (s.vf vf).jqs q
def State.modJq (s : State) (vf q : Nat) (f : JQueue → JQueue) : State :=
  s.modVf vf fun v => { v with jqs := nset {} v.jqs q (f (nget {} v.jqs q)) }
def State.dq (s : State) (vf q : Nat) : DQueue := nget {} (s.vf vf).dqs q

/-- Cards that the dealer has copied for a function and that have not completed (R100). -/
def State.held (s : State) (vf : Nat) : Nat := (s.jobs.filter fun p => p.2.vf == vf).length
def State.inQueue (s : State) (vf q : Nat) : List (Nat × Job) :=
  s.jobs.filter fun p => p.2.vf == vf && p.2.queue == q

/-- Cards of a queue's host ring that have entered and are not copied, and continuation cards that wait for room. -/
def JQueue.ringCount (j : JQueue) : Nat := (j.ring.map (·.n)).sum
def State.contsOf (s : State) (vf q : Nat) : List Job := (s.vf vf).conts.filter fun j => j.queue == q

/-- Room to copy one more card into the dealer (R100). -/
def State.copyRoom (s : State) (vf q : Nat) : Bool :=
  decide (s.held vf < s.slotq vf) && (!bit (s.jqCfg vf q) 1 || decide ((s.inQueue vf q).length < 64))

/-- Room for one more card by ENQ: every card that has entered counts (R100, DEDUCED, assumption 72). -/
def State.cardRoom (s : State) (vf q : Nat) : Bool :=
  decide (s.held vf + (((s.vf vf).jqs.map fun p => p.2.ringCount).sum + (s.vf vf).conts.length) < s.slotq vf) &&
    (!bit (s.jqCfg vf q) 1 ||
      decide ((s.inQueue vf q).length + ((s.jq vf q).ringCount + (s.contsOf vf q).length) < 64))

/-- A read of the dealer through a function's translation (R99), once a flip of its page is over (R292); none where it meets
a fault. It allocates nothing in L2 (R483, DEDUCED, assumption 64). -/
def State.fnRead (s : State) (fn : Nat) (a : DWord) (n : Nat) : Option (List Byte × State) :=
  let va := a.toNat % 2 ^ 57
  match s.xlate 64 fn va false with
  | .ok t =>
    let pa := Xlat.paOf t va
    if 2 ^ 57 ≤ a.toNat || !t.rd || !inMap pa || s.poisoned (.phys pa) n || !s.xbar 64 (s.partOf fn) pa false then none
    else
      let u := (s.settleFlip pa).touch 64 fn va false 2
      some (s.mem.bytes pa n, if u.l2Caches pa t.ty then u.l2Access 64 (s.partOf fn) fn pa hintNal false else u)
  | .fault .. => none

/-- The same for k pieces of n bytes. -/
def State.fnPieces (s : State) (fn n : Nat) : Nat → DWord → Option (List Byte × State)
  | 0, _ => some ([], s)
  | k + 1, a => match s.fnRead fn a n with
    | none => none
    | some (b, s) => (s.fnPieces fn n k (a + BitVec.ofNat 64 n)).map fun p => (b ++ p.1, p.2)

/-- A table of k words of 8 bytes, byte by byte where its address is no multiple of 8. -/
def State.fnReads (s : State) (fn k : Nat) (a : DWord) : Option (List Byte × State) :=
  if a.toNat % 8 = 0 then s.fnPieces fn 8 k a else s.fnPieces fn 1 (8 * k) a

/-- n 64-bit words of bytes. -/
def dwords (b : List Byte) : List DWord :=
  (List.range (b.length / 8)).map fun i => BitVec.ofNat 64 (leNat ((b.drop (8 * i)).take 8))

/-- An event record with KIND and code in word 0 (R454). -/
def State.eqKind (s : State) (fn kind code : Nat) (w1 w2 : DWord) : State :=
  s.eqWrite fn [BitVec.ofNat 64 (code + kind * 2 ^ 32), w1, w2, 0, 0, 0, BitVec.ofNat 64 s.ref, 0]

/-- The refusal record of a card (R96, R454). -/
def State.refusal (s : State) (vf q seq code : Nat) (addr : DWord) : State :=
  s.eqKind vf 1 code addr (BitVec.ofNat 64 (q + seq % 2 ^ 32 * 2 ^ 32))

/-- The tenant tag of w7 (R95). -/
def cardTag (w7 : DWord) (vf part : Nat) : DWord := putFld (putFld w7 48 9 vf) 57 6 part

def wordAtD (ws : List DWord) (i : Nat) : DWord := ws.getD i 0

def State.dc (s : State) (vf c : Nat) : Nat := nget 0 (s.vf vf).dcs c

/-- Gate and kind of a card (R94). -/
def Job.gate (j : Job) : Nat := fld (wordAtD j.words 6) 62 2
def Job.kind (j : Job) : Nat := fld (wordAtD j.words 7) 0 2

/-- The next sequence number of a queue and the next place in the order of entry, and when the card entered (R99). -/
structure Ticket where
  seq : Nat
  order : Nat
  at_ : Nat
deriving Repr

/-- n cards take their numbers: the first one's ticket. -/
def State.takeTickets (s : State) (vf q n : Nat) : Ticket × State :=
  let seq := (s.jq vf q).seq
  (⟨seq + 1, s.cardOrder, s.ref⟩, { s.modJq vf q fun j => { j with seq := seq + n } with cardOrder := s.cardOrder + n })

/-- The counters of a function that are not zero: those on which a card that enters now is held (R110). -/
def State.heldOn (s : State) (vf : Nat) : List Nat := ((s.vf vf).dcs.filter fun p => p.2 != 0).map (·.1)

/-- A card as the dealer holds it, with the tag of R95; one gated on a counter is released at once unless that is among the
counters that have held it since it entered (R110). -/
def newCard (vf part q : Nat) (ws : List DWord) (addr : DWord) (t : Ticket) (held : List Nat) : Job :=
  { vf := vf, part := part, queue := q, seq := t.seq, addr := addr,
    words := ws.take 7 ++ [cardTag (wordAtD ws 7) vf part], cstate := .entered, parsed := false, enteredAt := t.at_,
    startedAt := 0, order := t.order, ranges := [], conds := [], met := [],
    released := fld (wordAtD ws 6) 62 2 == 1 && !held.contains (fld (wordAtD ws 6) 0 16), lrec := [],
    ktab := [], ptab := [], next := 0, chunks := 0, sized := 0, wgid := 0, refused := none, faultCode := none,
    dscrDie := [] }

/-- The dealer holds a card. -/
def State.holdCard (s : State) (j : Job) : State :=
  let (id, s) := s.newId
  s.setJob id j

/-- A card enters a queue (R95, R99): its sequence number. -/
def State.enterCard (s : State) (vf part q : Nat) (ws : List DWord) (addr : DWord) : Nat × State :=
  let (t, s) := s.takeTickets vf q 1
  (t.seq, s.holdCard (newCard vf part q ws addr t (s.heldOn vf)))

/-- A card that has a number is read at its address: refused at once with reason 0x18 where it cannot be read (R99). -/
def State.readCard (s : State) (vf part q : Nat) (addr : DWord) (t : Ticket) (held : List Nat) : Option Job × State :=
  match s.fnRead vf addr 64 with
  | some (b, s) => (some (newCard vf part q (dwords b) addr t held), s)
  | none => (none, ((s.modJq vf q fun j => { j with done := j.done + 1 }).refusal vf q t.seq 0x18 addr).noteFences)

/-- A waiting continuation card finds room: no card that comes before it in its queue waits outside the dealer. -/
def State.contFits (s : State) (kept : List Job) (j : Job) : Bool :=
  s.copyRoom j.vf j.queue && (kept.all fun k => k.queue != j.queue) &&
    (s.jq j.vf j.queue).ring.all fun r => decide (j.seq < r.seq)

/-- Continuation cards go into the dealer's slots while there is room, each queue's in order (R100; DESIGN CHOICE,
assumption 86). -/
def State.enterConts (s : State) (vf : Nat) : State :=
  let (s, kept) := (s.vf vf).conts.foldl (fun (r : State × List Job) j =>
    if r.1.contFits r.2 j then (r.1.holdCard j, r.2) else (r.1, r.2 ++ [j])) (s, [])
  s.modVf vf fun v => { v with conts := kept }

/-- A continuation card that has its number is read, and waits inside the dealer for room (R99, R100); during a flip of its page it
is read afterwards (R292). -/
def State.readCont (s : State) (vf part q : Nat) (addr : DWord) (t : Ticket) (held : List Nat) : State :=
  if s.fnHeld vf (addr.toNat % 2 ^ 57) then s.delay vf (.card part q addr t.seq t.order t.at_ held)
  else match s.readCard vf part q addr t held with
    | (some j, s) => (s.modVf vf fun v => { v with conts := v.conts ++ [j] }).enterConts vf
    | (none, s) => s

/-- A continuation card enters its queue (R99, R114): it takes its number and is read now. -/
def State.continuation (s : State) (vf part q : Nat) (addr : DWord) : State :=
  let (t, s) := s.takeTickets vf q 1
  s.readCont vf part q addr t (s.heldOn vf)

/-! ## Dependence counters (R110) -/

/-- Set a counter; at zero every card held on it is released, those of rings that have entered among them, and a FENCE card's condition on it is met. -/
def State.dcSet (s : State) (vf c x : Nat) : State :=
  let s := s.modVf vf fun v => { v with dcs := nset 0 v.dcs c x }
  let open' (j : Job) : Job := if j.vf = vf ∧ j.gate = 1 ∧ fld (wordAtD j.words 6) 0 16 = c then { j with released := true } else j
  if x ≠ 0 then s
  else
    let jobs := s.jobs.map fun (p : Nat × Job) => (p.1, open' p.2)
    let ring (r : RingCards) : RingCards := { r with held := r.held.filter (· != c) }
    let late (x : Late) : Late := match x with
      | .card p q a n o t held => .card p q a n o t (held.filter (· != c))
      | x => x
    (State.modVf { s with jobs := jobs } vf fun v =>
      { v with conts := v.conts.map open', late := v.late.map late, jqs := v.jqs.map fun p => (p.1, { p.2 with ring := p.2.ring.map ring }) }).noteFences

/-! ## Join records and futures (R114 to R116) -/

/-- The words of a join record in the pool, as far as R114 states them. -/
def JoinRec.words (r : JoinRec) : List DWord :=
  [r.card, BitVec.ofNat 64 (r.q + r.cnt * 2 ^ 4 + r.left * 2 ^ 8)] ++
    (List.range 4).map fun i => BitVec.ofNat 64 (r.links.getD i 0)

/-- Write a record's words into the pool; where the pool cannot be written, the device's own copy stands alone. -/
def State.joinPut (s : State) (vf h : Nat) (r : JoinRec) : State :=
  let s := s.modVf vf fun v => { v with joins := nins v.joins h r }
  let va := fld (s.vr vf 0x3000) 6 51 * 64 + 64 * h
  if (s.vf vf).late.any Late.isPool || s.fnHeld vf va then s.delay vf (.pool va r.words) else (s.fnWrite vf va (wordBytes r.words)).getD s

/-- Future j of a record reports: one decrement; at zero the card enters, once; the last report frees the record. -/
def State.joinReport (s : State) (vf h j : Nat) : State :=
  match nfind (s.vf vf).joins h with
  | none => s
  | some r =>
    let r' := { r with cnt := r.cnt - 1, left := r.left - 1, rep := r.rep ++ [j] }
    let s := if r'.left = 0 then
        let s := s.joinPut vf h r'
        s.modVf vf fun v => { v with joins := ndel v.joins h }
      else s.joinPut vf h r'
    if r.cnt = 1 then s.continuation vf r.part r.q r.card else s

def futState (w0 : DWord) : Nat := fld w0 62 2
def futGen (w0 : DWord) : Nat := fld w0 48 14
def futHead (w0 : DWord) : Nat := fld w0 0 48
def futWord (st gen head : Nat) : DWord := BitVec.ofNat 64 (st * 2 ^ 62 + gen % 2 ^ 14 * 2 ^ 48 + head)

def State.futWord0 (s : State) (loc : Loc) : DWord := BitVec.ofNat 64 (s.readNat loc 8)
def State.futValue (s : State) (loc : Loc) : DWord := BitVec.ofNat 64 (s.readNat (loc.add 8) 8)

/-- Every record waiting on a future, known by its place, reports, from the head. A HEAD that a plain store left may name a
record that does not list the future: that record counts down once, and the list ends there (R116, DEDUCED, assumption
73). -/
def State.walkJoins (s : State) (vf : Nat) (place : Nat) : Nat → Nat → State
  | 0, _ => s
  | _ + 1, 0 => s
  | n + 1, head + 1 =>
    match nfind (s.vf vf).joins head with
    | none => s
    | some r =>
      match ((List.range 4).reverse.find? fun j => r.places[j]? == some place && !r.rep.contains j) with
      | none => s.joinReport vf head 4
      | some j => (s.joinReport vf head j).walkJoins vf place n (r.links.getD j 0)

/-- Resolution (R115): none where the future is already resolved. -/
def State.resolve (s : State) (core part vf : Nat) (va : DWord) (loc : Loc) (v : DWord) : Option State :=
  let w0 := s.futWord0 loc
  if 2 ≤ futState w0 then none
  else
    let s := s.store core part vf loc (wordBytes [futWord 2 (futGen w0) 0, v]) 0 (s.cachedAt core vf (va.toNat % 2 ^ 57) loc)
    some (if futState w0 = 1 then s.walkJoins vf (locKey loc) (4 * (s.vf vf).joins.length + 4) (futHead w0) else s)

/-- Reset (R115): none while a record waits. -/
def State.resetFuture (s : State) (core part vf : Nat) (va : DWord) (loc : Loc) : Option State :=
  let w0 := s.futWord0 loc
  if futState w0 = 1 then none
  else some (s.store core part vf loc (wordBytes [futWord 0 (futGen w0 + 1) 0, 0]) 0
    (s.cachedAt core vf (va.toNat % 2 ^ 57) loc))

/-- Registration of entry j of record h (R115). -/
def State.register (s : State) (core part vf : Nat) (va : DWord) (loc : Loc) (h j : Nat) : State :=
  let w0 := s.futWord0 loc
  if 2 ≤ futState w0 then s.joinReport vf h j
  else
    let link := if futState w0 = 1 then futHead w0 else 0
    let s := match nfind (s.vf vf).joins h with
      | some r => s.joinPut vf h { r with links := r.links.set j link }
      | none => s
    s.store core part vf loc (wordBytes [futWord 1 (futGen w0) (h + 1)]) 0 (s.cachedAt core vf (va.toNat % 2 ^ 57) loc)

end Sys2Proof.Machine
end

