-- ==== Sys2Proof/Machine/Placement.lean ====
section
/-! DEFINITION. Where a workgroup fits: the launch record's fields (R56), the SRAM pool of a core and its split (R136 to
R138), fit and capacity (R139, R417), die-scratchpad reservations (R276), and the size of a chunk (R104). -/

namespace Sys2Proof.Machine

/-! ## The launch record (R56) and the card (R94) -/

def lrEntry (l : List DWord) : DWord := wordAtD l 1
def lrDepth (l : List DWord) : Nat := 8 * 2 ^ fld (wordAtD l 2) 0 2
def lrFslots (l : List DWord) : Nat := fld (wordAtD l 2) 2 10
def lrAllot (l : List DWord) : Nat := fld (wordAtD l 2) 12 12
def lrCdepth (l : List DWord) : Nat := fld (wordAtD l 2) 24 6
def lrGpw (l : List DWord) : Nat := fld (wordAtD l 3) 0 5
def lrWpc (l : List DWord) : Nat := fld (wordAtD l 3) 8 3
def lrHelper (l : List DWord) : Nat := fld (wordAtD l 3) 16 2
def lrSpad (l : List DWord) : Nat := fld (wordAtD l 4) 0 16
def lrL1 (l : List DWord) : Nat := fld (wordAtD l 4) 16 8
def lrDscr (l : List DWord) : Nat := fld (wordAtD l 4) 32 16
def lrKtab (l : List DWord) : DWord := BitVec.ofNat 64 (fld (wordAtD l 5) 8 49 * 256)
def lrKcnt (l : List DWord) : Nat := fld (wordAtD l 5) 0 8
def lrPtab (l : List DWord) : DWord := BitVec.ofNat 64 (fld (wordAtD l 6) 12 45 * 4096)
def lrPcnt (l : List DWord) : Nat := fld (wordAtD l 6) 0 12
def lrSave (l : List DWord) : Nat := fld (wordAtD l 7) 12 45 * 4096
def lrStride (l : List DWord) : Nat := fld (wordAtD l 7) 0 12
def lrTrapen (l : List DWord) : Flags := BitVec.ofNat 6 (fld (wordAtD l 8) 0 6)
/-- Register rows of one group: its allotment and two control rows (R57). -/
def lrRows (l : List DWord) : Nat := lrAllot l + 2
/-- L1 units a job needs (R138, R139). -/
def lrUnits (l : List DWord) : Nat := max 2 (lrL1 l)

def Job.args (j : Job) : DWord := wordAtD j.words 1
def Job.rsize (j : Job) : Nat := fld (wordAtD j.words 2) 48 16
def Job.rcount (j : Job) : Nat := fld (wordAtD j.words 2) 0 48
def Job.init (j : Job) : Nat := fld (wordAtD j.words 3) 32 32
def Job.minch (j : Job) : Nat := fld (wordAtD j.words 3) 8 24
def Job.div (j : Job) : Nat := fld (wordAtD j.words 3) 0 8
def Job.prio (j : Job) : Nat := fld (wordAtD j.words 7) 2 2
def Job.remaining (j : Job) : Nat := j.rcount - j.next
/-- The effective entry bundle (R94). -/
def Job.entry (j : Job) : DWord := if wordAtD j.words 0 = 0 then lrEntry j.lrec else wordAtD j.words 0
/-- The address of a record of a job's argument array (R105). -/
def Job.recAddr (j : Job) (i : Nat) : DWord := j.args + BitVec.ofNat 64 (i * j.rsize)

/-! ## The pool (R136, R137) -/

/-- Groups of a workgroup that start, and those never started, whose slots and rows stay granted (R140). -/
def Workgroup.started (w : Workgroup) : Nat := min w.gpw ((w.count + 95) / 96)
def Workgroup.unstarted (w : Workgroup) : Nat := w.gpw - w.started

def Core.rowsOf (k : Core) (g : Group) : Nat := match nfind k.wgs g.wg with
  | some w => w.rowsPer
  | none => 0

def Core.usedSlots (k : Core) : Nat := k.groups.length + (k.wgs.map fun p => p.2.unstarted).sum
/-- Register rows in use: each group's, less those claimed from it, and those of groups never started. -/
def Core.usedRows (k : Core) : Nat :=
  (k.groups.map fun p => k.rowsOf p.2 - p.2.claimed.length).sum + (k.wgs.map fun p => p.2.unstarted * p.2.rowsPer).sum
def Core.usedSpad (k : Core) : Nat := (k.wgs.map fun p => p.2.spadRows - p.2.spilled.length).sum

/-- No running group, and every row of the halted groups is spilled (R137). -/
def Core.vacant (k : Core) : Bool :=
  (k.groups.all fun p => p.2.gstate == .halted && p.2.claimed.length == k.rowsOf p.2) &&
    k.wgs.all fun p => p.2.spilled.length == p.2.spadRows

/-- A legal split (R136). -/
def splitOk (b : Nat × Nat × Nat) : Bool :=
  decide (1 ≤ b.1) && decide (b.1 ≤ b.2.1) && decide (b.2.1 - b.1 ≤ 48) && decide (b.2.1 + 2 ≤ b.2.2) &&
    decide (b.2.2 - b.2.1 ≤ 24) && decide (b.2.2 ≤ 72)

/-- A written split takes effect once the core is vacant; its L1 lines are dropped (R137). POOLB shows what was written at once, on a
core that is not vacant too (DESIGN CHOICE, assumption 94). -/
def State.settleSplit (s : State) (core : Nat) : State :=
  let k := s.core core
  let b := s.pool core
  if k.vacant && b != k.split then s.setCore core { k with split := b, l1 := [] } else s

/-- Free group slots, register rows and scratchpad rows under a split. -/
def Core.freeIn (k : Core) (b : Nat × Nat × Nat) : Nat × Nat × Nat :=
  (48 - k.usedSlots, 16 * b.1 - k.usedRows, 16 * (b.2.1 - b.1) - k.usedSpad)

/-- Rows of halted groups of other functions, which placing a workgroup may claim (R417). -/
def Core.claimRows (k : Core) (vf : Nat) : Nat :=
  (k.groups.map fun p => if p.2.gstate = .halted ∧ p.2.vf ≠ vf then k.rowsOf p.2 - p.2.claimed.length else 0).sum
/-- Every group of a workgroup stands halted. -/
def Core.wgHalted (k : Core) (wg : Nat) : Bool :=
  (k.groups.any fun p => p.2.wg == wg) && k.groups.all fun p => p.2.wg != wg || p.2.gstate == .halted
def Core.claimSpad (k : Core) (vf : Nat) : Nat :=
  (k.wgs.map fun p => if k.wgHalted p.1 ∧ p.2.vf ≠ vf then p.2.spadRows - p.2.spilled.length else 0).sum

/-! ## Fit (R138, R139) -/

/-- The split of R138 for W workgroups. -/
def splitW (l : List DWord) (W : Nat) : Nat × Nat × Nat :=
  let g := (W * lrGpw l * lrRows l + 15) / 16
  let c := (W * lrSpad l + 15) / 16
  (g, g + c, g + c + lrUnits l)

/-- The split that the dealer sets on a vacant core: the largest W, if there is one. -/
def splitFor (l : List DWord) : Option (Nat × Nat × Nat) :=
  (((List.range 48).map (· + 1)).reverse.find? fun W =>
    let b := splitW l W
    decide (W * lrGpw l ≤ 48) && decide (b.2.1 - b.1 ≤ 48) && decide (b.2.2 ≤ 72)).map (splitW l)

/-- The split a job would meet on a core: R138's on a vacant unlocked core, the written one on a vacant locked one, else
the one in force. -/
def State.splitHere (s : State) (core : Nat) (l : List DWord) : Option (Nat × Nat × Nat) :=
  let k := s.core core
  if k.vacant then (if s.coreLock core then some (s.pool core) else splitFor l) else some k.split

/-- Demands within slots, rows and L1. -/
def demandFits (l : List DWord) (slots rows spad units : Nat) : Bool :=
  decide (lrGpw l ≤ slots) && decide (lrGpw l * lrRows l ≤ rows) && decide (lrSpad l ≤ spad) && decide (lrUnits l ≤ units)

/-- One workgroup fits a core by capacity (R104, R139). -/
def State.fitsCapacity (s : State) (part : Nat) (l : List DWord) (core : Nat) : Bool :=
  s.coreOn core && s.corePart core == part && match s.splitHere core l with
    | none => false
    | some b => demandFits l 48 (16 * b.1) (16 * (b.2.1 - b.1)) (b.2.2 - b.2.1)

/-- Die-scratchpad rows that other jobs of a partition hold on a die (R276). -/
def State.dscrHeld (s : State) (part die : Nat) : Nat :=
  (s.jobs.map fun p => if p.2.part = part then nget 0 p.2.dscrDie die else 0).sum

/-- The die's groups of the partition hold the rows a job asks for (R276). -/
def State.dscrFits (s : State) (j : Job) (l : List DWord) (die : Nat) : Bool :=
  lrDscr l == 0 || (nfind j.dscrDie die).isSome ||
    decide (s.dscrHeld j.part die + lrDscr l ≤ 2048 * (setBits 4 (s.dsg die j.part)).length)

/-- A workgroup fits a core now, counting rows that could be claimed where `claim` is set (R139, R417). -/
def State.fitsNow (s : State) (j : Job) (l : List DWord) (claim : Bool) (core : Nat) : Bool :=
  let k := s.core core
  s.coreOn core && s.corePart core == j.part && s.dscrFits j l (core / 16) && match s.splitHere core l with
    | none => false
    | some b =>
      let (fs, fr, fp) := k.freeIn b
      demandFits l fs (fr + if claim then k.claimRows j.vf else 0) (fp + if claim then k.claimSpad j.vf else 0)
        (b.2.2 - b.2.1)

/-- C of R104: the enabled cores of the partition that fit the job by capacity. -/
def State.fittingCores (s : State) (part : Nat) (l : List DWord) : List Nat :=
  (List.range 64).filter (s.fitsCapacity part l)

/-- The records of the next chunk (R104). -/
def Job.chunkSize (j : Job) (C : Nat) : Nat :=
  let rem := j.remaining
  if j.init ≠ 0 ∧ j.sized < C then min j.init rem
  else
    let d := j.div * max 1 C
    min rem (max j.minch ((rem + d - 1) / d))

/-- A chunk leaves the undealt records (R104, R128). -/
def Job.deal (j : Job) (n : Nat) : Job := { j with next := j.next + n, sized := j.sized + 1, chunks := j.chunks + 1 }

end Sys2Proof.Machine
end

