-- ==== Sys2Proof/Machine/Sync.lean ====
section
/-! DEFINITION. Timelines, barriers, phase objects and YIELD (R336 to R346). -/

namespace Sys2Proof.Machine

/-! ## Waiting as an instruction that has issued (R163) -/

/-- The group parks at the instruction it has issued. -/
def State.park (s : State) (c : Ctx) (i : Form) (w : WaitRec) (r : Resume) : State :=
  (s.modGroup c.core c.slot fun g =>
    { g with wait := w, resume := r, waitPC := g.pc.word, waitDone := false }).issued c i

/-- Issue the held instruction again. -/
def Group.again (g : Group) : Group := { g with wait := {}, resume := .none, waitDone := false, miss := none }

/-- A read of memory by the group itself waits while the group has queued bytes of it. -/
def Ctx.noQueued (c : Ctx) (loc : Loc) (n : Nat) : Except Trap Unit :=
  if c.g.sq.any fun b => b.elems.any fun e => e.loc.overlaps e.size loc n then .error .stall else .ok ()

/-- The issuing group's part of a change to the whole state. -/
def State.withGroup (s : State) (c : Ctx) (f : Group → Group) : State := s.modGroup c.core c.slot f

/-- Write s[SD]; a mask word takes zero above bit 31 (R235). -/
def State.putS (s : State) (c : Ctx) (d : Nat) (v : DWord) : State :=
  s.withGroup c fun g => g.setS d (if d < 61 then v else (lowWord v).setWidth 64)

/-- One address of a group-wide instruction: its place, or the trap of the first check that fails (R302). `other` maps
the code and subcode of a failed check; `reads` says whether the instruction reads the place now. -/
def State.place (s : State) (c : Ctx) (E : LaneMask) (w : Want) (a : DWord)
    (other : Nat × Nat → Nat × Nat := id) (reads : Bool := !w.write) : Except Trap (Loc × State) :=
  match s.check c.req w a with
  | .bad rk code sub => .error (s.failAt c rk (other (code, sub)).1 (other (code, sub)).2 a E)
  | .miss st x l => .error (c.pageTrap s (if w.write then 1 else 0) a st x l)
  | .ok loc ty =>
    if s.flipping loc then .error .stall
    else if reads && s.poisoned loc w.size then .error (.fault fcProt 6 a E)
    else match loc with
      | .phys pa =>
        let s := s.touch c.core c.g.vf (a.toNat % 2 ^ 57) w.write w.origin
        .ok (loc, if reads then s.loadLine c.core c.g.part c.g.vf (.slice (s.l2Caches pa ty)) 0 loc else s)
      | _ => .ok (loc, s)

/-! ## CMT, WAITT, TLRD (R337 to R339) -/

/-- CMT (R337). -/
def execCmt (f : TOps) : State → Host.Outcome State Fault Refusal := instr (.t 0x123 f) fun c s => do
  c.maskReady
  if c.g.exec f.g1 f.g2 = 0 then return s
  c.freeS f.d.val
  let i := f.op.toNat % 2
  let t := (c.g.tl i).commit
  return s.setGroup c.core c.slot ((c.g.setTl i t).setS f.d.val (BitVec.ofNat 64 t.c))

/-- The batch a WAITT on a timeline awaits (R338). -/
def waitBatch (t : Timeline) (back : Bool) (m : Nat) (v : DWord) : Nat :=
  if back then t.c - m else min v.toNat t.c

/-- The place of a memory counter or future in the global window. -/
def globalWant (size : Nat) (write : Bool) : Want := { spads := false, dscr := false, size := size, write := write }

/-- WAITT (R338). -/
def execWaitt (f : TOps) : State → Host.Outcome State Fault Refusal := instr (.t 0x124 f) fun c s => do
  c.maskReady
  let E := c.g.exec f.g1 f.g2
  if E = 0 then return s
  let _ ← c.nextPc
  if f.op.getLsbD 1 then
    let a ← c.readS f.a.val
    let least ← c.readS f.b.val
    let (loc, s) ← s.place c E (globalWant 8 false) a
    c.loadsDone
    c.noQueued loc 8
    let sys := f.op.getLsbD 3
    if least.toNat ≤ s.readNat loc 8 then
      return s.acquire c.core c.g.vf (if sys then .system else .device)
    else .error (.out (s.park c (.t 0x124 f) { kind := 4, obj := a, val := least } (.counter a loc least sys)))
  else
    let i := f.op.toNat % 2
    let v ← if f.op.getLsbD 2 then .ok 0 else c.readS f.a.val
    let t := c.g.tl i
    let n := waitBatch t (f.op.getLsbD 2) f.imm.toNat v
    if n ≤ t.k then return s.acquire c.core c.g.vf .device
    else .error (.out (s.park c (.t 0x124 f) { kind := 3, sub := i, val := BitVec.ofNat 64 n } (.timeline i n)))

/-- TLRD (R339). -/
def execTlrd (f : TOps) : State → Host.Outcome State Fault Refusal := instr (.t 0x125 f) fun c s => do
  c.maskReady
  if c.g.exec f.g1 f.g2 = 0 then return s
  c.freeS f.d.val
  let t := c.g.tl (f.op.toNat % 2)
  if f.op.getLsbD 1 then return s.putS c f.d.val (BitVec.ofNat 64 t.c)
  else return (s.acquire c.core c.g.vf .device).putS c f.d.val (BitVec.ofNat 64 t.k)

/-! ## Barriers (R340, R341) -/

/-- The phase of a barrier. -/
def State.barPhase (s : State) (core wg : Nat) (cluster : Bool) (b : Nat) : Nat :=
  match s.wg? core wg with
  | none => 0
  | some w =>
    if cluster then match nfind s.clsets w.clset with
      | some cs => (nget {} cs.barriers b).phase
      | none => 0
    else (nget {} w.barriers b).phase

/-- A group joins the arrival set of a barrier. -/
def State.arriveBar (s : State) (core slot wg : Nat) (cluster : Bool) (b : Nat) : State :=
  let add (x : Barrier) : Barrier := { x with arrived := (core, slot) :: x.arrived.filter (· != (core, slot)) }
  match s.wg? core wg with
  | none => s
  | some w =>
    if cluster then match nfind s.clsets w.clset with
      | none => s
      | some cs =>
        { s with clsets := nins s.clsets w.clset
                   { cs with barriers := nset {} cs.barriers b (add (nget {} cs.barriers b)) } }
    else s.setWg core wg { w with barriers := nset {} w.barriers b (add (nget {} w.barriers b)) }

/-- Arrive, and go on at once where the arrival completes the phase; else park. -/
def barrierBody (cluster : Bool) (b op : Nat) (f : TOps) (c : Ctx) (s : State) : Except Trap State := do
  c.maskReady
  let E := c.g.exec f.g1 f.g2
  c.notInHandler E (wordT op f)
  c.flagsIn
  match c.arith E s with
  | some s => .error (.out s)
  | none =>
    c.quiet
    let pc ← c.nextPc
    let ph := s.barPhase c.core c.g.wg cluster b
    let s := s.arriveBar c.core c.slot c.g.wg cluster b
    let s := s.park c (.t op f) { kind := if cluster then 6 else 5, obj := BitVec.ofNat 64 b, val := BitVec.ofNat 64 ph }
      (.barrier cluster b ph)
    let s := if cluster then s.settleBarc c.core c.g.wg b else s.settleBar c.core c.g.wg b
    if s.barPhase c.core c.g.wg cluster b = ph then .error (.out s)
    else
      let s := if cluster then s.acquire c.core c.g.vf .cluster else s
      .error (.out (s.withGroup c fun g => { g with pc := pc, wait := {}, resume := .none }))

/-- BAR (R340), which acts even when E is empty. -/
def execBar (f : TOps) : State → Host.Outcome State Fault Refusal :=
  instr (.t 0x126 f) (barrierBody false (f.imm.toNat % 16) 0x126 f)

/-- BARC (R340), which acts even when E is empty. -/
def execBarc (f : TOps) : State → Host.Outcome State Fault Refusal :=
  instr (.t 0x127 f) (barrierBody true (f.imm.toNat % 4) 0x127 f)

/-! ## Phase objects (R343 to R345) -/

def phaseWant (write : Bool) : Want := { global := false, size := 16, write := write }

/-- The scope of a phase object (R343). -/
def phaseScope (a : DWord) : Scope :=
  if a.toNat / 2 ^ 56 = 0xF0 then .workgroup else if a.toNat / 2 ^ 56 = 0xF1 then .cluster else .die

/-- An absent line parks the group until it lands (R281). -/
def State.presence (s : State) (loc : Loc) (a : DWord) : Except Trap Unit :=
  if s.absentLine loc then .error (.hold { kind := 1, obj := DWord.line a } (.absent loc))
  else .ok ()

/-- ARV (R344): the object's words after n arrivals. -/
def arvWords (w0 : Nat) (phase n : Nat) : List DWord :=
  let pending := w0 % 2 ^ 32
  let expect := w0 / 2 ^ 32 % 2 ^ 32
  let p := pending - n
  [BitVec.ofNat 64 (expect * 2 ^ 32 + (if p = 0 then expect else p)), BitVec.ofNat 64 (if p = 0 then phase + 1 else phase)]

def execArv (f : TOps) : State → Host.Outcome State Fault Refusal := instr (.t 0x128 f) fun c s => do
  c.maskReady
  let E := c.g.exec f.g1 f.g2
  if E = 0 then return s
  c.freeS f.d.val
  let a ← c.readS f.a.val
  let (loc, s) ← s.place c E (phaseWant true) a
  s.presence loc a
  if s.poisoned loc 16 then .error (.fault fcProt 6 a E)
  else
    let n := f.imm.toNat
    let w0 := s.readNat loc 8
    let phase := s.readNat (loc.add 8) 8
    c.quiet
    if w0 % 2 ^ 32 < n then .error (.fault 0x31 3 a E)
    else
      -- a phase that would set lanes of a mask word faults before anything is written (R193)
      let _ ← writeS c.g f.d.val (BitVec.ofNat 64 phase)
      let s := s.store c.core c.g.part c.g.vf loc (wordBytes (arvWords w0 phase n)) 0
      return s.putS c f.d.val (BitVec.ofNat 64 phase)

/-- WPH (R345). -/
def execWph (f : TOps) : State → Host.Outcome State Fault Refusal := instr (.t 0x129 f) fun c s => do
  c.maskReady
  let E := c.g.exec f.g1 f.g2
  if E = 0 then return s
  let _ ← c.nextPc
  let a ← c.readS f.a.val
  let v ← c.readS f.b.val
  let (loc, s) ← s.place c E (phaseWant false) a
  s.presence loc a
  c.loadsDone
  c.noQueued loc 16
  if 0 < (BitVec.ofNat 64 (s.readNat (loc.add 8) 8) - v).toInt then return s.acquire c.core c.g.vf (phaseScope a)
  else .error (.out (s.park c (.t 0x129 f) { kind := 7, obj := a, val := v + 1 } (.phase a loc v)))

/-- YIELD (R346). -/
def execYield (f : TOps) : State → Host.Outcome State Fault Refusal := instr (.t 0x12A f) fun c s => do
  c.maskReady
  if c.g.exec f.g1 f.g2 = 0 then return s
  return s.withGroup c fun g => { g with swapHint := true }

end Sys2Proof.Machine
end

