-- ==== Sys2Proof/Machine/Tasks.lean ====
section
/-! DEFINITION. The task instructions (R117 to R128): job queues, data queues, dependence counters, futures, joins,
further chunks and job facts. -/

namespace Sys2Proof.Machine

def fcQuota : Nat := 0x30
def fcDc : Nat := 0x31
def fcResolve : Nat := 0x32
def fcFuture : Nat := 0x33

/-! ## ENQ (R119) -/

/-- ENQ. -/
def execEnq (f : TOps) : State → Host.Outcome State Fault Refusal := instr (.t 0x180 f) fun c s => do
  c.maskReady
  let E := c.g.exec f.g1 f.g2
  if E = 0 then return s
  c.freeS f.d.val
  let q ← c.readS f.b.val
  let a ← c.readS f.a.val
  if !s.jqUsable c.g.vf q.toNat then raiseOpen fcQuota 1 E
  let (loc, s) ← s.place c E (globalWant 64 false) a
  c.quiet
  if !s.cardRoom c.g.vf q.toNat then .error (.hold { kind := 0x0B, obj := q } (.quota q.toNat false 0))
  else
    let (seq, s) := s.enterCard c.g.vf c.g.part q.toNat (dwords (s.readLoc loc 64)) a
    return s.putS c f.d.val (BitVec.ofNat 64 seq)

/-! ## Data queues (R111 to R113, R120, R121) -/

/-- A check fails for good, by no page fault. -/
def Chk.fails : Chk → Bool
  | .bad .. => true
  | _ => false

def slotWant (write : Bool) : Want := globalWant 32 write

/-- The checks of n slots from a base. -/
def State.slotChecks (s : State) (r : Req) (vf q base n : Nat) (write : Bool) : List (DWord × Chk) :=
  (List.range n).map fun i => let a := s.slotAddr vf q (base + i); (a, s.check r (slotWant write) a)

/-- The first check that fails in any slot, in the order of R302, and in the first slot that fails it. -/
def chkFirst (cs : List (DWord × Chk)) : Option (DWord × Chk) :=
  let r := cs.foldl (fun r x => min r x.2.rank) 100
  if r = 100 then none else cs.find? fun x => x.2.rank == r
def chkLocs (cs : List (DWord × Chk)) : List (DWord × Loc) :=
  cs.filterMap fun x => match x.2 with
    | .ok loc _ => some (x.1, loc)
    | _ => none

/-- Write records to their slots and publish them. -/
def State.publish (s : State) (core : Nat) (g : Group) (q base : Nat) (recs : List (List Word))
    (locs : List (DWord × Loc)) : State :=
  let s := (locs.zip recs).foldl (fun s (p : (DWord × Loc) × List Word) =>
    (s.touch core g.vf (p.1.1.toNat % 2 ^ 57) true 2).store core g.part g.vf p.1.2
      (p.2.flatMap fun w => leBytes 4 w.toNat) 0 (s.cachedAt core g.vf (p.1.1.toNat % 2 ^ 57) p.1.2)) s
  s.modDq g.vf q fun d => d.publishSlots base recs.length false

/-- ENQD (R120). Where a slot's page is missing and another slot fails a check for good, the page fault comes before the
reservation, so that the fault after its replay does too. -/
def execEnqd (f : TOps) : State → Host.Outcome State Fault Refusal := instr (.t 0x181 f) fun c s => do
  c.maskReady
  let E := c.g.exec f.g1 f.g2
  if E = 0 then return s
  let q64 ← c.readS f.a.val
  let q := q64.toNat
  let vf := c.g.vf
  if !s.dqUsable vf q then raiseOpen fcQuota 2 E
  let w := s.dqWords vf q
  if c.g.coilD < w then raise fcCoilRange 1 (BitVec.ofNat 64 w) E
  let low := lanesWhere E fun l => !(c.g.lane l).act.live w
  if low ≠ 0 then raise fcCoilFloor 1 (BitVec.ofNat 64 w) low
  let M := E &&& ~~~c.g.helper
  let n := (lanesOf M).length
  if n = 0 then return s
  let vals ← (List.range w).mapM fun j => c.readLanes M fun l => ((c.g.lane l).act.age c.g.coilD (w - j)).opnd
  let recs := (lanesOf M).map fun l => vals.map fun v => lowWord v[l]
  let d := s.dq vf q
  let base := d.prod.toNat
  let cs := s.slotChecks c.req vf q base n true
  match chkFirst cs with
  | some (a, .bad rk code sub) => .error (s.failAt c rk code sub a E)
  | first =>
    let _ ← match first with
      | some (a, .miss st x l) => if cs.any fun y => y.2.fails then .error (c.pageTrap s 1 a st x l) else .ok ()
      | _ => .ok ()
    c.quiet
    if s.dqSlots vf q < base - d.freed + n then .error (.hold { kind := 0x0B, obj := q64 } (.quota q true n))
    else if (chkLocs cs).any fun p => s.flipping p.2 then .error .stall
    else
      let s := s.modDq vf q fun d => { d with prod := d.prod + BitVec.ofNat 64 n }
      match first with
      | some (a, .miss st x l) =>
        let _ ← c.nextPc
        .error (.out ((s.parkPage c.core c.slot (c.miss 1 c.g.pc.word a st x l) c.g.pc.word
          (some (.publish q base recs))).issued c (.t 0x181 f)))
      | _ => return s.publish c.core c.g q base recs (chkLocs cs)

/-- Whether a consumer reservation of n slots from a base may complete: every earlier slot published and taken, its own
published (R112). -/
def DQueue.ready (d : DQueue) (base n : Nat) : Bool :=
  ((List.range (base - d.freed)).all fun i => d.published.contains (d.freed + i) && d.taken.contains (d.freed + i)) &&
    (List.range n).all fun i => d.published.contains (base + i)

/-- The rank of a lane among the lanes of a mask below it. -/
def rankIn (m : LaneMask) (l : Nat) : Nat := ((lanesOf m).filter fun k => decide (k.val < l)).length

/-- Take records: every lane of E gets its words pushed, and the slots are freed. -/
def State.takeRecs (s : State) (core slot : Nat) (g : Group) (q base w : Nat) (E : LaneMask)
    (locs : List (DWord × Loc)) : State :=
  let M := E &&& ~~~g.helper
  let zeroed := (s.dq g.vf q).zeroed
  let s := locs.foldl (fun s (p : DWord × Loc) => s.touch core g.vf (p.1.toNat % 2 ^ 57) false 0) s
  let word (i j : Nat) : Val := match locs[i]? with
    | none => .word 0
    | some p =>
      if zeroed.contains (base + i) then .word 0
      else if s.poisoned (p.2.add (4 * j)) 4 then .poison g.pc.word
      else .word (wordOfNat (s.readNat (p.2.add (4 * j)) 4))
  let s := s.modGroup core slot fun g => g.modLanes E fun l ln =>
    ln.pushAll g.coilD ((List.range w).map fun j => if inMask M l.val then word (rankIn M l.val) j else .word 0)
  (s.modDq g.vf q fun d => d.takeSlots base locs.length).acquire core g.vf .device

/-- What a consumer's wait does when it ends, if it ends (R112, R121). -/
def State.finishDeq (s : State) (core slot : Nat) (g : Group) (q base n w : Nat) (E : LaneMask)
    (next : State → State) : Option State :=
  if !(s.dq g.vf q).ready base n then none
  else
    let r : Req := { core := core, vf := g.vf, part := g.part, wg := g.wg, fsize := g.frameSize }
    let cs := s.slotChecks r g.vf q base n false
    match chkFirst cs with
    | some (a, .bad _ code sub) => match (s.modGroup core slot Group.again).ctxOf core slot with
      | none => none
      | some c => some (((s.modGroup core slot Group.again).modDq g.vf q fun d => d.takeSlots base n).precise c code sub a E)
    | some (a, .miss st x l) =>
      let m : PageMiss := { va := a, stage2 := st, addr := x, level := l, acc := 0, ctx := g.vf, part := g.part,
                            pc := g.pc.word, entryB := g.entryB, cmd := 0 }
      some (s.parkPage core slot m g.pc.word (some (.deq q base n w E)))
    | _ =>
      if (chkLocs cs).any fun p => s.flipping p.2 then none
      else some (next (s.takeRecs core slot g q base w E (chkLocs cs)))

/-- DEQ (R121). -/
def execDeq (f : TOps) : State → Host.Outcome State Fault Refusal := instr (.t 0x182 f) fun c s => do
  c.maskReady
  let E := c.g.exec f.g1 f.g2
  if E = 0 then return s
  let q64 ← c.readS f.a.val
  let q := q64.toNat
  let vf := c.g.vf
  if !s.dqUsable vf q then raiseOpen fcQuota 2 E
  let _ ← c.nextPc
  let w := s.dqWords vf q
  let n := (lanesOf (E &&& ~~~c.g.helper)).length
  let base := (s.dq vf q).cons.toNat
  let reserved := s.modDq vf q fun d => { d with cons := d.cons + BitVec.ofNat 64 n }
  match chkFirst (s.slotChecks c.req vf q base n false) with
  | some (a, .bad rk code sub) => .error (s.failAt c rk code sub a E)
  | some (a, .miss st x l) =>
    c.loadsDone
    .error (.out ((reserved.parkPage c.core c.slot (c.miss 0 c.g.pc.word a st x l) c.g.pc.word
      (some (.deq q base n w E))).issued c (.t 0x182 f)))
  | _ =>
    c.loadsDone
    match reserved.finishDeq c.core c.slot c.g q base n w E id with
    | some s => return s
    | none => .error (.out (reserved.park c (.t 0x182 f) { kind := 0x0A, obj := q64, val := BitVec.ofNat 64 base }
        (.deq q base n w E)))

/-! ## Dependence counters (R122, R123) -/

/-- The value that DCADD would leave. -/
def dcNext (old : Nat) (f : TOps) (b : DWord) : Int :=
  (old : Int) + if f.op.getLsbD 0 then f.imm.toInt else b.toInt

/-- DCADD (R122). -/
def execDcadd (f : TOps) : State → Host.Outcome State Fault Refusal := instr (.t 0x183 f) fun c s => do
  c.maskReady
  let E := c.g.exec f.g1 f.g2
  if E = 0 then return s
  c.freeS f.d.val
  let i ← c.readS f.a.val
  let b ← if f.op.getLsbD 0 then .ok 0 else c.readS f.b.val
  if s.dcn c.g.vf ≤ i.toNat then raiseOpen fcQuota 3 E
  c.quiet
  let x := dcNext (s.dc c.g.vf i.toNat) f b
  if x < 0 then raise fcDc 1 (Config.dcDetail i.toNat x) E
  if 2 ^ 32 ≤ x then raiseOpen fcDc 2 E
  return (s.dcSet c.g.vf i.toNat x.toNat).putS c f.d.val (BitVec.ofInt 64 x)

/-- DCRD (R123). -/
def execDcrd (f : TOps) : State → Host.Outcome State Fault Refusal := instr (.t 0x184 f) fun c s => do
  c.maskReady
  let E := c.g.exec f.g1 f.g2
  if E = 0 then return s
  c.freeS f.d.val
  let i ← c.readS f.a.val
  if s.dcn c.g.vf ≤ i.toNat then raiseOpen fcQuota 3 E
  let v := s.dc c.g.vf i.toNat
  let s := if v = 0 then s.acquire c.core c.g.vf .device else s
  return s.putS c f.d.val (BitVec.ofNat 64 v)

/-! ## Futures (R124 to R126) -/

/-- A misaligned future faults FUTURE_ALIGN (R124). -/
def futCode (p : Nat × Nat) : Nat × Nat := if p.1 = fcAlign then (fcFuture, 1) else p

/-- What an instruction admits of a future; a write of a future has the dealer's origin (R433). -/
def futWant (write : Bool) : Want := { globalWant 16 write with origin := 2 }

/-- FRES (R124). -/
def execFres (f : TOps) : State → Host.Outcome State Fault Refusal := instr (.t 0x185 f) fun c s => do
  c.maskReady
  let E := c.g.exec f.g1 f.g2
  if E = 0 then return s
  let a ← c.readS f.a.val
  let reset := f.op.getLsbD 0
  let v ← if reset then .ok 0 else c.readS f.b.val
  let (loc, s) ← s.place c E (futWant true) a futCode
  if s.poisoned loc 16 then raise fcProt 6 a E
  c.quiet
  if reset then match s.resetFuture c.core c.g.part c.g.vf a loc with
    | some s => return s
    | none => raise fcResolve 2 a E
  else match s.resolve c.core c.g.part c.g.vf a loc v with
    | some s => return s
    | none => raise fcResolve 1 a E

/-- The checks of an address alone, before its translation: space and alignment. -/
def State.addrForm (s : State) (c : Ctx) (E : LaneMask) (w : Want) (a : DWord) (other : Nat × Nat → Nat × Nat := id) :
    Except Trap Unit :=
  match s.check c.req w a with
  | .bad r code sub => if r ≤ 2 then .error (.fault (other (code, sub)).1 (other (code, sub)).2 a E) else .ok ()
  | _ => .ok ()

/-- Several addresses placed in order. -/
def State.placeAll (s : State) (c : Ctx) (E : LaneMask) (w : Want) (other : Nat × Nat → Nat × Nat) :
    List DWord → Except Trap (List (DWord × Loc) × State)
  | [] => .ok ([], s)
  | a :: r => do
    let (loc, s) ← s.place c E w a other
    let (ls, s) ← s.placeAll c E w other r
    return ((a, loc) :: ls, s)

/-- FJOIN (R125): the number of futures, the join count. -/
def joinN (f : TOps) : Nat := f.imm.toNat % 8
def joinJ (f : TOps) : Nat := f.imm.toNat / 16 % 8

/-- FJOIN. Its record is the free one with the lowest index (R125 says only "a record h"; DESIGN CHOICE, assumption 93). -/
def execFjoin (f : TOps) : State → Host.Outcome State Fault Refusal := instr (.t 0x186 f) fun c s => do
  c.maskReady
  let E := c.g.exec f.g1 f.g2
  if E = 0 then return s
  c.freeS f.d.val
  let card ← c.readS f.a.val
  let list ← c.readS f.b.val
  let vf := c.g.vf
  let q := f.op.toNat % 16
  if !s.jqUsable vf q then raiseOpen fcQuota 1 E
  s.addrForm c E (globalWant 64 false) card
  let entries := (List.range (joinN f)).map fun i => list + BitVec.ofNat 64 (8 * i)
  entries.forM fun a => s.addrForm c E (globalWant 8 false) a
  let (ls, s) ← s.placeAll c E (globalWant 8 false) id entries
  c.quiet
  let futs := ls.map fun p => BitVec.ofNat 64 (s.readNat p.2 8)
  futs.forM fun a => s.addrForm c E (futWant true) a futCode
  let (_, s) ← s.place c E (globalWant 64 false) card id false
  let (fl, s) ← s.placeAll c E (futWant true) futCode futs
  match fl.find? fun p => s.poisoned p.2 16 with
  | some p => raise fcProt 6 p.1 E
  | none =>
    match (List.range (s.jnn vf)).find? fun h => (nfind (s.vf vf).joins h).isNone with
    | none => raiseOpen fcQuota 4 E
    | some h =>
      let r : JoinRec := { card := card, part := c.g.part, q := q, cnt := joinJ f, left := joinN f, futs := futs,
                           places := fl.map fun p => locKey p.2, links := List.replicate (joinN f) 0, rep := [] }
      let s := s.joinPut vf h r
      let s := (fl.zipIdx).foldl (fun s (p : (DWord × Loc) × Nat) => s.register c.core c.g.part vf p.1.1 p.1.2 h p.2) s
      return s.putS c f.d.val (BitVec.ofNat 64 (h + 1))

/-- The future's words go to two scalars; a resolved one is an acquire (R126). A line of it in L1 is brought up to date, so that
no later load sees an older value (R317). -/
def State.readFuture (s : State) (core slot vf : Nat) (loc : Loc) (d : Nat) : State :=
  let w0 := s.futWord0 loc
  let v := s.futValue loc
  let s := if 2 ≤ futState w0 then s.acquire core vf .device else match loc with
    | .phys pa => s.l1Refresh core vf pa
    | _ => s
  s.modGroup core slot fun g => (g.setS d w0).setS (d + 1) v

/-- FGET (R126). -/
def execFget (f : TOps) : State → Host.Outcome State Fault Refusal := instr (.t 0x187 f) fun c s => do
  c.maskReady
  let E := c.g.exec f.g1 f.g2
  if E = 0 then return s
  c.freeS f.d.val
  c.freeS (f.d.val + 1)
  let a ← c.readS f.a.val
  let wait := f.op.getLsbD 0
  let _ ← if wait then c.nextPc.map fun _ => () else .ok ()
  let (loc, s) ← s.place c E (futWant false) a futCode
  c.loadsDone
  c.noQueued loc 16
  if wait && decide (futState (s.futWord0 loc) < 2) then
    .error (.out (s.park c (.t 0x187 f) { kind := 0x0E, obj := a, val := 2 } (.future a loc f.d.val)))
  else return s.readFuture c.core c.slot c.g.vf loc f.d.val

/-! ## NEXTCH and TINFO (R127, R128) -/

/-- NEXTCH (R127). -/
def execNextch (f : TOps) : State → Host.Outcome State Fault Refusal := instr (.t 0x188 f) fun c s => do
  c.maskReady
  let E := c.g.exec f.g1 f.g2
  if E = 0 then return s
  c.freeS f.d.val
  c.freeS (f.d.val + 1)
  let two (s : State) (a b : DWord) : State := (s.putS c f.d.val a).putS c (f.d.val + 1) b
  match s.job? c.g.job with
  | none => return two s 0 0
  | some j =>
    if j.remaining = 0 then return two s 0 0
    else
      let n := j.chunkSize (s.fittingCores j.part j.lrec).length
      let s := s.setJob c.g.job (j.deal n)
      let s := s.withGroup c fun g => { g with latestFirst := j.next, latestCount := n }
      return two s (j.recAddr j.next) (BitVec.ofNat 64 n)

/-- The fact a selector names (R128). -/
def State.fact (s : State) (c : Ctx) (sel : Nat) : DWord :=
  let j := s.job? c.g.job
  let of (f : Job → Nat) : DWord := match j with
    | some j => BitVec.ofNat 64 (f j)
    | none => 0
  match sel with
  | 0 => BitVec.ofNat 64 c.g.latestFirst
  | 1 => BitVec.ofNat 64 c.g.latestCount
  | 2 => of Job.remaining
  | 3 => c.card
  | 4 => of (·.queue)
  | 5 => of (·.seq)
  | 6 => of Job.prio
  | 7 => of (·.chunks)
  | _ => match s.wg? c.core c.g.wg with
    | some w => BitVec.ofNat 64 w.stolen
    | none => 0

/-- TINFO (R128). -/
def execTinfo (f : TOps) : State → Host.Outcome State Fault Refusal := instr (.t 0x189 f) fun c s => do
  c.maskReady
  if c.g.exec f.g1 f.g2 = 0 then return s
  c.freeS f.d.val
  return s.putS c f.d.val (s.fact c f.imm.toNat)

end Sys2Proof.Machine
end

