-- ==== Sys2Proof/Machine/Dealer.lean ====
section
/-! DEFINITION. What the job dealer does with cards, apart from its events: latencies (R436 to R438), completion (R108),
card and launch-record checks (R58, R96), order among cards (R101, R103), and chunks (R104, R105). -/

namespace Sys2Proof.Machine

/-! ## Latencies (R436 to R438) -/

/-- The bucket of a latency in ns (R436). -/
def latBucket (x : Nat) : Nat := if x < 64 then 0 else if x < 2 ^ 37 then Nat.log2 x - 5 else 31

/-- The least bucket at which the cumulative count reaches a number (R438). -/
def percentile (bs : List Nat) (need : Nat) : Nat :=
  ((List.range 32).find? fun b => decide (need ≤ (bs.filter fun x => decide (x ≤ b)).length)).getD 31

/-- The three percentiles of a window of n latencies. -/
def percentiles (bs : List Nat) (n : Nat) : Nat × Nat × Nat :=
  (percentile bs ((n + 1) / 2), percentile bs ((99 * n + 99) / 100), percentile bs ((999 * n + 999) / 1000))

def satInc32 (x : BitVec 32) : BitVec 32 := if x = 0xFFFFFFFF then x else x + 1

def lmOfs (vf q : Nat) : Nat := 0x740000 + 0x200 * vf + 0x20 * q

/-- A window closes (R438). -/
def State.closeWindow (s : State) (vf q : Nat) (l : Latency) : State :=
  let cfg := s.pr (lmOfs vf q)
  let n := l.window.length
  let (a50, a99, a999) := percentiles (l.window.map (·.1)) n
  let (d50, d99, d999) := percentiles (l.window.map (·.2)) n
  let word := BitVec.ofNat 64 (a50 + a99 * 2 ^ 8 + a999 * 2 ^ 16 + d50 * 2 ^ 24 + d99 * 2 ^ 32 + d999 * 2 ^ 40 + 2 ^ 48)
  let (p50, p99, p999) := if bit cfg 38 then (a50, a99, a999) else (d50, d99, d999)
  let above (p b : Nat) : Bool := decide (b < p)
  let breach := above p50 (fld cfg 16 6) || above p99 (fld cfg 24 6) || above p999 (fld cfg 32 6)
  let l := { l with window := [], pct := word, windows := l.windows + 1,
                    breaches := if breach then l.breaches + 1 else l.breaches }
  let s := s.modVf vf fun v => { v with lat := nset {} v.lat q l }
  if !breach then s
  else
    let words : List DWord := [BitVec.ofNat 64 (3 * 2 ^ 32), BitVec.ofNat 64 q, word, 0, 0, 0, BitVec.ofNat 64 s.ref, 0]
    ((s.eqWrite vf words).pfRecord vf 6 words words none).raise pfn (fld cfg 40 11)

/-- The two latencies of a completed card. -/
def State.latency (s : State) (j : Job) : State :=
  let a := latBucket (j.startedAt - j.enteredAt)
  let d := latBucket (s.ref - j.enteredAt)
  let l := nget {} (s.vf j.vf).lat j.queue
  let l := { l with start := nset 0 l.start a (satInc32 (nget 0 l.start a)),
                    done := nset 0 l.done d (satInc32 (nget 0 l.done d)) }
  let cfg := s.pr (lmOfs j.vf j.queue)
  let on := decide (j.vf < 256) && bit cfg 0
  let l := if on then { l with window := l.window ++ [(a, d)] } else l
  let s := s.modVf j.vf fun v => { v with lat := nset {} v.lat j.queue l }
  if on && decide (2 ^ fld cfg 1 5 ≤ l.window.length) then s.closeWindow j.vf j.queue l else s

/-! ## Completion (R108) -/

/-- Step 2: the completion counter. -/
def State.completeCounter (s : State) (j : Job) : State :=
  let w7 := wordAtD j.words 7
  if !bit w7 5 then s
  else
    let c := fld w7 16 16
    if s.dc j.vf c = 0 then s.eqKind j.vf 2 0x31 j.addr (BitVec.ofNat 64 c)
    else s.dcSet j.vf c (s.dc j.vf c - 1)

/-- The address of a card's completion future (R94, R108). A card refused for reserved bits of w5 keeps them above the future's
address, which then lies outside the global window: ADDR_SPACE (DESIGN CHOICE, assumption 93). -/
def Job.future (j : Job) : DWord := wordAtD j.words 5 &&& ~~~(15#64)

/-- Step 3 waits for a flip of the future's page (R292). -/
def State.futureHeld (s : State) (j : Job) : Bool :=
  bit (wordAtD j.words 7) 6 && decide (j.future.toNat < 2 ^ 57) && s.fnHeld j.vf j.future.toNat

/-- Step 3: the completion future, through the function's translation; a failure, poison anywhere in its line among them, is an
event record. -/
def State.completeFuture (s : State) (j : Job) (value : DWord) : State :=
  if !bit (wordAtD j.words 7) 6 then s
  else
    let a := j.future
    let r : Req := { core := 64, vf := j.vf, part := j.part, wg := 0, fsize := 0 }
    let report (s : State) (code : Nat) : State := s.eqKind j.vf 2 code j.addr a
    match s.check r (futWant true) a with
    | .bad _ code _ => report s code
    | .miss .. => report s fcPage
    | .ok (.phys pa) _ =>
      if s.poisoned (.phys (lineOf pa)) 128 then report s fcProt
      else match ((s.settleFlip pa).touch 64 j.vf (a.toNat % 2 ^ 57) true 2).resolve 64 j.part j.vf a (.phys pa) value with
        | some s => s
        | none => report s 0x32
    | .ok .. => s

/-- The value a completion gives its future (R108). -/
def Job.outcome (j : Job) : DWord :=
  match j.refused, j.faultCode with
  | some r, _ => BitVec.ofNat 64 (2 ^ 63 + r)
  | none, some f => BitVec.ofNat 64 (2 ^ 62 + f)
  | none, none => 0

/-- A card completes: its actions in order, and its place is free. One that has to wait for its future's page completes later
(JOB_COMPLETE). -/
def State.complete (s : State) (id : Nat) : State :=
  match s.job? id with
  | none => s
  | some j =>
    if s.futureHeld j then s else
    let s := (s.completeCounter j).completeFuture j j.outcome
    let s := s.modJq j.vf j.queue fun q => { q with done := q.done + 1 }
    let s := if j.refused.isSome then s else s.latency j
    let cores := s.cores.map fun (k : Core) => { k with served := k.served.filter (· != id) }
    (State.noteFences { s with jobs := ndel s.jobs id, cores := cores }).enterConts j.vf

/-- A card is refused with a reason: its record, then its completion (R58, R96). -/
def State.refuse (s : State) (id : Nat) (j : Job) (code : Nat) : State :=
  ((s.refusal j.vf j.queue j.seq code j.addr).setJob id { j with refused := some code, parsed := true }).complete id

/-! ## Card checks (R96) -/

def Job.gcnt (j : Job) : Nat := fld (wordAtD j.words 6) 58 4
def Job.gaddr (j : Job) : DWord := wordAtD j.words 6 &&& 0x01FFFFFFFFFFFFF0#64

/-- Reserved bits of w5 to w7 (R94). -/
def Job.reservedSet (j : Job) : Bool :=
  let w5 := wordAtD j.words 5
  let w6 := wordAtD j.words 6
  let w7 := wordAtD j.words 7
  w5 &&& 0xFE0000000000000F#64 != 0 ||
    w6 &&& (if j.gate = 1 then 0x3FFFFFFFFFFF0000#64 else 0x020000000000000F#64) != 0 ||
    w7 &&& 0x8000FFFF0000FF00#64 != 0

/-- The checks on the card alone, in ascending code order. -/
def State.cardCheck (s : State) (j : Job) : Option Nat :=
  let region := bit (s.jqCfg j.vf j.queue) 1
  let isJob := j.kind == 0
  let w7 := wordAtD j.words 7
  let dcn := s.dcn j.vf
  if 2 ≤ j.kind ∨ (j.kind = 1 ∧ region) then some 0x10
  else if isJob ∧ (j.rsize < 8 ∨ 512 < j.rsize ∨ j.rsize % 8 ≠ 0 ∨ j.args.toNat % 8 ≠ 0) then some 0x11
  else if isJob ∧ (j.minch = 0 ∨ j.div = 0) then some 0x12
  else if (j.gate = 2 ∧ (!region ∨ !isJob)) ∨ (j.gate = 3 ∧ isJob) then some 0x13
  else if (j.gate = 2 ∧ 3 < j.gcnt) ∨ (j.gate = 3 ∧ 11 < j.gcnt) then some 0x14
  else if (bit w7 5 ∧ dcn ≤ fld w7 16 16) ∨ (j.gate = 1 ∧ dcn ≤ fld (wordAtD j.words 6) 0 16) then some 0x15
  else if j.reservedSet then some 0x16
  else none

/-- A condition of a FENCE card names something that exists (R102). -/
def State.condOk (s : State) (vf : Nat) (c : DWord × DWord) : Bool :=
  match fld c.1 62 2 with
  | 0 => false
  | 1 => true
  | 2 => decide (fld c.1 0 57 < s.jqn vf)
  | _ => decide (fld c.1 0 57 < s.dcn vf)

def pairsOf : List DWord → List (DWord × DWord)
  | a :: b :: r => (a, b) :: pairsOf r
  | _ => []

/-- Parse an entered card: refused, or held with its list read (R96, R102, R103). Of several failed checks the reported one is
the lowest code of those on the card alone, then the list's (DESIGN CHOICE, assumption 74). -/
def State.parse (s : State) (id : Nat) (j : Job) : State :=
  match s.cardCheck j with
  | some code => s.refuse id j code
  | none =>
    if j.gate ≤ 1 then s.setJob id { j with parsed := true, cstate := .gated }
    else match s.fnReads j.vf (2 * (j.gcnt + 1)) j.gaddr with
      | none => s.refuse id j 0x17
      | some (b, s) =>
        let es := pairsOf (dwords b)
        if j.gate = 2 then
          s.setJob id { j with parsed := true, cstate := .gated,
                               ranges := es.map fun e => (fld e.1 0 57, e.2.toNat, bit e.1 63) }
        else if es.all (s.condOk j.vf) then (s.setJob id { j with parsed := true, cstate := .gated, conds := es }).noteFences
        else s.refuse id j 0x14

/-! ## Order (R101, R103) -/

/-- Two ranges overlap and one of them is written. -/
def rangesMeet (a b : Nat × Nat × Bool) : Bool :=
  decide (0 < a.2.1) && decide (0 < b.2.1) && decide (a.1 < b.1 + b.2.1) && decide (b.1 < a.1 + a.2.1) && (a.2.2 || b.2.2)

/-- The gate of a card is open (R94, R103, R110). -/
def State.gateOpen (s : State) (j : Job) : Bool :=
  match j.gate with
  | 1 => j.released
  | 2 => (s.inQueue j.vf j.queue).all fun p =>
      decide (j.seq ≤ p.2.seq) || !(j.ranges.any fun a => p.2.ranges.any (rangesMeet a))
  | _ => true

/-- Every earlier card of an ordered queue has started (R101). -/
def State.inTurn (s : State) (j : Job) : Bool :=
  bit (s.jqCfg j.vf j.queue) 1 ||
    (s.inQueue j.vf j.queue).all fun p => decide (j.seq ≤ p.2.seq) || p.2.cstate == .started

/-- A card that may start, or has started. -/
def State.mayStart (s : State) (j : Job) : Bool :=
  j.parsed && j.refused.isNone && (j.cstate == .started || (s.gateOpen j && s.inTurn j))

/-- Nothing of a job is left: no chunk, no workgroup, no command of its groups (R108). -/
def State.jobIdle (s : State) (id : Nat) : Bool :=
  s.coreList.all fun p => (p.2.dealq.all fun ch => ch.job != id) && p.2.wgs.all fun w => w.2.job != id

/-- A job whose last workgroup and command are gone, or that had nothing to do, completes (R104, R108), and so does a refused card
that has waited for its future's page. -/
def State.completable (s : State) (id : Nat) (j : Job) : Bool :=
  j.refused.isSome || (j.kind == 0 && j.remaining == 0 && s.mayStart j && s.jobIdle id)

/-! ## When a function is idle (R433, R435) -/

/-- Groups of a function, resident anywhere. -/
def State.groupsOf (s : State) (vf : Nat) : List (Nat × Nat × Group) := s.groupList.filter fun p => p.2.2.vf == vf

/-- The dealer has something to do for a function: a card of one that is not halted, a job to complete or a record withheld
for want of room of one that is (DEDUCED, assumption 82). -/
def State.dealerDue (s : State) (vf : Nat) : Bool :=
  if (s.vf vf).pstate = .halted then
    (s.jobs.any fun p => p.2.vf == vf && s.completable p.1 p.2) || (s.vf vf).fq.any fun e => e.seq.isNone
  else (s.jobs.any fun p => p.2.vf == vf) || (s.vf vf).jqs.any fun q => !q.2.ring.isEmpty

/-- IDLE of the dirty-page log (R433): no group of the function runs, no access of it is in flight, a queued walk and a line of a
returned scratchpad row among them, no command of it is in an engine, and the dealer has nothing to do for it. -/
def State.vfIdle (s : State) (vf : Nat) : Bool :=
  (s.groupsOf vf).all (fun p => p.2.2.gstate == .halted && p.2.2.pends.isEmpty && p.2.2.sq.isEmpty &&
    p.2.2.t0.idle && p.2.2.t1.idle) &&
  s.coreList.all (fun k => (k.2.copies.all fun q => q.vf != vf) && k.2.wgs.all fun w => w.2.vf != vf || w.2.arriving.isEmpty) &&
  s.dies.toList.all (fun d => d.walks.all fun w => w.2.1 / 4 != vf) && (s.vf vf).late.all Late.isCommand && !s.dealerDue vf

/-- A halted function that shows IDLE with its log enabled writes no page until it resumes (R435). -/
def State.logQuiet (s : State) (vf : Nat) : Bool :=
  dirtyLogOn s vf && (s.vf vf).pstate == .halted && s.vfIdle vf

/-- What leads from one state to another would add to the log of such a function. -/
def State.logsQuietly (s t : State) (vf : Nat) : Bool :=
  s.logQuiet vf && ((t.vf vf).dlProd != (s.vf vf).dlProd || t.pr (dirtyOfs vf 0x10) != s.pr (dirtyOfs vf 0x10))

/-- The function of the turn now running in a sliced partition (R424). -/
def sliceOfs (p o : Nat) : Nat := 0x5B0000 + 0x40 * p + o
def State.sliced (s : State) (p : Nat) : Bool := bit (s.pr (sliceOfs p 0)) 0
def State.turnVf (s : State) (p i : Nat) : Option Nat :=
  if i < fld (s.pr (sliceOfs p 0x10)) 0 4 ∧ s.bound (fld (s.pr (sliceOfs p 8)) (8 * i) 8) = some p
  then some (fld (s.pr (sliceOfs p 8)) (8 * i) 8) else none

/-- The dealer deals chunks of a function: it is not pre-empted, and in a sliced partition its turn runs (R414, R425). -/
def State.dealt (s : State) (vf : Nat) : Bool :=
  (s.vf vf).pstate == .running && match s.bound vf with
    | none => false
    | some p => !s.sliced p || vf == pfn || s.turnVf p (s.part p).cur == some vf

/-! ## The launch record (R51, R53, R58) -/

/-- The checks on the record alone, in the order of R58. -/
def launchCheck (entry : DWord) (l : List DWord) : Option Nat :=
  if fld (wordAtD l 0) 0 16 ≠ 1 then some 0x01
  else if entry.toNat % 64 ≠ 0 ∨ 2 ^ 56 ≤ entry.toNat then some 0x02
  else if 704 < lrFslots l ∨ lrAllot l = 0 ∨ lrAllot l * 4096 < (lrDepth l + lrFslots l) * 384 then some 0x03
  else if lrGpw l = 0 ∨ 16 < lrGpw l ∨ lrWpc l = 0 ∨ 4 < lrWpc l ∨ 1 < lrHelper l then some 0x04
  else if 768 < lrSpad l ∨ 8192 < lrDscr l ∨ lrL1 l = 1 ∨ 24 < lrL1 l ∨ 4480 < 4 * lrSpad l + 64 * lrL1 l then some 0x05
  else if 128 < lrKcnt l then some 0x06
  else if lrStride l < lrAllot l + 2 + lrSpad l then some 0x08
  else none

def ptOffset (e : DWord × DWord) : Int := (e.2.setWidth 32).toInt
def ptBase (e : DWord × DWord) : Nat := fld e.2 32 10
def ptCount (e : DWord × DWord) : Nat := fld e.2 42 10

/-- One entry of the pre-emption table in range (R53); a bit set above its count is out of range too (DESIGN CHOICE, assumption
75). -/
def ptOk (l : List DWord) (e : DWord × DWord) : Bool :=
  fld e.2 53 11 == 0 && ptOffset e % 64 == 0 && decide (ptBase e ≤ 703) && decide (ptBase e + ptCount e ≤ 704) &&
    decide (ptBase e + ptCount e ≤ lrFslots l) && decide (e.1.toNat < 2 ^ lrDepth l)

def ascending : List Int → Bool
  | a :: b :: r => decide (a < b) && ascending (b :: r)
  | _ => true

/-- The record, k table and pre-emption table read for a first chunk: the job with them, or the refusal code, or none while a flip
of a page of theirs is under way (R292). An address
outside the global window or the memory map counts as one that cannot be read, and the record is read at its address as
it stands (DESIGN CHOICE, assumption 75). -/
def State.launch (s : State) (j : Job) : Except (Option Nat) (Job × State) :=
  let held (s : State) (a : DWord) (k : Nat) : Bool := s.spanHeld j.vf (a.toNat % 2 ^ 57) (8 * k)
  if held s (wordAtD j.words 4) 16 then .error none
  else match s.fnReads j.vf 16 (wordAtD j.words 4) with
  | none => .error (some 0x09)
  | some (b, s) =>
    let l := dwords b
    let entry := if wordAtD j.words 0 = 0 then lrEntry l else wordAtD j.words 0
    match launchCheck entry l with
    | some code => .error (some code)
    | none =>
      if held s (lrKtab l) (lrKcnt l) || held s (lrPtab l) (2 * lrPcnt l) then .error none
      else match s.fnReads j.vf (lrKcnt l) (lrKtab l) with
      | none => .error (some 0x09)
      | some (kb, s) => match s.fnReads j.vf (2 * lrPcnt l) (lrPtab l) with
        | none => .error (some 0x09)
        | some (pb, s) =>
          let pt := pairsOf (dwords pb)
          if ascending (pt.map ptOffset) && pt.all (ptOk l) then
            .ok ({ j with lrec := l, ktab := dwords kb, ptab := pt }, s)
          else .error (some 0x07)

/-! ## Chunks (R104 to R106) -/

/-- The next chunk of a job: its size, and 0 records once they have run out (R105). -/
def Job.nextChunk (j : Job) (C : Nat) (id clset setSize : Nat) : Chunk × Job :=
  let n := j.chunkSize C
  ({ job := id, wgid := j.wgid, first := j.next, count := n, clset := clset, setSize := setSize, stolen := 0 },
    { j.deal n with wgid := j.wgid + 1 })

/-- A chunk joins a core's deal queue, and the core serves its job from now on (R107). -/
def State.pushChunk (s : State) (core : Nat) (ch : Chunk) : State :=
  s.modCore core fun k => { k with dealq := k.dealq ++ [ch]
                                   served := if k.served.contains ch.job then k.served else k.served ++ [ch.job] }

/-- Deal one chunk to each of some cores, sized one after another. -/
def State.dealTo (s : State) (id clset : Nat) (C : Nat) (setSize : Nat) : List Nat → Job → State
  | [], j => s.setJob id j
  | c :: r, j =>
    let (ch, j) := j.nextChunk C id clset setSize
    (s.pushChunk c ch).dealTo id clset C setSize r j

/-- The core of a list with the fewest chunks in its deal queue, lowest number first (R106). -/
def State.fewest (s : State) : List Nat → Option Nat
  | [] => none
  | c :: r => match s.fewest r with
    | none => some c
    | some d => if (s.core c).dealq.length ≤ (s.core d).dealq.length then some c else some d

/-- n cores by the choice of R106, one after another. -/
def State.fewestN (s : State) : Nat → List Nat → List Nat
  | 0, _ => []
  | n + 1, cs => match s.fewest cs with
    | none => []
    | some c => c :: s.fewestN n (cs.filter (· != c))

/-- The cores that a deal of a job goes to: those that fit a workgroup now before those that fit one by capacity; for a
cluster set, distinct cores of one cluster, that of the core which R106 picks among the clusters that have enough of them
(R105, R106, R139). -/
def State.targets (s : State) (j : Job) : Option (List Nat) :=
  let l := j.lrec
  let room (c : Nat) : Bool := decide ((s.core c).dealq.length < 2)
  let now := (List.range 64).filter fun c => room c && s.fitsNow j l true c
  let ahead := (s.fittingCores j.part l).filter room
  if lrWpc l = 1 then ((s.fewest now).orElse fun _ => s.fewest ahead).map fun c => [c]
  else
    let near (cs : List Nat) (c : Nat) : List Nat := cs.filter fun d => d / 4 == c / 4
    let set (cs : List Nat) : Option (List Nat) :=
      (s.fewest (cs.filter fun c => decide (lrWpc l ≤ (near cs c).length))).map fun c => s.fewestN (lrWpc l) (near cs c)
    (set now).orElse fun _ => set ahead

/-- Try to deal a chunk (or a cluster set's chunks) of a card; none where no core takes it. -/
def State.tryDeal (s : State) (id : Nat) (j : Job) : Option State :=
  let read := if j.lrec.isEmpty then s.launch j else .ok (j, s)
  match read with
  | .error none => none
  | .error (some code) => some (s.refuse id j code)
  | .ok (j, s) => match s.targets j with
    | none => none
    | some cs =>
      let j := if j.cstate = .started then j else { j with cstate := .started, startedAt := s.ref }
      let (set, s) := s.newId
      some (s.dealTo id set (s.fittingCores j.part j.lrec).length cs.length cs j)

/-- Insert a card by its order of entry. -/
def insertCard (x : Nat × Job) : List (Nat × Job) → List (Nat × Job)
  | [] => [x]
  | y :: r => if x.2.order ≤ y.2.order then x :: y :: r else y :: insertCard x r

/-- Cards of a partition with records to deal, the most urgent first, then in entry order (R106). -/
def State.candidates (s : State) (part : Nat) : List (Nat × Job) :=
  let l := s.jobs.filter fun p => p.2.part == part && p.2.kind == 0 && decide (0 < p.2.remaining) && s.mayStart p.2 &&
    s.dealt p.2.vf
  (List.range 4).reverse.flatMap fun pr => (l.filter fun p => p.2.prio == pr).foldr insertCard []

end Sys2Proof.Machine
end

