-- ==== Sys2Proof/Machine/Copy.lean ====
section
/-! DEFINITION. The copy engine (R326 to R335): issue of CPY, CPYG and CPYS, the pieces that the engine reads and writes,
and completion; and the sending of Osier frames for remote pieces (R458, R459). -/

namespace Sys2Proof.Machine

/-! ## Descriptors (R329) -/

def copyRemote (a : DWord) : Bool := fld a 56 8 == 0xF4
def copyGlobal (a : DWord) : Bool := decide (fld a 56 8 ≤ 1)

/-- FUT and NOTE, scope, of a descriptor (NOTE is CPY's alone). -/
def cpyFut (kind : Nat) (k0 : DWord) : Bool := if kind = 0 then bit k0 51 else bit k0 27
def cpyNote (kind : Nat) (k0 : DWord) : Bool := kind == 0 && bit k0 52
def cpyScope (kind : Nat) (k0 : DWord) : Nat := if kind = 0 then fld k0 48 3 else fld k0 24 3

/-- A reserved field or value, or another breach of check 1 of R330. -/
def cpyBad (kind : Nat) (k0 : DWord) (kix cnt : Nat) (dst : DWord) : Bool :=
  let pool := fld k0 20 2
  let elem := fld k0 16 4
  decide (5 < cpyScope kind k0) || ((cpyFut kind k0 || cpyNote kind k0) && decide (125 < kix)) ||
  (cpyNote kind k0 && (cpyFut kind k0 || !copyRemote dst)) ||
  (match kind with
    | 0 => fld k0 53 11 != 0 || cnt != 0
    | 1 => decide (3 < elem) || (elem == 3 && decide (1 < pool)) || fld k0 28 4 != 0 || fld k0 22 2 != 0 ||
        fld k0 0 16 == 0 || (if pool = 0 then cnt != 0 else cnt == 0 || decide (96 < cnt))
    | _ => decide (3 < elem) || pool != 0 || fld k0 28 4 != 0 || fld k0 22 2 != 0 || fld k0 0 16 == 0 || cnt != 0)

/-- Element bytes of a gather or scatter. -/
def elemBytes (k0 : DWord) : Nat := if fld k0 16 4 = 0 ∨ fld k0 16 4 = 3 then 4 else 2

def DWord.up (a : DWord) (n : Nat) : DWord := a + BitVec.ofNat 64 n

/-- Bytes of a gathered or scattered row. -/
def rowBytes (k0 : DWord) : Nat := fld k0 0 16 * elemBytes k0

/-- Dense rows of a gather: one for each bag, or for each rank. -/
def bags (k0 : DWord) (cnt n : Nat) : Nat := if fld k0 20 2 = 0 then n else (n + cnt - 1) / max 1 cnt

/-- A row of a command: number, address, bytes. -/
abbrev Row := Nat × DWord × Nat

/-- Rows of a strided side. -/
def strided (a : DWord) (n stride len : Nat) : List Row := (List.range n).map fun i => (i, DWord.up a (i * stride), len)

/-- Rows of an indexed table side; an index out of range has no row. -/
def indexed (a : DWord) (idxs : List (Nat × Word)) (limit stride len : Nat) : List Row :=
  (idxs.zip (List.range idxs.length)).filterMap fun p =>
    let x := p.1.2.toNat
    if x < limit then some (p.2, DWord.up a (x * stride), len) else none

/-- The source rows and the destination rows of a command. -/
def srcRows (kind : Nat) (src k0 k1 : DWord) (idxs : List (Nat × Word)) : List Row :=
  match kind with
  | 0 => strided src (fld k0 32 16 + 1) (fld k1 0 32) (fld k0 0 32)
  | 1 => indexed src idxs (fld k0 32 32) (fld k1 0 32) (rowBytes k0)
  | _ => strided src idxs.length (fld k1 32 32) (rowBytes k0)

def dstRows (kind : Nat) (dst k0 k1 : DWord) (cnt : Nat) (idxs : List (Nat × Word)) : List Row :=
  match kind with
  | 0 => strided dst (fld k0 32 16 + 1) (fld k1 32 32) (fld k0 0 32)
  | 1 => strided dst (bags k0 cnt idxs.length) (fld k1 32 32) (rowBytes k0)
  | _ => indexed dst idxs (fld k0 32 32) (fld k1 0 32) (rowBytes k0)

def CopyCmd.srcs (c : CopyCmd) : List Row := srcRows c.kind c.src c.k0 c.k1 c.idxs
def CopyCmd.dsts (c : CopyCmd) : List Row := dstRows c.kind c.dst c.k0 c.k1 c.cnt c.idxs

/-- The start, within a row at an address, of the aligned piece that holds its byte j (R322). -/
def pieceStart (a : DWord) (j : Nat) : Nat :=
  let m := a.toNat % 128
  if j < 128 - m then 0 else 128 * ((m + j) / 128) - m

/-- The pieces of a row: start and bytes. -/
def rowPieces (r : Row) : List (Nat × Nat) :=
  let m := r.2.1.toNat % 128
  if r.2.2 = 0 then []
  else (List.range ((m + r.2.2 + 127) / 128)).map fun i =>
    let st := 128 * i - m
    (st, min r.2.2 (128 * (i + 1) - m) - st)

/-- The key of a piece: its row and start. -/
def pkey (row st : Nat) : Nat := row * 2 ^ 33 + st

/-! ## Issue (R327, R328, R330 to R332) -/

/-- ADDR_SPACE of a base (R331). -/
def baseSpace (remote : Bool) (a : DWord) : Option Nat :=
  match fld a 56 8 with
  | 0 | 1 => none
  | 0xF0 | 0xF1 => if fld a 24 32 = 0 then none else some 1
  | 0xF2 => if fld a 27 29 = 0 then none else some 1
  | 0xF4 => if remote then none else some 2
  | _ => some 2

/-- SPAD_RANGE of an extent of a scratchpad window (R275, R330). -/
def State.extentBad (s : State) (core wg : Nat) (a : DWord) (n : Nat) : Option Nat :=
  match fld a 56 8 with
  | 0xF0 => if s.spadBytes core wg < fld a 0 24 + n then some 1 else none
  | 0xF1 => match s.rankWg core wg (fld a 22 2) with
    | none => some 2
    | some (c, g) => if s.spadBytes c g < fld a 0 22 + n then some 2 else none
  | _ => none

/-- Bytes from a side's base to its end (R330), the rows' strides counting where they hold no byte. -/
def extent (rows stride len : Nat) : Nat := if rows = 0 then 0 else (rows - 1) * stride + len

/-- Checks 2 to 5 of R330. -/
def State.copyChecks (s : State) (c : Ctx) (E : LaneMask) (kind cnt n : Nat) (src dst k0 k1 k2 : DWord) :
    Except Trap Unit := do
  match baseSpace (kind == 0) src with
  | some sub => Sys2Proof.Machine.raiseOpen fcAddr sub E
  | none => .ok ()
  match baseSpace (kind != 1) dst with
  | some sub => Sys2Proof.Machine.raiseOpen fcAddr sub E
  | none => .ok ()
  if kind = 0 ∧ copyRemote src ∧ copyRemote dst then Sys2Proof.Machine.raiseOpen fcAddr 2 E
  let es := elemBytes k0
  if kind ≠ 0 ∧ (src.toNat % es ≠ 0 ∨ fld k1 (if kind = 1 then 0 else 32) 32 % es ≠ 0) then
    Sys2Proof.Machine.raiseOpen fcAlign 1 E
  if kind ≠ 0 ∧ (dst.toNat % es ≠ 0 ∨ fld k1 (if kind = 1 then 32 else 0) 32 % es ≠ 0) then
    Sys2Proof.Machine.raiseOpen fcAlign 1 E
  if cpyFut kind k0 ∧ k2.toNat % 16 ≠ 0 then Sys2Proof.Machine.raiseOpen 0x33 1 E
  if cpyNote kind k0 ∧ k2.toNat % 8 ≠ 0 then Sys2Proof.Machine.raiseOpen fcAlign 1 E
  let rows := fld k0 32 16 + 1
  let srcN := if kind = 0 then extent rows (fld k1 0 32) (fld k0 0 32)
    else if kind = 1 then 0 else extent n (fld k1 32 32) (rowBytes k0)
  let dstN := if kind = 0 then extent rows (fld k1 32 32) (fld k0 0 32)
    else if kind = 1 then extent (bags k0 cnt n) (fld k1 32 32) (rowBytes k0) else 0
  match s.extentBad c.core c.g.wg src srcN with
  | some sub => if srcN ≠ 0 then Sys2Proof.Machine.raiseOpen fcSpad sub E
  | none => .ok ()
  match s.extentBad c.core c.g.wg dst dstN with
  | some sub => if dstN ≠ 0 then Sys2Proof.Machine.raiseOpen fcSpad sub E
  | none => .ok ()
  let cross (a : DWord) : Bool :=
    fld a 56 8 == 0xF2 && !s.dscrOk c.core c.g.part (fld a 25 2) (fld a 23 2) true
  if cross src then Sys2Proof.Machine.raiseOpen fcProt 4 E
  if cross dst then Sys2Proof.Machine.raiseOpen fcProt 4 E

/-- The request of a copy engine. -/
def CopyCmd.req (k : CopyCmd) (core : Nat) : Req :=
  { core := core, vf := k.vf, part := k.part, wg := k.wg, fsize := 0, engine := true }

/-- The scratchpad lines that rows write, as core, workgroup, line. -/
def State.spadLines (s : State) (r : Req) (rows : List Row) : List (Nat × Nat × Nat) :=
  (rows.flatMap fun row => (rowPieces row).filterMap fun p =>
    match s.check r { size := 1, write := true } (DWord.up row.2.1 p.1) with
    | .ok (.spad c w o) _ => some (c, w, o / 128)
    | _ => none).eraseDups

/-- Count one more, or one fewer, copy due to land on a line (R280). -/
def State.dueLine (s : State) (x : Nat × Nat × Nat) (more : Bool) : State :=
  s.modWg x.1 x.2.1 fun w =>
    let n := nget 0 w.absent x.2.2
    { w with absent := nset 0 w.absent x.2.2 (if more then n + 1 else n - 1) }

/-- The copy context of a group, or a free one with room in its queue (R327). -/
def State.copyContext (s : State) (c : Ctx) : Option Nat :=
  let k := s.core c.core
  match c.g.copyCtx with
  | some x => if (k.copies.filter fun p => p.ctx == x).length < 64 then some x else none
  | none => (List.range 16).find? fun i => (k.ctxOwner.toList.getD i none).isNone

/-- The name of the next command of a timeline (R326). -/
def Timeline.nextSeq (t : Timeline) (tl : Nat) : CmdSeq := { tl := tl, batch := t.c + 1, idx := t.openCount }

/-- A command joins its timeline, and with COMMIT closes the batch (R324). -/
def Timeline.issue (t : Timeline) (id : Nat) (commit : Bool) : Timeline :=
  if commit then (t.join id).commit else t.join id

/-- Issue of a copy command (R330, R332). -/
def copyBody (op kind : Nat) (f : EOps) (c : Ctx) (s : State) : Except Trap State := do
  c.maskWait
  let E := c.g.exec f.g1 f.g2
  let v ← if kind = 0 then c.maskSound.map fun _ => Vector.replicate 96 0 else do
    c.checkNames E [(f.an, 1)]
    c.readLanes E (c.vsrc (s.wgidOf c) .n32 f.cnt false f.an)
  if E = 0 then return s
  let src ← c.readS f.p.val
  let dst ← c.readS f.q.val
  let k0 := c.kreg f.kix.val
  let k1 := c.kreg (f.kix.val + 1)
  let k2 := c.kreg (f.kix.val + 2)
  if cpyBad kind k0 f.kix.val f.cnt.toNat dst then raise fcIllegal 0x0A (wordE op f) E
  let idxs := if kind = 0 then [] else (lanesOf (E &&& ~~~c.g.helper)).map fun l => (l.val, lowWord v[l])
  s.copyChecks c E kind f.cnt.toNat idxs.length src dst k0 k1 k2
  c.quiet
  match s.copyContext c with
  | none => .error .stall
  | some x =>
    let (id, s) := s.newId
    let k : CopyCmd :=
      { id := id, slot := c.slot, vf := c.g.vf, part := c.g.part, wg := c.g.wg, ctx := x, seq := c.g.t0.nextSeq 0,
        pc := c.g.pc.word, card := c.card, kind := kind, lanes := E, src := src, dst := dst, k0 := k0, k1 := k1,
        k2 := k2, cnt := f.cnt.toNat, idxs := idxs, entryB := c.g.entryB }
    let lines := s.spadLines (k.req c.core) k.dsts
    let s := lines.foldl (fun s x => s.dueLine x true) s
    let s := s.modCore c.core fun q =>
      { q with copies := q.copies ++ [{ k with lines := lines }], ctxOwner := q.ctxOwner.set! x (some c.slot) }
    return s.withGroup c fun g => { g with t0 := g.t0.issue id f.commit, copyCtx := some x }

/-- CPY (R333). -/
def execCpy (f : EOps) : State → Host.Outcome State Fault Refusal := instr (.e 0x120 f) (copyBody 0x120 0 f)

/-- CPYG (R334). -/
def execCpyg (f : EOps) : State → Host.Outcome State Fault Refusal := instr (.e 0x121 f) (copyBody 0x121 1 f)

/-- CPYS (R335). -/
def execCpys (f : EOps) : State → Host.Outcome State Fault Refusal := instr (.e 0x122 f) (copyBody 0x122 2 f)

/-! ## Commands under way -/

def State.copy? (s : State) (core id : Nat) : Option CopyCmd := (s.core core).copies.find? fun k => k.id == id
def State.modCopy (s : State) (core id : Nat) (f : CopyCmd → CopyCmd) : State :=
  s.modCore core fun k => { k with copies := k.copies.map fun p => if p.id = id then f p else p }

/-- A command is abandoned (R333): its remaining lines count as landed, and its engine fault goes to its group. -/
def State.copyFail (s : State) (core : Nat) (k : CopyCmd) (sub : Nat) (lanes : LaneMask) : State :=
  match s.copy? core k.id with
  | none => s
  | some k =>
    if k.failed.isSome then s
    else
      let s := k.lines.foldl (fun s x => s.dueLine x false) s
      let s := s.modCopy core k.id fun p => { p with failed := some sub, lines := [], hold := none }
      s.engineFault core k.slot (engineRecord s sub k.vf k.part k.pc k.seq.word lanes k.card k.entryB)

/-- The lanes that a row's failure names: its own lane for gathers and scatters, else E (R333); a pooled row has no lane of
its own (DESIGN CHOICE, assumption 78). -/
def CopyCmd.rowLanes (k : CopyCmd) (src : Bool) (row : Nat) : LaneMask :=
  if k.kind = 0 ∨ (k.kind = 1 ∧ !src ∧ fld k.k0 20 2 ≠ 0) then k.lanes
  else match k.idxs[row]? with
    | some p => maskOf fun l => l == p.1
    | none => k.lanes

/-- The subcode of ENGINE_FAULT for a failed check (R297, R333): an address outside the physical map counts as refused
by the partition check (DEDUCED, assumption 16). -/
def engineSub (code sub : Nat) : Nat := if code = fcSpad then 0x12 else if code = fcProt then sub else 4

/-- A copy's page fault holds the command (R298). -/
def State.copyHold (s : State) (core : Nat) (k : CopyCmd) (a : DWord) (write st : Bool) (x l : Nat) : State :=
  let m : PageMiss := { va := a, stage2 := st, addr := x, level := l, acc := if write then 1 else 0, ctx := k.vf, part := k.part,
                        pc := k.pc, entryB := k.entryB, cmd := k.seq.word }
  ((s.walkMarks core k.vf a.toNat).pageFault m).modCopy core k.id fun p => { p with hold := some (m.fn, m.key) }

/-- What stands at a piece's address for the engine: a place, and whether L2 caches it (R278, R292). -/
inductive Piece where
  | at (loc : Loc) (l2 : Bool) (s : State)
  | wait
  | done (s : State)

/-- The checks of a piece at execution (R330, R333). -/
def State.pieceAt (s : State) (core : Nat) (k : CopyCmd) (write : Bool) (row : Nat) (a : DWord) : Piece :=
  match s.check (k.req core) { size := 1, align := false, write := write, uncached := k.kind != 2 } a with
  | .bad _ code sub => .done (s.copyFail core k (engineSub code sub) (k.rowLanes (!write) row))
  | .miss st x l => .done (s.copyHold core k a write st x l)
  | .ok loc ty =>
    if s.flipping loc then .wait
    else match loc with
      | .phys pa =>
        if ty = 1 ∧ s.failingFlip pa then .done (s.copyFail core k 5 (k.rowLanes (!write) row))
        else .at loc (s.l2Caches pa ty) (s.touch core k.vf (a.toNat % 2 ^ 57) write 1)
      | _ => .at loc false s

/-! ## Osier frames for remote pieces (R458, R459) -/

def osierOfs (o : Nat) : Nat := 0x800000 + o
def State.devId (s : State) : Nat := fld (s.pr (osierOfs 0)) 0 17
/-- Endpoint of a function, if it may send and accept (R458). -/
def State.endpoint (s : State) (vf : Nat) : Option Nat :=
  let w := s.pr (osierOfs (0x100 + 8 * vf))
  if vf < 256 && bit w 8 then some (fld w 0 8) else none
/-- The function that serves an endpoint: OEP equal, OEPEN set. -/
def State.endpointVf (s : State) (oep : Nat) : Option Nat := (List.range 256).find? fun v => s.endpoint v == some oep

/-- The checks of a frame's piece in the window of the function it is for. -/
def State.servedAt (s : State) (vf : Nat) (kind : FKind) (ofs : Nat) : Chk :=
  let r : Req := { core := 64, vf := vf, part := s.partOf vf, wg := 0, fsize := 0, engine := true }
  let w : Want := { spads := false, dscr := false, size := 1, write := kind != .get,
                    uncached := kind == .put || kind == .get }
  s.check r w (BitVec.ofNat 64 ofs)

/-- The ports of a ROUTE entry that are up. -/
def State.upPorts (s : State) (device : Nat) : List Nat :=
  (setBits 6 (fld (s.pr (osierOfs (0x1000 + 8 * (device / 32)))) 0 6)).filter fun p =>
    (s.ports.toList.getD p {}).pstate == 2

/-- The port of a command's frames to a device: the one they have while that is up, else one of the route (the hash is not given:
a free value, assumption 2), which they have from now on; none where no port remains. -/
def State.portFor (s : State) (core cmd device : Nat) : Option Nat × State :=
  let ups := s.upPorts device
  match ((s.copy? core cmd).bind fun k => nfind k.ports device).filter ups.contains with
  | some p => (some p, s)
  | none =>
    let (v, s) := s.free
    match ups[v % max 1 ups.length]? with
    | some p => (some p, s.modCopy core cmd fun k => { k with ports := nins k.ports device p })
    | none => (none, s)

/-- Send a frame for a piece of a command, or end the command where it cannot be sent (R459); a loopback uses no port. -/
def State.sendFrame (s : State) (core : Nat) (k : CopyCmd) (kind : FKind) (key : Nat) (a : DWord) (data : List Byte)
    (len : Nat) (lanes : LaneMask) : State :=
  let device := fld a 39 17
  match s.endpoint k.vf with
  | none => s.copyFail core k 0x13 lanes
  | some ep =>
    let (port, s) := if device = s.devId then (none, s) else s.portFor core k.id device
    if port.isNone && device != s.devId then s.copyFail core k 0x13 lanes
    else
      let (id, s) := s.newId
      let fr : Frame := { id := id, mine := true, core := core, cmd := k.id, key := key, oep := ep, device := device,
                          kind := kind, ofs := fld a 0 39, data := data, len := len, elem := fld k.k0 16 4,
                          port := port, sentAt := s.ref, bornAt := s.ref, hold := none }
      { s with frames := s.frames ++ [fr] }.modCopy core k.id fun p => { p with sent := p.sent ++ [id] }

/-! ## Reading a piece -/

/-- Whether a piece of this key is on its way over Osier. -/
def State.onWay (s : State) (k : CopyCmd) (kind : FKind) (key : Nat) : Bool :=
  s.frames.any fun f => k.sent.contains f.id && f.kind == kind && f.key == key

/-- Earlier copies and drains of the core that have still to land on a scratchpad line (R280, R369). -/
def State.earlierDue (s : State) (core id : Nat) (x : Nat × Nat × Nat) : Bool :=
  ((s.core core).copies.any fun p => decide (p.id < id) && p.lines.contains x) ||
    (s.core core).eng.queue.any fun k => decide (k.id < id) && k.due.contains x

/-- A source line that is still to land (R332); for one that the command itself is to write, what earlier commands land
there counts alone, for the byte copied may be the value before the command (R333). -/
def State.sourceAbsent (s : State) (core : Nat) (k : CopyCmd) (loc : Loc) : Bool :=
  match loc with
  | .spad c w o => if k.lines.contains (c, w, o / 128) then s.earlierDue core k.id (c, w, o / 128) else s.absentLine loc
  | _ => false

/-- A source piece is read (R322, R332): only once its scratchpad line is present. -/
def State.readPiece (s : State) (core : Nat) (k : CopyCmd) (row st len : Nat) (a : DWord) : State :=
  let key := pkey row st
  if (nfind k.got key).isSome then s
  else if copyRemote a then
    if s.onWay k .get key then s else s.sendFrame core k .get key a [] len (k.rowLanes true row)
  else match s.pieceAt core k false row a with
    | .wait => s
    | .done s => s
    | .at loc l2 s =>
      if s.sourceAbsent core k loc then s
      else if s.poisoned loc len then s.copyFail core k 6 (k.rowLanes true row)
      else
        let s := match loc with
          | .phys pa => if l2 then s.l2Access core k.part k.vf pa 0 false else s
          | _ => s
        let b := s.readLoc loc len
        s.modCopy core k.id fun p => { p with got := nins p.got key b }

/-! ## What a piece writes (R333 to R335) -/

/-- Byte j of a source row, once read. -/
def CopyCmd.srcByte (k : CopyCmd) (r : Row) (j : Nat) : Option Byte :=
  let st := pieceStart r.2.1 j
  match nfind k.got (pkey r.1 st) with
  | some b => b[j - st]?
  | none => none

/-- The code of element e of a source row. -/
def CopyCmd.srcElem (k : CopyCmd) (r : Row) (es e : Nat) : Option Nat :=
  ((List.range es).mapM fun i => k.srcByte r (e * es + i)).map leNat

def elemFmt (elem : Nat) : FFmt := if elem = 0 then fp32 else if elem = 1 then fp16 else bfp16

/-- A code with every NaN made canonical. -/
def canonNan (m : FFmt) (c : Nat) : Nat := if (m.decode c).isNan then m.nanBits else c

/-- Pooled element of a bag's codes, in rank order (R334). -/
def poolElem (elem pool : Nat) (xs : List Nat) : Nat :=
  if elem = 3 then xs.foldl (· + ·) 0 % 2 ^ 32
  else
    let m := elemFmt elem
    let wide (c : Nat) : Nat := (fp32.ofVal .rne (m.decode c)).1
    match xs with
    | [] => 0
    | x :: r =>
      match pool with
      | 3 => canonNan m (r.foldl (fun a b => (m.minmax true false a b).1) x)
      | _ =>
        let acc := r.foldl (fun a b => (fp32.add .rne a (wide b)).1) (wide x)
        if pool = 2 then (m.div .rne (fp32.decode acc) (.fin false xs.length 0)).1
        else (m.ofVal .rne (fp32.decode acc)).1

/-- The bytes that a destination piece takes; none while a source byte it needs has not been read. -/
def CopyCmd.pieceData (k : CopyCmd) (row st len : Nat) : Option (List Byte) :=
  let src := k.srcs
  let at' (i : Nat) : Option Row := src.find? fun r => r.1 == i
  if k.kind = 1 ∧ fld k.k0 20 2 ≠ 0 then
    let es := elemBytes k.k0
    let ranks := (List.range (min k.idxs.length ((row + 1) * k.cnt) - row * k.cnt)).map (row * k.cnt + ·)
    ((List.range (len / es)).mapM fun i =>
      ((ranks.mapM at').bind fun rs => rs.mapM fun r => k.srcElem r es (st / es + i)).map fun xs =>
        leBytes es (poolElem (fld k.k0 16 4) (fld k.k0 20 2) xs)).map List.flatten
  else (at' row).bind fun r => (List.range len).mapM fun j => k.srcByte r (st + j)

/-- Add v to an element at the single copy (R335). -/
def addElem (elem old v : Nat) : Nat :=
  if elem = 3 then (old + v) % 2 ^ 32 else ((elemFmt elem).add .rne old v).1

/-- The bytes of a table piece after its adds. -/
def addBytes (elem : Nat) (old new : List Byte) : List Byte :=
  let es := if elem = 0 ∨ elem = 3 then 4 else 2
  (List.range (old.length / es)).flatMap fun i =>
    leBytes es (addElem elem (leNat ((old.drop (es * i)).take es)) (leNat ((new.drop (es * i)).take es)))

/-! ## Writing a piece -/

/-- Whether two stretches share a byte. -/
def overlapN (a n b m : Nat) : Bool := decide (a < b + m) && decide (b < a + n)

/-- The single copy that an address of a scatter's table names, by its key; none outside the module, or where it does not
translate. -/
def State.addPlace (s : State) (core : Nat) (k : CopyCmd) (a : DWord) : Option Nat :=
  let at' (c : Chk) : Option Nat := match c with
    | .ok loc _ => some (locKey loc)
    | _ => none
  if !copyRemote a then at' (s.check (k.req core) { size := 1, align := false, write := true } a)
  else if fld a 39 17 ≠ s.devId then none
  else ((s.endpoint k.vf).bind s.endpointVf).bind fun v => at' (s.servedAt v .add (fld a 0 39))

/-- Two stretches of a scatter's tables share an element: by their addresses, or at the single copy. -/
def State.sameElem (s : State) (core : Nat) (k : CopyCmd) (a : DWord) (n : Nat) (p : CopyCmd) (b : DWord) (m : Nat) : Bool :=
  overlapN a.toNat n b.toNat m ||
    match s.addPlace core k a, s.addPlace core p b with
    | some x, some y => overlapN x n y m
    | _, _ => false

/-- Adds that must come first: those of lower lanes to the same elements, and of earlier scatters of the core (R335). -/
def State.earlierAdds (s : State) (core : Nat) (k : CopyCmd) (row : Nat) (a : DWord) (len : Nat) : Bool :=
  let due (p : CopyCmd) (r : Row) : Bool := (rowPieces r).any fun q =>
    !p.put.contains (pkey r.1 q.1) && s.sameElem core k a len p (DWord.up r.2.1 q.1) q.2
  (k.dsts.any fun r => decide (r.1 < row) && due k r) ||
  ((s.core core).copies.takeWhile fun p => p.id != k.id).any fun p =>
    p.kind == 2 && p.failed.isNone && p.dsts.any fun r => due p r

/-- A destination piece has been written: its line has landed once every piece of the command on it has (R280). -/
def State.pieceDone (s : State) (core id key : Nat) : State :=
  let s := s.modCopy core id fun p => { p with put := p.put ++ [key] }
  match s.copy? core id with
  | none => s
  | some k =>
    let open' := s.spadLines (k.req core) (k.dsts.flatMap fun r =>
      ((rowPieces r).filter fun q => !k.put.contains (pkey r.1 q.1)).map fun q => (r.1, DWord.up r.2.1 q.1, q.2))
    let landed := k.lines.filter fun x => !open'.contains x
    let s := landed.foldl (fun s x => s.dueLine x false) s
    s.modCopy core id fun p => { p with lines := p.lines.filter fun x => !landed.contains x }

/-- A destination piece is written (R322, R280, R333 to R335). -/
def State.writePiece (s : State) (core : Nat) (k : CopyCmd) (row st len : Nat) (a : DWord) : State :=
  let key := pkey row st
  if k.put.contains key then s
  else match k.pieceData row st len with
    | none => s
    | some data =>
      if k.kind = 2 ∧ s.earlierAdds core k row a len then s
      else if copyRemote a then
        let kind := if k.kind = 2 then FKind.add else .put
        if s.onWay k kind key then s else s.sendFrame core k kind key a data len (k.rowLanes false row)
      else match s.pieceAt core k true row a with
        | .wait => s
        | .done s => s
        | .at loc l2 s =>
          let due := match loc with
            | .spad c w o => s.earlierDue core k.id (c, w, o / 128)
            | _ => false
          if due then s
          else if k.kind = 2 ∧ s.poisoned loc len then s.copyFail core k 6 (k.rowLanes false row)
          else
            let bytes := if k.kind = 2 then addBytes (fld k.k0 16 4) (s.readLoc loc len) data else data
            ((s.store core k.part k.vf loc bytes 0 l2).count core k.vf 0x0E len).pieceDone core k.id key

/-! ## The events -/

/-- An index out of range ends a gather or scatter (R333, R334). -/
def CopyCmd.badIndex (k : CopyCmd) (row : Nat) : Bool :=
  k.kind != 0 && match k.idxs[row]? with
    | some p => decide (fld k.k0 32 32 ≤ p.2.toNat)
    | none => false

/-- COPY_PIECE (R322): the engine reads or writes the piece of a row that starts at a byte. -/
def execCopyPiece (core cmd : Nat) (write : Bool) (row ofs : Nat) : State → Host.Outcome State Fault Refusal :=
  coreEvent fun s => match s.copy? core cmd with
    | none => s
    | some k =>
      if k.failed.isSome || k.hold.isSome then s
      else if (k.kind == 1 && !write || k.kind == 2) && k.badIndex row then
        s.copyFail core k 0x11 (k.rowLanes (!write) row)
      else match (if write then k.dsts else k.srcs).find? fun r => r.1 == row with
        | none => s
        | some r => match (rowPieces r).find? fun q => q.1 == ofs with
          | none => s
          | some (st, len) =>
            if write then s.writePiece core k row st len (DWord.up r.2.1 st)
            else s.readPiece core k row st len (DWord.up r.2.1 st)

/-- Every destination piece is written, with no index out of range left to fault. -/
def CopyCmd.written (k : CopyCmd) : Bool :=
  (k.kind == 0 || (List.range k.idxs.length).all fun r => !k.badIndex r) &&
  k.dsts.all fun r => (rowPieces r).all fun q => k.put.contains (pkey r.1 q.1)

/-- The command leaves the engine and counts for its batch; its context is free with the group's last command (R325,
R327). -/
def State.copyRetire (s : State) (core : Nat) (k : CopyCmd) : State :=
  let s := s.modCore core fun q => { q with copies := q.copies.filter fun p => p.id != k.id }
  let s := s.modGroup core k.slot fun g => { g with t0 := g.t0.finish k.id }
  if (s.core core).copies.any fun p => p.slot == k.slot then s
  else (s.modCore core fun q => { q with ctxOwner := q.ctxOwner.set! k.ctx none }).modGroup core k.slot fun g =>
    { g with copyCtx := none }

/-- The outcome value of a command (R333). -/
def CopyCmd.outcome (k : CopyCmd) : DWord := if k.failed.isSome then 0x4000000000000060 else 0

/-- Resolve the command's future, then retire it (R333). -/
def State.copyResolve (s : State) (core : Nat) (k : CopyCmd) : State :=
  let report (s : State) (sub : Nat) : State :=
    s.engineFault core k.slot (engineRecord s sub k.vf k.part k.pc k.seq.word k.lanes k.card k.entryB)
  if !cpyFut k.kind k.k0 then s.copyRetire core k
  else match s.check (k.req core) (globalWant 16 true) k.k2 with
    | .miss st x l => s.copyHold core k k.k2 true st x l
    | .bad _ code sub => (report s (engineSub code sub)).copyRetire core k
    | .ok loc _ =>
      if s.flipping loc then s
      else if s.poisoned loc 16 then (report s 6).copyRetire core k
      else
        let s := s.touch core k.vf (k.k2.toNat % 2 ^ 57) true 2
        match s.resolve core k.part k.vf k.k2 loc k.outcome with
        | some s => s.copyRetire core k
        | none => (report s 0x10).copyRetire core k

/-- COPY_COMPLETE (R333): once every piece is written (or the command is abandoned), its notification is sent, its
future resolved, and the command counted. -/
def execCopyComplete (core cmd : Nat) : State → Host.Outcome State Fault Refusal := coreEvent fun s =>
  match s.copy? core cmd with
  | none => s
  | some k =>
    if k.hold.isSome || (k.failed.isNone && (!k.written || !k.sent.isEmpty)) then s
    else if k.failed.isNone && cpyNote k.kind k.k0 && !k.noted then
      s.sendFrame core k .note 0 (k.dst - BitVec.ofNat 64 (fld k.dst 0 39) + BitVec.ofNat 64 (fld k.k2 0 39)) [] 8 k.lanes
    else s.copyResolve core k

end Sys2Proof.Machine
end

