-- ==== Sys2Proof/Machine/SfuOps.lean ====
section
/-! DEFINITION. The special-function pipe (R248, R249): the special cases exactly, and every other result as a free
choice among the FP32 codes within the bound that R248 gives. The exact functions are computed in fixed point with 400
fraction bits (DEDUCED, assumption 1: the window's edges are decided at that precision). -/

namespace Sys2Proof.Machine

/-- Fraction bits of the fixed-point numbers of this file. -/
def fxBits : Nat := 400
def fxOne : Int := ((2 ^ fxBits : Nat) : Int)
def fxMul (x y : Int) : Int := (x * y).fdiv fxOne
def fxDiv (x y : Int) : Int := (x * fxOne).fdiv y

/-- m * 2^e in fixed point, rounded down. -/
def fxOf (m : Int) (e : Int) : Int := shiftFloor m (e + (fxBits : Int))

/-- The sum of x^k / k! over k, by Horner's rule with n terms. -/
def fxExpSeries (x : Int) (n : Nat) : Int :=
  (List.range n).foldr (fun (k : Nat) (acc : Int) => fxOne + (fxMul x acc).fdiv ((k : Int) + 1)) fxOne

/-- atanh(1/k) for an integer k, by its series with n terms. -/
def fxAtanhInv (k : Int) (n : Nat) : Int :=
  ((List.range n).foldl (fun (p : Int × Int) (i : Nat) =>
    (p.1 + p.2.fdiv (2 * (i : Int) + 1), p.2.fdiv (k * k))) (0, fxOne.fdiv k)).1

/-- arctan(1/k) for an integer k, by its series with n terms. -/
def fxAtanInv (k : Int) (n : Nat) : Int :=
  ((List.range n).foldl (fun (p : Int × Int) (i : Nat) =>
    (p.1 + p.2.fdiv (2 * (i : Int) + 1), -(p.2.fdiv (k * k)))) (0, fxOne.fdiv k)).1

/-- ln 2 = 2 atanh(1/3). -/
def fxLn2 : Int := 2 * fxAtanhInv 3 130

/-- π by Machin's formula. -/
def fxPi : Int := 4 * (4 * fxAtanInv 5 90 - fxAtanInv 239 30)

/-- 2^x for a fixed-point x: mantissa in [1, 2) and exponent. -/
def fxExp2 (x : Int) : Int × Int :=
  let n := x.fdiv fxOne
  let f := x - n * fxOne
  (fxExpSeries (fxMul f fxLn2) 90, n)

/-- ln of a fixed-point number in [1, 2), by 2 atanh((x − 1)/(x + 1)). -/
def fxLn (x : Int) : Int :=
  let t := fxDiv (x - fxOne) (x + fxOne)
  let t2 := fxMul t t
  2 * ((List.range 130).foldl (fun (p : Int × Int) (i : Nat) =>
    (p.1 + p.2.fdiv (2 * (i : Int) + 1), fxMul p.2 t2)) (0, t)).1

/-- sin of a fixed-point number in [−4, 4], odd, and for a small one below it in magnitude. -/
def fxSin (x : Int) : Int :=
  let x2 := fxMul x x
  let s := (List.range 60).foldr (fun (k : Nat) (acc : Int) =>
    fxOne - (fxMul x2 acc).fdiv ((2 * (k : Int) + 2) * (2 * (k : Int) + 3))) fxOne
  if x < 0 then -fxMul (-x) s else fxMul x s

/-- cos of a fixed-point number in [−4, 4]. -/
def fxCos (x : Int) : Int :=
  let x2 := fxMul x x
  (List.range 60).foldr (fun (k : Nat) (acc : Int) =>
    fxOne - (fxMul x2 acc).fdiv ((2 * (k : Int) + 1) * (2 * (k : Int) + 2))) fxOne

/-- x reduced modulo 2π into [−π, π]. -/
def fxReduce (x : Int) : Int :=
  let tau := 2 * fxPi
  x - ((x + fxPi).fdiv tau) * tau

/-- The monotone ordinal of a finite FP32 code: equal steps from code to code, negative codes below zero. -/
def ordOf (neg : Bool) (mag : Nat) : Int := if neg then -(mag : Int) else (mag : Int)

/-- The greatest finite FP32 magnitude code whose value is at most y * 2^-fxBits, for y ≥ 0. -/
def codeFloor (y : Nat) : Nat := (fp32.round .rtz false y (-(fxBits : Int))).1

/-- Whether a magnitude code's value is exactly y * 2^-fxBits. -/
def codeExact (y : Nat) : Bool := (fp32.round .rtz false y (-(fxBits : Int))).2 &&& flNX == 0#6

/-- The least ordinal with value at least y, and the greatest with value at most y (y in fixed point). -/
def ordCeil (y : Int) : Int :=
  if 0 ≤ y then (codeFloor y.toNat : Int) + (if codeExact y.toNat then 0 else 1) else -(codeFloor (-y).toNat : Int)
def ordFloor (y : Int) : Int :=
  if 0 ≤ y then (codeFloor y.toNat : Int) else -((codeFloor (-y).toNat : Int) + (if codeExact (-y).toNat then 0 else 1))

/-- One unit in the last place of FP32 at a fixed-point value, with subnormal units of 2^-149 (R248). -/
def fxUlp (y : Int) : Int :=
  if y = 0 then fxOf 1 (-149)
  else fxOf 1 (max (leadExp y.natAbs (-(fxBits : Int)) - 23) (-149))

/-- A choice among the codes with ordinals lo to hi (FREE VALUE, assumption 1): NX, and UF for a subnormal or zero
result (R248). The bound is on the error alone; a result of zero takes the sign of the exact value, `negZero` (DESIGN CHOICE,
assumption 1). -/
def sfuPick (op : Nat) (x : Word) (negZero : Bool) (lo hi : Int) : LaneOut :=
  let top : Int := (fp32.maxBits : Int)
  let lo := max lo (-top)
  let hi := min hi top
  let o := if hi < lo then (if 0 < lo then top else -top)
    else lo + ((Config.sfuChoice op x % ((hi - lo).toNat + 1) : Nat) : Int)
  let code : Nat := if o < 0 then fp32.signBit + o.natAbs
    else if o = 0 && negZero then fp32.signBit else o.natAbs
  { push := [wordOfNat code], flags := flNX ||| (if o.natAbs < 2 ^ fp32.fracBits then flUF else 0) }

/-- The codes within k units of y. -/
def sfuNear (op : Nat) (x : Word) (k : Int) (y : Int) : LaneOut :=
  let u := fxUlp y
  sfuPick op x (decide (y < 0)) (ordCeil (y - k * u)) (ordFloor (y + k * u))

def exactWord (n : Nat) : LaneOut := pushWord (wordOfNat n)
def flagged (n : Nat) (fl : Flags) : LaneOut := { push := [wordOfNat n], flags := fl }
def f32Inf (neg : Bool) : Nat := (if neg then fp32.signBit else 0) + fp32.infBits
def f32Zero (neg : Bool) : Nat := if neg then fp32.signBit else 0
def f32Of (neg : Bool) (m : Nat) (e : Int) : Nat := (fp32.round .rne neg m e).1
def sfuNan (sig : Bool) : LaneOut := flagged fp32.nanBits (if sig then flNV else 0)

/-- Whether m * 2^e is a power of two. -/
def isPow2 (m : Nat) : Bool := decide (m ≠ 0) && m == 2 ^ m.log2

/-- FRCP (R248, R249). -/
def sfuRcp (x : Word) : LaneOut :=
  match fp32.decode x.toNat with
  | .nan s => sfuNan s
  | .inf n => exactWord (f32Zero n)
  | .fin n m e =>
    let k := leadExp m e
    if m = 0 then flagged (f32Inf n) flDZ
    else if isPow2 m && decide (-126 ≤ k) && decide (k ≤ 127) then exactWord (f32Of n 1 (-k))
    else if k < -128 then flagged (f32Inf n) (flOF ||| flNX)
    else
      let y := (shiftFloor 1 ((fxBits : Int) * 2)).fdiv (shiftFloor m (e + (fxBits : Int)))
      sfuNear 0x08A x 1 (if n then -y else y)

/-- FRSQ. -/
def sfuRsq (x : Word) : LaneOut :=
  match fp32.decode x.toNat with
  | .nan s => sfuNan s
  | .inf n => if n then flagged fp32.nanBits flNV else exactWord 0
  | .fin n m e =>
    let k := leadExp m e
    if m = 0 then flagged (f32Inf n) flDZ
    else if n then flagged fp32.nanBits flNV
    else if isPow2 m && k.emod 2 == 0 then exactWord (f32Of false 1 (-(k.fdiv 2)))
    else
      -- 2^(2 fxBits) / (m 2^e), square root, is 2^fxBits / sqrt(x)
      let big := ((shiftFloor 1 (4 * (fxBits : Int))).fdiv (shiftFloor m (e + 2 * (fxBits : Int)))).toNat
      sfuNear 0x08B x 1 (big.sqrt : Int)

/-- FEX2. -/
def sfuEx2 (x : Word) : LaneOut :=
  match fp32.decode x.toNat with
  | .nan s => sfuNan s
  | .inf n => if n then exactWord 0 else exactWord (f32Inf false)
  | .fin n m e =>
    let v : FVal := .fin n m e
    if m = 0 then exactWord (f32Of false 1 0)
    else if cmpVal v (.fin false 128 0) != .lt then flagged (f32Inf false) (flOF ||| flNX)
    else if cmpVal v (.fin true 150 0) == .lt then flagged 0 (flUF ||| flNX)
    else if shiftExact m e && cmpVal v (.fin true 149 0) != .lt then
      exactWord (f32Of false 1 (shiftFloor (signed n m) e))
    else
      let (f, k) := fxExp2 (fxOf (signed n m) e)
      sfuNear 0x08E x 2 (shiftFloor f k)

/-- FLG2. -/
def sfuLg2 (x : Word) : LaneOut :=
  match fp32.decode x.toNat with
  | .nan s => sfuNan s
  | .inf n => if n then flagged fp32.nanBits flNV else exactWord (f32Inf false)
  | .fin n m e =>
    let k := leadExp m e
    if m = 0 then flagged (f32Inf true) flDZ
    else if n then flagged fp32.nanBits flNV
    else if isPow2 m then exactWord (f32Of (decide (k < 0)) k.natAbs 0)
    else sfuNear 0x08F x 2 (k * fxOne + fxDiv (fxLn (fxOf m (e - k))) fxLn2)

/-- FSIN and FCOS: 2 units up to π, absolute error 2^-22 and a result in [−1, 1] beyond. -/
def sfuTrig (op : Nat) (isCos : Bool) (x : Word) : LaneOut :=
  match fp32.decode x.toNat with
  | .nan s => sfuNan s
  | .inf _ => flagged fp32.nanBits flNV
  | .fin n m e =>
    if m = 0 then exactWord (if isCos then f32Of false 1 0 else f32Zero n)
    else
      let v := fxOf (signed n m) e
      if -fxPi ≤ v ∧ v ≤ fxPi then sfuNear op x 2 (if isCos then fxCos v else fxSin v)
      else
        let r := fxReduce v
        let y := if isCos then fxCos r else fxSin r
        let d := fxOf 1 (-22)
        sfuPick op x (decide (y < 0)) (ordCeil (max (-fxOne) (y - d))) (ordFloor (min fxOne (y + d)))

/-- FTANH. -/
def sfuTanh (x : Word) : LaneOut :=
  match fp32.decode x.toNat with
  | .nan s => sfuNan s
  | .inf n => exactWord (f32Of n 1 0)
  | .fin n m e =>
    if m = 0 then exactWord (f32Zero n)
    else
      let v := min (fxOf m e) (128 * fxOne)
      -- e^(2v) = 2^(2v / ln 2)
      let (f, k) := fxExp2 (fxDiv (2 * v) fxLn2)
      let ex := shiftFloor f k
      -- for a small argument, tanh by sinh / cosh series keeps the relative precision
      let y := if v < fxOne.fdiv 16 then
          let v2 := fxMul v v
          let sh := (List.range 50).foldr (fun (i : Nat) (acc : Int) =>
            fxOne + (fxMul v2 acc).fdiv ((2 * (i : Int) + 2) * (2 * (i : Int) + 3))) fxOne
          let ch := (List.range 50).foldr (fun (i : Nat) (acc : Int) =>
            fxOne + (fxMul v2 acc).fdiv ((2 * (i : Int) + 1) * (2 * (i : Int) + 2))) fxOne
          fxDiv (fxMul v sh) ch
        else fxDiv (ex - fxOne) (ex + fxOne)
      sfuNear 0x092 x 2 (if n then -y else y)

def opFrcp (f : VOps) (x : LaneIn) : LaneOut := sfuRcp (srcA f x)
def opFrsq (f : VOps) (x : LaneIn) : LaneOut := sfuRsq (srcA f x)
def opFex2 (f : VOps) (x : LaneIn) : LaneOut := sfuEx2 (srcA f x)
def opFlg2 (f : VOps) (x : LaneIn) : LaneOut := sfuLg2 (srcA f x)
def opFsin (f : VOps) (x : LaneIn) : LaneOut := sfuTrig 0x090 false (srcA f x)
def opFcos (f : VOps) (x : LaneIn) : LaneOut := sfuTrig 0x091 true (srcA f x)
def opFtanh (f : VOps) (x : LaneIn) : LaneOut := sfuTanh (srcA f x)

end Sys2Proof.Machine
end

