-- ==== Sys2Proof/Machine/Matrix.lean ====
section
/-! DEFINITION. The matrix engine (R347 to R375): the baton, tiles, format blocks and their checks, the instructions that
issue commands, and what every command shares: its place in the queue, the lines it reads and the lines it writes. -/

namespace Sys2Proof.Machine

def fcOwner : Nat := 0x20
def fcBaton : Nat := 0x21
def fcOpenBatch : Nat := 0x22
def fcLatch : Nat := 0x23
def fcFormat : Nat := 0x24
def fcDepth : Nat := 0x25
def fcScale : Nat := 0x26
def fcTileMode : Nat := 0x27
def fcAnchor : Nat := 0x28

/-! ## Tiles and the engine -/

def State.eng (s : State) (core : Nat) : Engine := (s.core core).eng
def State.modEng (s : State) (core : Nat) (f : Engine → Engine) : State :=
  s.modCore core fun k => { k with eng := f k.eng }
def Engine.tile (e : Engine) (t : Nat) : Tile := e.tiles.toList.getD t {}
def Engine.modTile (e : Engine) (t : Nat) (f : Tile → Tile) : Engine :=
  { e with tiles := e.tiles.mapFinIdx fun i x _ => if i = t then f x else x }
def State.tile (s : State) (core t : Nat) : Tile := (s.eng core).tile t
def State.modTile (s : State) (core t : Nat) (f : Tile → Tile) : State := s.modEng core fun e => e.modTile t f

/-- A tile granted to a group slot starts in EXACT mode, all zero (R355). -/
def Tile.grant (t : Tile) (slot : Nat) : Tile := { owner := some slot, waiters := t.waiters.filter (· != slot) }

/-- Commands of the queue that name a tile. -/
def Engine.naming (e : Engine) (t : Nat) : List ECmd := e.queue.filter fun k => k.tile == t

/-- A tile that no group owns and no command names goes to its first waiter, or is free (R357). -/
def Engine.settleTile (e : Engine) (t : Nat) : Engine :=
  let x := e.tile t
  if x.owner.isSome || !(e.naming t).isEmpty then e
  else match x.waiters.head? with
    | some w => e.modTile t fun x => x.grant w
    | none => e.modTile t fun _ => {}

/-- The owner gives a tile up (R357): it is free when its commands have completed, and leaves COUNT mode (R355). -/
def Engine.release (e : Engine) (t : Nat) : Engine :=
  let e := e.modTile t fun x => { x with owner := none, freeing := true, mode := .exact, run := {} }
  { e with bank := if e.bank = some t then none else e.bank }.settleTile t

/-- A halted group's tile, which counts as unbound (R419). -/
def State.tileHalted (s : State) (core t : Nat) : Option Nat :=
  match (s.tile core t).owner with
  | none => none
  | some n => match s.group? core n with
    | some g => if g.gstate = .halted then some n else none
    | none => none

/-! ## The baton and tile ownership (R353 to R357) -/

/-- BTAKE (R354): the FIFO position counts from 1 (DEDUCED, assumption 17). -/
def execBtake (f : TOps) : State → Host.Outcome State Fault Refusal := instr (.t 0x140 f) fun c s => do
  c.maskReady
  let E := c.g.exec f.g1 f.g2
  if E = 0 then return s
  c.notInHandler E (wordT 0x140 f)
  let _ ← c.nextPc
  let e := s.eng c.core
  if e.baton = some c.slot then return s
  else if e.baton.isNone then return s.modEng c.core fun e => { e with baton := some c.slot }
  else
    let s := s.modEng c.core fun e => { e with fifo := e.fifo ++ [c.slot] }
    let w : WaitRec := { kind := 8, obj := BitVec.ofNat 64 (c.core % 16), val := BitVec.ofNat 64 (e.fifo.length + 1) }
    .error (.out (s.park c (.t 0x140 f) w .baton))

/-- BPASS (R354). -/
def execBpass (f : TOps) : State → Host.Outcome State Fault Refusal := instr (.t 0x141 f) fun c s => do
  c.maskReady
  let E := c.g.exec f.g1 f.g2
  if E = 0 then return s
  if (s.eng c.core).baton = some c.slot then return s.modEng c.core Engine.passBaton
  else raiseOpen fcBaton 2 E

/-- TALLOC (R357). -/
def execTalloc (f : EOps) : State → Host.Outcome State Fault Refusal := instr (.e 0x148 f) fun c s => do
  c.maskReady
  let E := c.g.exec f.g1 f.g2
  if E = 0 then return s
  c.notInHandler E (wordE 0x148 f)
  let _ ← c.nextPc
  let t := f.tile.val
  let x := s.tile c.core t
  if x.owner = some c.slot then return s
  else if x.owner.isNone && !x.freeing then return s.modTile c.core t fun x => x.grant c.slot
  else
    let s := s.modTile c.core t fun x => { x with waiters := x.waiters ++ [c.slot] }
    .error (.out (s.park c (.e 0x148 f) { kind := 9, sub := t, obj := BitVec.ofNat 64 (c.core % 16) } (.tile t)))

/-- TILE_OWNER (R356). -/
def State.owned (s : State) (c : Ctx) (E : LaneMask) (t : Nat) : Except Trap Unit :=
  match (s.tile c.core t).owner with
  | none => .error (.faultOpen fcOwner 2 E)
  | some n => if n = c.slot then .ok () else .error (.faultOpen fcOwner 1 E)

/-- ACC_OPEN_BATCH: the open t1 batch holds a command naming the tile (R357, R371). -/
def Ctx.closed (c : Ctx) (E : LaneMask) (t : Nat) : Except Trap Unit :=
  if c.g.t1.named.contains t then .error (.faultOpen fcOpenBatch 1 E) else .ok ()

/-- TFREE (R357). -/
def execTfree (f : EOps) : State → Host.Outcome State Fault Refusal := instr (.e 0x149 f) fun c s => do
  c.maskReady
  let E := c.g.exec f.g1 f.g2
  if E = 0 then return s
  s.owned c E f.tile.val
  c.closed E f.tile.val
  return s.modEng c.core fun e => e.release f.tile.val

/-! ## Format blocks (R349, R358) -/

def fbA (fb : DWord) : Nat := fld fb 60 4
def fbB (fb : DWord) : Nat := fld fb 56 4
def fbAbl (fb : DWord) : Nat := fld fb 53 3
def fbBbl (fb : DWord) : Nat := fld fb 50 3
def fbAso (fb : DWord) : Nat := fld fb 32 18
def fbBso (fb : DWord) : Nat := fld fb 14 18
def fbAnch (fb : DWord) : Int := codeInt true 10 (fld fb 4 10)
def fbSd8 (fb : DWord) : Bool := bit fb 3
def fbBt (fb : DWord) : Bool := bit fb 2
def fbAuto (fb : DWord) : Bool := bit fb 1
def fbAsrc (fb : DWord) : Bool := bit fb 0

/-- The element format of a code; none where the code is reserved. -/
def fmtCode : Nat → Option Elem
  | 0 => some .f16
  | 1 => some .bf16
  | 2 => some .d8
  | 3 => some .e4m3
  | 4 => some .i8
  | 5 => some .n8
  | 6 => some .fp4
  | 7 => some .i4
  | 9 => some .f32
  | _ => none

def fmtElem (n : Nat) : Elem := (fmtCode n).getD .f32

/-- The depth of a step by element width (R348). -/
def stepDepth (el : Elem) : Nat := 384 / el.width

/-- K elements that share a scale (R34); 0 where one scale covers the whole K. -/
def blockLen (count : Bool) (code : Nat) : Nat := if code = 6 then 0 else (if count then 48 else 8) * 2 ^ code

/-- The K block of a global K index (R350). -/
def blockAt (count : Bool) (code k : Nat) : Nat :=
  if code = 0 then 0 else let n := blockLen count code
                          if n = 0 then 0 else k / n

/-- The subcode of FORMAT_PAIR for a step's format block, first cause first (R349, R381, R383). -/
def stepFormat (count : Bool) (fb : DWord) : Option Nat :=
  let a := fmtCode (fbA fb)
  let b := fmtCode (fbB fb)
  let admits (x : Option Elem) : Bool := match x with
    | some el => if count then el.width == 4 else el.width == 8 || el.width == 16
    | none => false
  let blBad (n : Nat) : Bool := n == 7 || count && n == 5
  if fbAsrc fb && fbAuto fb then some 5
  else if a.isNone || b.isNone then some 2
  else if !admits a || !admits b || count && a != b then some 4
  else if (a.map Elem.width) != (b.map Elem.width) then some 1
  else if blBad (fbAbl fb) || blBad (fbBbl fb) then some 3
  else none

/-! ## The anchor rule (R359) -/

/-- The settled rule and scheduled anchor of a tile for a format block whose operands have some formats, or the
subcode of ANCHOR_REQUIRED. -/
def settleAnchor (rule : ARule) (anchor : Option Int) (fb : DWord) (fs : List Elem) : Except Nat (ARule × Option Int) :=
  let new := match rule with
    | .unset => if fbAsrc fb then ARule.explicit else if fbAuto fb then .auto else .default
    | r => r
  if new = .default ∧ fs.contains .bf16 then .error 1
  else if new = .default ∧ (fbAbl fb ≠ 0 ∨ fbBbl fb ≠ 0) then .error 2
  else if rule = .unset then
    .ok (new, match new with
      | .explicit => some (fbAnch fb)
      | .default => some (fs.foldl (fun a f => a + (f.leastExp).getD 0) 0)
      | _ => none)
  else .ok (rule, anchor)

/-! ## Scratchpad addresses of commands (R360, R372) -/

/-- The scratchpad that a window address names, and the offset in it: core, workgroup, offset. -/
def State.engWin (s : State) (core wg : Nat) (a : DWord) : Option (Nat × Nat × Nat) :=
  if fld a 56 8 = 0xF0 then some (core, wg, fld a 0 24)
  else (s.rankWg core wg (fld a 22 2)).map fun p => (p.1, p.2, fld a 0 22)

/-- ADDR_SPACE: core scratchpad and cluster memory are admitted (R360). -/
def engSpace (E : LaneMask) (a : DWord) : Except Trap Unit :=
  if fld a 56 8 ≠ 0xF0 ∧ fld a 56 8 ≠ 0xF1 then raiseOpen fcAddr 2 E
  else if fld a 24 32 ≠ 0 then raiseOpen fcAddr 1 E
  else .ok ()

/-- MISALIGNED of a base and the steps added to it. -/
def engAlign (E : LaneMask) (a : DWord) (n : Nat) (incs : List Int) : Except Trap Unit :=
  if a.toNat % n ≠ 0 ∨ incs.any fun i => i.emod (n : Int) != 0 then raiseOpen fcAlign 1 E else .ok ()

/-- SPAD_RANGE of a stretch at a distance from an address. -/
def State.engRange (s : State) (c : Ctx) (E : LaneMask) (a : DWord) (d : Int) (n : Nat) : Except Trap Unit :=
  let sub := if fld a 56 8 = 0xF1 then 2 else 1
  match s.engWin c.core c.g.wg a with
  | none => .error (.faultOpen fcSpad sub E)
  | some (x, w, o) =>
    let p := (o : Int) + d
    if n ≠ 0 ∧ (p < 0 ∨ (s.spadBytes x w : Int) < p + (n : Int)) then
      .error (.faultOpen fcSpad sub E)
    else .ok ()

/-- The base of the core-scratchpad window: scale bytes lie at offsets from it, of any size (R350). -/
def spadVa : DWord := 0xF0 * 2 ^ 56

/-- A stretch of a command's reads: window address, distance, bytes. -/
abbrev Stretch := DWord × Int × Nat

/-- The scale bytes that n K elements from κ on read (R350). -/
def scaleStretches (count : Bool) (fb : DWord) (kappa n : Nat) : List Stretch :=
  let one (code so rows : Nat) : List Stretch :=
    if code = 0 ∨ n = 0 then []
    else
      let j0 := blockAt count code kappa
      let j1 := blockAt count code (kappa + n - 1)
      (List.range (j1 + 1 - j0)).map fun i => (spadVa, ((16 * so + rows * (j0 + i) : Nat) : Int), rows)
  one (fbAbl fb) (fbAso fb) 48 ++ one (fbBbl fb) (fbBso fb) 80

/-- SPAD_RANGE over some stretches. -/
def State.engRanges (s : State) (c : Ctx) (E : LaneMask) (l : List Stretch) : Except Trap Unit :=
  l.forM fun p => s.engRange c E p.1 p.2.1 p.2.2

/-! ## Region words (R367) -/

/-- Rows, columns, digits of the two permutations, line stride. -/
structure Region where
  h : Nat
  w : Nat
  rdig : List Nat
  cdig : List Nat
  lstr : Nat
deriving DecidableEq, Repr

def regionOf (x : DWord) : Region :=
  { h := fld x 0 6 + 1, w := fld x 7 7 + 1,
    rdig := (List.range (fld x 16 3)).map fun j => fld x (19 + 2 * j) 2 + 2,
    cdig := (List.range (fld x 31 3)).map fun j => fld x (34 + 2 * j) 2 + 2, lstr := fld x 48 16 }

def regionBad (x : DWord) : Bool :=
  decide (47 < fld x 0 6) || decide (79 < fld x 7 7) || bit x 6 || fld x 14 2 != 0 || decide (6 < fld x 16 3) ||
  decide (6 < fld x 31 3) || fld x 46 2 != 0

def prodOf (l : List Nat) : Nat := l.foldl (· * ·) 1

/-- The digit products match the region's sides. -/
def Region.digits (r : Region) : Bool :=
  (r.rdig.isEmpty || prodOf r.rdig == r.h) && (r.cdig.isEmpty || prodOf r.cdig == r.w)

/-- The digit reversal of R367. -/
def digitRev : List Nat → Nat → Nat
  | [], _ => 0
  | b :: r, i => i % b * prodOf r + digitRev r (i / b)

def permute (ds : List Nat) (i : Nat) : Nat := if ds.isEmpty then i else digitRev ds i

/-- Lines of the region in memory and elements in each, by the layout bit. -/
def Region.lines (r : Region) (bt : Bool) : Nat := if bt then r.w else r.h
def Region.along (r : Region) (bt : Bool) : Nat := if bt then r.h else r.w
/-- Line and element of row i, column j. -/
def linePos (bt : Bool) (i j : Nat) : Nat × Nat := if bt then (j, i) else (i, j)

/-- Bits of one element as ALD and ADRN lay it out: pairs of FP32 in CPLX32. -/
def elemBits (mode : TMode) (el : Elem) : Nat := if mode = .cplx32 then 64 else el.width
def lineBytes (mode : TMode) (el : Elem) (r : Region) (bt : Bool) : Nat := r.along bt * elemBits mode el / 8

/-- The stretches of a region's lines at an address. -/
def regionStretches (mode : TMode) (el : Elem) (r : Region) (bt : Bool) (a : DWord) : List Stretch :=
  (List.range (r.lines bt)).map fun l => (a, ((l * r.lstr : Nat) : Int), lineBytes mode el r bt)

/-! ## Queueing a command (R347, R351) -/

/-- The command's name, tile and lanes; its operation and path; whether it joins t1. -/
def State.engIssue (s : State) (c : Ctx) (E : LaneMask) (f : EOps) (arrayPath : Bool) (due : List (Nat × Nat × Nat))
    (op : EOp) : State :=
  let (id, s) := s.newId
  let x := s.tile c.core f.tile.val
  let k : ECmd :=
    { id := id, slot := c.slot, wg := c.g.wg, seq := c.g.t1.nextSeq 1, pc := c.g.pc.word, lanes := E,
      tile := f.tile.val, arrayPath := arrayPath, started := false, mode := x.mode,
      anchor := if x.rule = .auto then none else x.anchor, height := x.height, width := x.width, lines := [],
      due := due, op := op, entryB := c.g.entryB }
  let s := due.foldl (fun s x => s.dueLine x true) s
  (s.modEng c.core fun e => { e with queue := e.queue ++ [k] }).withGroup c fun g =>
    let t := g.t1.join id
    let t := { t with named := t.named ++ [f.tile.val] }
    { g with t1 := if f.commit then t.commit else t }

/-- ADRV, which joins no timeline (R371). -/
def EOp.lanesDrain : EOp → Bool
  | .drainLanes .. => true
  | _ => false

/-- Room in the queue of 64 t1 commands (R347). -/
def State.engRoom (s : State) (c : Ctx) : Except Trap Unit :=
  if ((s.eng c.core).queue.filter fun k => !k.op.lanesDrain).length < 64 then .ok () else .error .stall

/-- BATON_REQUIRED. -/
def State.hasBaton (s : State) (c : Ctx) (E : LaneMask) : Except Trap Unit :=
  if (s.eng c.core).baton = some c.slot then .ok () else .error (.faultOpen fcBaton 1 E)

/-- TILE_MODE 0x01. -/
def State.inMode (s : State) (c : Ctx) (E : LaneMask) (t : Nat) (ms : List TMode) : Except Trap Unit :=
  if ms.contains (s.tile c.core t).mode then .ok () else .error (.faultOpen fcTileMode 1 E)

/-- The six names from a vector name on, each with what it supplies in a lane (R361). -/
def nameAt (x : VName) (w : Nat) : VName :=
  match x with
  | .age a => .age (Fin.ofNat 64 (a.val + w))
  | .frame a => .frame (Fin.ofNat 704 (a.val + w))
  | y => y

/-- The fragment that lanes of E supply (R361, R364): word w of lane L at 6 L + w. -/
def Ctx.fragment (c : Ctx) (E : LaneMask) (x : VName) : Except Trap (List Word) := do
  let ws ← (List.range 6).mapM fun w => c.readLanes E (c.vsrc 0 .n32 0 false (nameAt x w))
  return (List.range 96).flatMap fun l => ws.map fun v => if h : l < 96 then lowWord v[l] else 0

/-- Settle a tile's anchor rule for a command (R359). -/
def State.settleTile (s : State) (c : Ctx) (E : LaneMask) (t : Nat) (fb : DWord) (fs : List Elem) :
    Except Trap (ARule × Option Int) :=
  let x := s.tile c.core t
  match settleAnchor x.rule x.anchor fb fs with
  | .error sub => .error (.faultOpen fcAnchor sub E)
  | .ok r => .ok r

def fbElems (fb : DWord) : List Elem := [fmtElem (fbA fb), fmtElem (fbB fb)]

/-! ## MMS and MML (R361 to R365) -/

/-- Names checked and, where the latch does not supply them, read; the fragment and the latch that MMS leaves. -/
def State.latched (s : State) (c : Ctx) (f : EOps) : Option Latch := if f.reuse then (s.eng c.core).latch else none

def isFrameName : VName → Option Nat
  | .frame n => some n.val
  | _ => none

/-- A_LATCH_MISMATCH (R363). -/
def State.latchCheck (s : State) (c : Ctx) (E : LaneMask) (f : EOps) : Except Trap Unit :=
  if !f.reuse then .ok ()
  else match (s.eng c.core).latch, isFrameName f.an with
    | none, none => .error (.faultOpen fcLatch 1 E)
    | none, some _ => .ok ()
    | some l, some n => if l.frame0 = n then .ok () else .error (.faultOpen fcLatch 2 E)
    | some _, none => .error (.faultOpen fcLatch 2 E)

/-- MMS (R364). -/
def execMms (f : EOps) : State → Host.Outcome State Fault Refusal := instr (.e 0x142 f) fun c s => do
  c.maskWait
  let E := c.g.exec f.g1 f.g2
  let hit := s.latched c f
  let frag ← match hit with
    | some l => do
      c.nameRange E f.an 6
      c.maskSound
      pure l.words
    | none => do
      c.checkNames E [(f.an, 6)]
      c.fragment E f.an
  if E = 0 then return s
  let b ← c.readS f.p.val
  let fb := c.kreg f.kix.val
  let t := f.tile.val
  s.hasBaton c E
  s.owned c E t
  s.inMode c E t [.exact]
  match stepFormat false fb with
  | some sub => raiseOpen fcFormat sub E
  | none => .ok ()
  let (rule, anchor) ← s.settleTile c E t fb (fbElems fb)
  s.latchCheck c E f
  let d := stepDepth (fmtElem (fbA fb))
  let kappa := (s.tile c.core t).kappa
  engSpace E b
  engAlign E b 128 []
  s.engRanges c E ((b, 0, 3840) :: scaleStretches false fb kappa d)
  c.quiet
  s.engRoom c
  let s := s.modEng c.core fun e =>
    { e with latch := if f.reuse then some { frame0 := (isFrameName f.an).getD 0, words := frag } else none }
  let s := s.modTile c.core t fun x => { x with rule := rule, anchor := anchor }
  let s := s.engIssue c E f true [] (.step false frag fb kappa b)
  return s.modTile c.core t fun x => { x with kappa := kappa + d }

/-- Signed increments of k[N+1] (R365). -/
def incsOf (x : DWord) : Int × Int := (codeInt true 32 (fld x 0 32), codeInt true 32 (fld x 32 32))

def cntOf (n : BitVec 8) : Nat := if n = 0 then 256 else n.toNat

/-- The address of step q, which has its own window and rank. -/
def stepAddr (a : DWord) (inc : Int) (q : Nat) : DWord := a + BitVec.ofInt 64 ((q : Int) * inc)

/-- The A and B stretches of every step. -/
def stepStretches (a b : DWord) (ai bi : Int) (cnt : Nat) : List Stretch :=
  (List.range cnt).flatMap fun (q : Nat) => [(stepAddr a ai q, 0, 2304), (stepAddr b bi q, 0, 3840)]

/-- ADDR_SPACE of every step: each behaves as a step at its own addresses (R365, R387; DEDUCED,
assumption 87). -/
def stepSpaces (E : LaneMask) (a b : DWord) (ai bi : Int) (cnt : Nat) : Except Trap Unit :=
  (List.range cnt).forM fun q => do
    engSpace E (stepAddr a ai q)
    engSpace E (stepAddr b bi q)

/-- MML (R365). -/
def execMml (f : EOps) : State → Host.Outcome State Fault Refusal := instr (.e 0x143 f) fun c s => do
  c.maskReady
  let E := c.g.exec f.g1 f.g2
  if E = 0 then return s
  let a ← c.readS f.p.val
  let b ← c.readS f.q.val
  let fb := c.kreg f.kix.val
  let (ai, bi) := incsOf (c.kreg (f.kix.val + 1))
  let cnt := cntOf f.cnt
  let t := f.tile.val
  s.hasBaton c E
  s.owned c E t
  s.inMode c E t [.exact]
  match stepFormat false fb with
  | some sub => raiseOpen fcFormat sub E
  | none => .ok ()
  let (rule, anchor) ← s.settleTile c E t fb (fbElems fb)
  let d := stepDepth (fmtElem (fbA fb))
  let kappa := (s.tile c.core t).kappa
  stepSpaces E a b ai bi cnt
  engAlign E a 128 [ai]
  engAlign E b 128 [bi]
  s.engRanges c E (stepStretches a b ai bi cnt ++ scaleStretches false fb kappa (cnt * d))
  c.quiet
  s.engRoom c
  let s := s.modTile c.core t fun x => { x with rule := rule, anchor := anchor }
  let s := s.engIssue c E f true [] (.steps false fb kappa cnt a b ai bi)
  return s.modTile c.core t fun x => { x with kappa := kappa + cnt * d }

/-! ## ACLR, ALD, ADRN, ADRV (R366 to R371) -/

/-- The mode of a code (R355). -/
def modeOf (n : Nat) : TMode := if n = 0 then .exact else if n = 1 then .real32 else if n = 2 then .cplx32 else .count

/-- ACLR (R366, R419). -/
def execAclr (f : EOps) : State → Host.Outcome State Fault Refusal := instr (.e 0x144 f) fun c s => do
  c.maskReady
  let E := c.g.exec f.g1 f.g2
  if E = 0 then return s
  let fix := f.mode.getLsbD 2
  let a ← if fix then c.readS f.p.val else .ok 0
  let t := f.tile.val
  let mode := modeOf (f.mode.toNat % 4)
  s.owned c E t
  let other := match (s.eng c.core).bank with
    | some b => if mode = .count ∧ b ≠ t then some b else none
    | none => none
  let displaced := match other with
    | some b => (s.tileHalted c.core b).map fun n => (b, n)
    | none => none
  if other.isSome && displaced.isNone then raiseOpen fcTileMode 2 E
  c.loadsDone
  s.engRoom c
  let s := s.modEng c.core fun e =>
    { e with bank := if mode = .count then some t else if e.bank = some t then none else e.bank }
  let s := s.modTile c.core t fun x =>
    { x with mode := mode, kappa := 0, height := 48, width := 80, run := {},
             rule := if fix then .explicit else .unset,
             anchor := if fix then some (codeInt true 10 (a.toNat % 1024)) else none }
  return s.engIssue c E f false [] (.clear displaced)

/-- The subcode of FORMAT_PAIR for ALD (R368). -/
def loadFormat (mode : TMode) (fb : DWord) (r : Region) : Option Nat :=
  let el := fmtCode (fbA fb)
  if fbB fb ≠ 0 ∨ fbAbl fb ≠ 0 ∨ fbBbl fb ≠ 0 ∨ fbAso fb ≠ 0 ∨ fbBso fb ≠ 0 ∨ fbSd8 fb ∨
      (mode ≠ .exact ∧ fld fb 4 10 ≠ 0) ∨ (fbAsrc fb ∧ fbAuto fb) then some 5
  else match el with
    | none => some 2
    | some el =>
      if mode = .cplx32 ∧ el ≠ .f32 then some 4
      else if el.width = 4 ∧ r.along (fbBt fb) % 2 ≠ 0 then some 3
      else none

/-- Alignment of a region's base and stride (R368, R369). -/
def regionAlign (E : LaneMask) (mode : TMode) (el : Elem) (a : DWord) (r : Region) : Except Trap Unit :=
  engAlign E a (max 1 (elemBits mode el / 8)) [(r.lstr : Int)]

/-- ALD (R368). -/
def execAld (f : EOps) : State → Host.Outcome State Fault Refusal := instr (.e 0x145 f) fun c s => do
  c.maskReady
  let E := c.g.exec f.g1 f.g2
  if E = 0 then return s
  let a ← c.readS f.p.val
  let fb := c.kreg f.kix.val
  let rw := c.kreg (f.kix.val + 1)
  let r := regionOf rw
  let t := f.tile.val
  let mode := modeOf (f.mode.toNat % 4)
  let el := fmtElem (fbA fb)
  s.owned c E t
  if regionBad rw then raiseOpen fcFormat 5 E
  if !r.digits then raiseOpen fcTileMode 3 E
  match loadFormat mode fb r with
  | some sub => raiseOpen fcFormat sub E
  | none => .ok ()
  let (rule, anchor) ← if mode = .exact then
      match settleAnchor .unset none fb [el] with
      | .error sub => raiseOpen fcAnchor sub E
      | .ok p => .ok p
    else .ok (.unset, none)
  engSpace E a
  regionAlign E mode el a r
  s.engRanges c E (regionStretches mode el r (fbBt fb) a)
  c.quiet
  s.engRoom c
  let s := s.modEng c.core fun e => { e with bank := if e.bank = some t then none else e.bank }
  let s := s.modTile c.core t fun x =>
    { x with mode := mode, kappa := 0, height := r.h, width := r.w, run := {}, rule := rule, anchor := anchor }
  return s.engIssue c E f false [] (.load fb rw a)

/-- The subcode of FORMAT_PAIR for ADRN (R369). -/
def drainFormat (mode : TMode) (fb : DWord) (r : Region) : Option Nat :=
  let along := r.along (fbBt fb)
  if fbB fb ≠ 0 ∨ fbBbl fb ≠ 0 ∨ fbBso fb ≠ 0 ∨ fld fb 4 10 ≠ 0 ∨ fbAsrc fb ∨ fbAuto fb then some 5
  else match fmtCode (fbA fb) with
    | none => some 2
    | some el =>
      if (mode = .cplx32 ∧ el ≠ .f32) ∨ !([Elem.f16, .bf16, .d8, .e4m3, .fp4, .f32].contains el) ∨
          (fbAbl fb ≠ 0 ∧ [Elem.f16, .bf16, .f32].contains el) then some 4
      else if !([0, 1, 6].contains (fbAbl fb)) ∨ (fbAbl fb = 1 ∧ along % 16 ≠ 0) ∨ (el.width = 4 ∧ along % 2 ≠ 0) then
        some 3
      else none

/-- Blocks of generated scales along each line (R369). -/
def scaleBlocks (fb : DWord) (r : Region) : Nat :=
  if fbAbl fb = 0 then 0 else if fbAbl fb = 1 then r.along (fbBt fb) / 16 else 1

/-- The stretches of the scale bytes that a drain writes. -/
def drainScales (fb : DWord) (r : Region) : List Stretch :=
  (List.range (scaleBlocks fb r)).map fun b =>
    (spadVa, ((16 * fbAso fb + (if fbBt fb then 80 else 48) * b : Nat) : Int), r.lines (fbBt fb))

/-- The scratchpad lines of some stretches: core, workgroup, line. -/
def State.stretchLines (s : State) (core wg : Nat) (l : List Stretch) : List (Nat × Nat × Nat) :=
  (l.flatMap fun p => match s.engWin core wg p.1 with
    | none => []
    | some (x, w, o) =>
      let st := ((o : Int) + p.2.1).toNat
      if p.2.2 = 0 then []
      else (List.range ((st + p.2.2 - 1) / 128 + 1 - st / 128)).map fun i => (x, w, st / 128 + i)).eraseDups

/-- ADRN (R369). -/
def execAdrn (f : EOps) : State → Host.Outcome State Fault Refusal := instr (.e 0x146 f) fun c s => do
  c.maskReady
  let E := c.g.exec f.g1 f.g2
  if E = 0 then return s
  let a ← c.readS f.p.val
  let fb := c.kreg f.kix.val
  let rw := c.kreg (f.kix.val + 1)
  let r := regionOf rw
  let t := f.tile.val
  let el := fmtElem (fbA fb)
  s.owned c E t
  let mode := (s.tile c.core t).mode
  if regionBad rw then raiseOpen fcFormat 5 E
  if !r.digits then raiseOpen fcTileMode 3 E
  if (f.mode.getLsbD 2 && el != .e4m3) || (f.mode.getLsbD 1 && (mode == .real32 || mode == .cplx32)) then
    raise fcIllegal 7 (wordE 0x146 f) E
  match drainFormat mode fb r with
  | some sub => raiseOpen fcFormat sub E
  | none => .ok ()
  engSpace E a
  regionAlign E mode el a r
  let st := regionStretches mode el r (fbBt fb) a ++ drainScales fb r
  s.engRanges c E st
  c.quiet
  s.engRoom c
  let due := s.stretchLines c.core c.g.wg st
  let s := s.engIssue c E f false due (.drain fb rw a f.mode)
  return if f.mode.getLsbD 0 then s.modTile c.core t fun x => { x with kappa := 0, run := {} } else s

/-- Frame slots n to n + 39 of the lanes of E await part 0 to 39 of a request. -/
def Group.awaitFrame (g : Group) (E : LaneMask) (n id : Nat) : Group :=
  g.modLanes E fun _ l =>
    { l with act := (List.range 40).foldl (fun a j => a.setFr (n + j) (.pend id j)) l.act }

/-- ADRV (R371): it joins no batch and takes no place among the 64 commands. -/
def execAdrv (f : EOps) : State → Host.Outcome State Fault Refusal := instr (.e 0x147 f) fun c s => do
  c.maskReady
  let E := c.g.exec f.g1 f.g2
  let n := (isFrameName f.an).getD 0
  c.nameRange E f.an 40
  if E = 0 then return s
  let t := f.tile.val
  s.owned c E t
  s.inMode c E t [.exact, .count, .real32]
  c.closed E t
  (List.range 40).forM fun j => c.framePending E (n + j)
  let (id, s) := s.newId
  let x := s.tile c.core t
  let k : ECmd :=
    { id := id, slot := c.slot, wg := c.g.wg, seq := {}, pc := c.g.pc.word, lanes := E, tile := t, arrayPath := false,
      started := false, mode := x.mode, anchor := if x.rule = .auto then none else x.anchor, height := x.height,
      width := x.width, lines := [], due := [], op := .drainLanes n (f.mode.getLsbD 0), entryB := c.g.entryB }
  let q : PendReq := { id := id, kind := 0, obj := 0, pc := c.g.pc.word, stamp := id, hint := 0, via := .uncached,
                       acq := none, dest := .tile }
  return (s.modEng c.core fun e => { e with queue := e.queue ++ [k] }).withGroup c fun g =>
    { g.awaitFrame E n id with pends := g.pends ++ [q] }

end Sys2Proof.Machine
end

