-- ==== Sys2Proof/Machine/Waits.lean ====
section
/-! DEFINITION. The end of a wait (R151, R163, R164): an instruction that was held issues again, one that has issued
completes. -/

namespace Sys2Proof.Machine

/-- An instruction that has issued completes: the group goes on after it. -/
def State.endWait (s : State) (core slot : Nat) (f : Group → Group := id) : State := s.goNextWith core slot f

/-- The owner that a tile's waiter sees. -/
def State.holdsTile (s : State) (core slot t : Nat) : Bool := (s.tile core t).owner == some slot

/-- The writes of an ENQD whose page has been replayed (R120); a slot that may not be written any more leaves the
records published as zero words and faults the ENQD (DEDUCED, assumption 19). -/
def State.finishPublish (s : State) (core slot : Nat) (g : Group) (q base : Nat) (recs : List (List Word)) : Option State :=
  let r : Req := { core := core, vf := g.vf, part := g.part, wg := g.wg, fsize := g.frameSize }
  let cs := s.slotChecks r g.vf q base recs.length true
  match chkFirst cs with
  | some (a, .bad _ code sub) => match (s.setGroup core slot g.again).ctxOf core slot with
    | none => none
    | some c => some (((s.setGroup core slot g.again).publishZero g.vf q base recs.length).precise c code sub a g.mask)
  | some (a, .miss st x l) =>
    let m : PageMiss := { va := a, stage2 := st, addr := x, level := l, acc := 1, ctx := g.vf, part := g.part,
                          pc := g.pc.word, entryB := g.entryB, cmd := 0 }
    some (s.parkPage core slot m g.pc.word (some (.publish q base recs)))
  | _ =>
    if (chkLocs cs).any fun p => s.flipping p.2 then none
    else some ((s.publish core g q base recs (chkLocs cs)).endWait core slot)

/-- A party of a rendezvous that no other group can meet faults (R270). -/
def State.alone (s : State) (core slot : Nat) (g : Group) (n : Nat) (E : LaneMask) : Option State :=
  if s.hasPartner core slot g.wg then none
  else
    let s := (s.setGroup core slot g.again).leaveSlots core slot g.wg
    match s.ctxOf core slot with
    | none => none
    | some c => some (s.precise c fcXchg 3 (BitVec.ofNat 64 n) E)

/-- The state after a group's wait ends; none while its condition does not hold. -/
def State.finishWait (s : State) (core slot : Nat) (g : Group) : Option State :=
  let again (b : Bool) : Option State := if b then some (s.setGroup core slot g.again) else none
  let done (b : Bool) (f : State → State) : Option State := if b then some (f (s.endWait core slot)) else none
  match g.resume with
  | .none => none
  | .operand id => again !(g.pends.any fun p => p.id == id)
  | .absent loc => again !(s.absentLine loc)
  | .replay => again g.waitDone
  | .deliver r pc =>
    if g.waitDone && !(s.fetchBundle core g g.csr.hvec).held then
      some (((s.setGroup core slot g.again).deliver core slot r pc).stepDone core slot)
    else none
  | .quota q data n =>
    again (if data then decide ((s.dq g.vf q).prod.toNat - (s.dq g.vf q).freed + n ≤ s.dqSlots g.vf q) else s.cardRoom g.vf q)
  | .timeline i n => done (decide (n ≤ (g.tl i).k)) fun s => s.acquire core g.vf .device
  | .counter _ loc least sys =>
    done (g.waitDone || decide (least.toNat ≤ s.readNat loc 8)) fun s => s.acquire core g.vf (if sys then .system else .device)
  | .barrier cluster b phase =>
    done (s.barPhase core g.wg cluster b != phase) fun s => if cluster then s.acquire core g.vf .cluster else s
  | .phase va _ _ => done (g.waitDone || s.memWaitHolds g.resume) fun s => s.acquire core g.vf (phaseScope va)
  | .baton => done ((s.eng core).baton == some slot) id
  | .tile t => done (s.holdsTile core slot t) id
  | .publish q base recs => if g.waitDone then s.finishPublish core slot g q base recs else none
  | .deq q base n w E => if g.wait.kind = 0x0F ∧ !g.waitDone then none else
    (s.finishDeq core slot g q base n w E fun t => (t.stampLate core slot g).modGroup core slot Group.goNext).map
      fun s => s.stepDone core slot
  | .send n E _ => s.alone core slot g n E
  | .recv n E _ => s.alone core slot g n E
  | .future _ loc d =>
    if g.waitDone ∨ 2 ≤ futState (s.futWord0 loc) then some ((s.readFuture core slot g.vf loc d).endWait core slot) else none
  | .retire => none

end Sys2Proof.Machine
end

