-- ==== Sys2Proof/Machine/Issue.lean ====
section
/-! DEFINITION. What a group does at its turn (R144 to R156): end a wait, stop, take a queued engine fault, fetch, arrive
at a rejoin bundle, or issue the instruction its PC names; and the arbitration of the shared ports (R153). -/

namespace Sys2Proof.Machine

/-- What a group does next: nothing, an instruction in a state where it is the issuing group, an event of the opcode
table, or a step that is neither. -/
inductive Act where
  | idle
  | run (i : Instr) (s : State)
  | ev (i : Instr)
  | other (s : State)
deriving Repr

/-- A core is clocked: not gated, nor leaving its gating (R167 to R169). -/
def Core.clocked (k : Core) : Bool := !k.gate.gated && k.gate.exitDone.isNone

/-- The module and a group's core run, the group is running, has ended its last instruction, and holds an active slot whose
swap is over (R146, R147, R149, R167 to R169, R468). -/
def State.mayIssue (s : State) (core slot : Nat) (g : Group) : Bool :=
  let k := s.core core
  !s.sys.stopped && k.clocked && g.gstate == .running && !g.dstop &&
    decide (g.busy ≤ s.clock) && (match k.activeOf slot with
      | none => false
      | some a => k.swaps.all fun w => w.1 != a || decide (w.2.2 ≤ s.clock))

/-- The entries of the pre-emption table that list a bundle of a group's job (R53). -/
def State.ptabEntry (s : State) (g : Group) (bundle : DWord) : Option (DWord × DWord) :=
  match s.job? g.job with
  | none => none
  | some j => j.ptab.find? fun e => (e.2.extractLsb' 0 32).signExtend 64 == bundle - j.lrec.getD 1 0

/-- The debug block of a function (R446). -/
def dbgOfs (o : Nat) : Nat := 0x8000 + o

/-- A breakpoint register names a PC (R446). -/
def State.bpHit (s : State) (fn : Nat) (pc : DWord) : Bool :=
  let en := s.vr fn (dbgOfs 0x38)
  (List.range 4).any fun i => bit en i && s.vr fn (dbgOfs (0x40 + 8 * i)) == pc

/-- The word at a group's PC, of a bundle that its core's instruction cache holds. -/
def State.wordNow (s : State) (core : Nat) (g : Group) : Option DWord :=
  ((s.core core).icFind g.vf g.job g.pc.bundle).map fun l => l.words.getD g.pc.slot 0

/-- The instruction at a slot of a fetched bundle, for a group that holds the checks before it: breakpoints (R447), an
undecodable word (R65), or its issue. -/
def State.issueWord (s : State) (core slot : Nat) (c : Ctx) (l : IcLine) : Act :=
  let g := c.g
  let w := l.words.getD g.pc.slot 0
  if !g.counted && g.bpPass != some g.pc && s.bpHit g.vf g.pc.word then
    if bit (s.vr g.vf (dbgOfs 0)) 0 then .other (s.debugStop core slot)
    else .other (s.precise c 0x51 0xFF 0 (g.exec (guard1 w) (guard2 w)))
  else match decode w with
    | .error sub => .other (s.precise c fcIllegal sub w (g.exec (guard1 w) (guard2 w)))
    | .ok i =>
      let h := l.words.headD 0
      let s := s.modCore core fun k => { k with icache := icFill k.icache l }
      .run i { s.modGroup core slot fun g =>
                 { g with sv := hdrSv h, rjt := hdrRjt h, swapHint := false } with
                cur := (core, slot) }

/-- A group stops here for a pre-emption under way (R415): at a bundle that its table lists, outside a handler,
before an arrival at that bundle (DESIGN CHOICE, assumption 85). -/
def State.stopsHere (s : State) (g : Group) : Bool :=
  (s.vf g.vf).pstate == .stopping && !g.csr.inHandler && g.pc.slot == 1 && (s.ptabEntry g g.pc.bundle).isSome

/-- After the timeout it stops at any bundle it begins. -/
def State.timesOut (s : State) (g : Group) : Bool :=
  (s.vf g.vf).pstate == .stopping && g.pc.slot == 1 && decide ((s.vf g.vf).reqAt + 2 ^ 20 ≤ s.clock)

/-- A group that held the baton at its stop issues nothing until it holds it again (R375). -/
def State.awaitsBaton (s : State) (core slot : Nat) (g : Group) : Bool :=
  g.rejoin && (s.core core).eng.baton != some slot

/-- A queued engine fault is due at a group's next instruction boundary (R404). -/
def Group.faultDue (g : Group) : Bool := g.resume == .none && !g.csr.epend.isEmpty && !g.csr.inHandler

/-! ## Fetch requests (R144) -/

/-- A group that may decode, and whose next bundle the instruction cache, which serves one in a clock, may serve now: it is
active and waits for nothing, its mask words included (R156, R237). -/
def State.fetcher (s : State) (core slot : Nat) : Option Ctx :=
  (s.ctxOf core slot).filter fun c =>
    s.mayIssue core slot c.g && !s.awaitsBaton core slot c.g && c.g.resume == .none && c.maskWait.isOk &&
      decide ((s.core core).fetchAt ≤ s.clock)

/-- A group that decodes from its bundle now: nothing else is due before that (R404, R415). -/
def State.decoder (s : State) (core slot : Nat) : Option Ctx :=
  (s.fetcher core slot).filter fun c => !(c.g.faultDue && !c.g.landed) && !s.stopsHere c.g && !s.timesOut c.g

/-- It waits on a miss for its own bundle, no flip of its page under way (R292). -/
def State.onMiss (s : State) (core slot : Nat) : Option Ctx :=
  (s.decoder core slot).filter fun c =>
    ((s.core core).icFind c.g.vf c.g.job c.g.pc.bundle).isNone && c.g.pc.bundle.extractLsb' 56 8 == (0 : BitVec 8) &&
      !(s.icRead core c.g c.g.pc.bundle).held

/-- The oldest of the active groups that wait on a miss. -/
def State.fetchNext (s : State) (core : Nat) : Option (Nat × Ctx) :=
  (((s.core core).active.toList.filterMap id).filterMap fun n => (s.onMiss core n).map fun c => (n, c)).foldl
    (fun b x => match b with
      | none => some x
      | some y => if x.2.g.start < y.2.g.start then some x else some y) none

/-- What a group with no wait does at its PC. Its mask words are awaited before anything else (R156, R237); of the groups that
wait on a miss the oldest is served. A PC to which TRET.skip resumed is resolved before anything is due there (R404, R409;
DEDUCED, assumption 66). -/
def State.atBundle (s : State) (core slot : Nat) (c : Ctx) : Act :=
  let g := c.g
  match c.maskWait with
  | .error t => .other (s.trap c t)
  | .ok () =>
    if g.pc.bundle.extractLsb' 56 8 ≠ (0 : BitVec 8) then .other (s.pastEnd c)
    else match (s.core core).icFind g.vf g.job g.pc.bundle with
    | none => match s.fetchNext core with
      | some (n, d) => .ev (.icacheFill core n d.g.pc.bundle)
      | none => .idle
    | some l =>
      let h := l.words.headD 0
      if (bundleFault l.words).isSome then (if (s.decoder core slot).isSome then .ev (.bundleRefetch core slot) else .idle)
      else if !g.entered then
        if hdrEntry h then .other (s.modGroup core slot fun g => { g with entered := true })
        else .other (s.fetchFault c fcLanding 1)
      else if g.atArrival then .other (s.arrive c (hdrRjt h))
      else if !(hdrSv h).getLsbD (g.pc.slot - 1) then
        match (if g.landed then some ⟨g.pc.bundle + 64, 1⟩ else g.pc.next (hdrSv h)) with
        | some pc => .other (s.modGroup core slot fun g => { g with pc := pc, completing := false, landed := false })
        | none => .other (s.pastEnd c)
      else if g.landed then .other (s.modGroup core slot fun g => { g with landed := false })
      else s.issueWord core slot c l

/-! ## Ready groups and the active set (R146, R149) -/

/-- A value that an instruction needs waits for a miss slot alone: a port stall, no long-latency dependence (R426). -/
def State.slotHeld (s : State) (c : Ctx) (i : Form) : Bool :=
  (c.heldBy i (s.enqdWords c i)).any fun id => c.g.pends.any fun q => q.id == id && !q.slot

/-- A group with no wait whose next instruction, in the instruction cache, needs a value still to arrive (R146, R149). -/
def State.nextHeld (s : State) (core slot : Nat) (g : Group) : Bool :=
  !g.loads.isEmpty && match s.wordNow core g, s.ctxOf core slot with
    | some w, some c => match decode w with
      | .ok i => s.opHeld c i.form && !s.slotHeld c i.form
      | .error _ => false
    | _, _ => false

/-- The producers of the values that the next instruction of a group waits for: the PCs of their loads (R157). -/
def State.producers (s : State) (core slot : Nat) (g : Group) : List DWord :=
  match s.wordNow core g, s.ctxOf core slot with
  | some w, some c => match decode w with
    | .ok i => (c.heldBy i.form (s.enqdWords c i.form)).filterMap fun id => (g.pends.find? fun p => p.id == id).map (·.pc)
    | .error _ => []
  | _, _ => []

/-- A group that could issue: it runs, and waits for nothing or for something that has come about (R146). -/
def State.groupReady (s : State) (core slot : Nat) (g : Group) : Bool :=
  g.gstate == .running && !g.dstop && !s.awaitsBaton core slot g &&
    (if g.resume = .none then !s.nextHeld core slot g else (s.finishWait core slot g).isSome)

def State.anyReady (s : State) (core : Nat) : Bool := (s.core core).groups.any fun p => s.groupReady core p.1 p.2

/-- Ready groups that hold no active slot. -/
def State.readyPending (s : State) (core : Nat) : List (Nat × Group) :=
  let k := s.core core
  k.groups.filter fun p => (k.activeOf p.1).isNone && s.groupReady core p.1 p.2

def Core.freeActive (k : Core) : Option Nat := (List.range 8).find? fun i => k.active[i]! == none
/-- An active slot stands in a swap. -/
def Core.swapping (k : Core) (clock act : Nat) : Bool := k.swaps.any fun w => w.1 == act && decide (clock < w.2.2)

/-- The group of an active slot is held by a long-latency dependence, the end of a leaving group's commands among them, or
asked to be swapped (R149, R346). -/
def State.swapCandidate (s : State) (core act : Nat) : Bool :=
  let k := s.core core
  if k.swapping s.clock act then false
  else match k.active[act]! with
    | none => false
    | some n => match s.group? core n with
      | none => false
      | some g => g.gstate != .halted && !g.dstop && (!s.groupReady core n g || g.swapHint)

/-- The scheduler's event that is due before a group that YIELD has made a candidate issues again: a ready pending group
takes a free slot, or that of the first candidate (R346, R494). -/
def State.yieldAct (s : State) (core : Nat) (g : Group) : Option Instr :=
  if !g.swapHint || (s.readyPending core).isEmpty then none
  else if (s.core core).freeActive.isSome then some (.freeSlotFill core)
  else ((List.range 8).find? (s.swapCandidate core)).map (.schedulerSwap core)

/-- What a resident group does at its turn. A queued engine fault goes before a stop, a stop before the end of a wait
(R404, R415). -/
def State.nextAct (s : State) (core slot : Nat) : Act :=
  match s.ctxOf core slot with
  | none => .idle
  | some c =>
    let g := c.g
    if !s.mayIssue core slot g || s.awaitsBaton core slot g then .idle
    else if g.rejoin then .other (s.modGroup core slot fun g => { g with rejoin := false })
    else if g.resume != .none then
      if (s.vf g.vf).pstate = .stopping then .ev (.groupPreemptStop core slot)
      else match s.finishWait core slot g with
        | some s => if g.wait.kind = 0x0F then .ev (.accessReplay core slot) else .other s
        | none => .idle
    else if g.faultDue && !g.landed then
      match c.maskWait with
      | .error t => .other (s.trap c t)
      | .ok () => .ev (.engineFaultDelivery core slot)
    else if s.stopsHere g then .ev (.groupPreemptStop core slot)
    else if s.timesOut g then .ev (.preemptTimeout core slot)
    else match s.yieldAct core g with
      | some i => .ev i
      | none => s.atBundle core slot c

/-! ## Shared ports (R147, R153) -/

/-- The pipe of the group's slot, or a bank that has yet to take a source's request, holds an instruction at issue (R19, R147,
R159). -/
def State.heldBack (s : State) (c : Ctx) (i : Form) : Bool :=
  decide (0 < s.bankWait c i) || onPipe i c.g.mask &&
    ((s.core c.core).activeOf c.slot).any fun a => decide (s.clock < (s.core c.core).pipeFree.toList.getD a 0)

/-- The port for which a group asks: its next instruction is there, has not issued yet (R478), and nothing else holds it. -/
def State.request (s : State) (core slot : Nat) : Option Nat :=
  match s.nextAct core slot, s.ctxOf core slot with
  | .run i _, some c =>
    if c.g.counted || s.opHeld c i.form || s.heldBack c i.form then none else portOf i.form c.g.mask
  | _, _ => none

/-- The requesters of a port: the groups of the active slots whose instruction asks for it (R153). -/
def State.requesters (s : State) (core port : Nat) : List Nat :=
  ((s.core core).active.toList.filterMap id).filter fun n => s.request core n == some port

/-- The rendezvous slot on which an instruction acts (R268). -/
def slotOf (i : Instr) : Option Nat :=
  match i with
  | .xsend f | .xrecv f => some (f.imm.toNat % 16)
  | _ => none

/-- A group can act on a rendezvous slot in this clock: it comes to such an instruction now, and nothing holds that (R156, R269,
R318). -/
def State.meetsNow (s : State) (core m n : Nat) : Bool :=
  match s.nextAct core m, s.ctxOf core m with
  | .run (.xsend f) _, some c => f.imm.toNat % 16 == n && !s.opHeld c (.v 0x0C7 f) && !s.heldBack c (.v 0x0C7 f) && c.quiet.isOk
  | .run (.xrecv f) _, some c => f.imm.toNat % 16 == n && !s.opHeld c (.v 0x0C8 f) && !s.heldBack c (.v 0x0C8 f)
  | _, _ => false

/-- A group has something else to do first that takes no clock: a wait that ends, a fetch, an arrival. -/
def State.getsReady (s : State) (core m : Nat) : Bool :=
  match s.nextAct core m with
  | .ev _ | .other _ => true
  | _ => false

/-- Of the active groups of a workgroup that could act on one rendezvous slot in this clock, or first have to do what takes no
clock, the lowest group slot goes first (R268). -/
def State.slotFirst (s : State) (core slot : Nat) (i : Instr) : Nat :=
  match slotOf i, s.group? core slot with
  | some n, some g =>
    (((s.core core).active.toList.filterMap id).filter fun m =>
      (s.group? core m).any (fun h => h.wg == g.wg) && (s.getsReady core m || s.meetsNow core m n)).foldl min slot
  | _, _ => slot

/-- The best of some group slots by a rank, lowest first. -/
def bestSlot (rank : Nat → Nat × Nat) (l : List Nat) : Option Nat :=
  l.foldl (fun b x => match b with
    | none => some x
    | some y =>
      let (a, c) := rank x
      let (p, q) := rank y
      if a < p ∨ (a = p ∧ c < q) then some x else some y) none

/-- The winner of one decision (R153). -/
def State.winner (s : State) (core port : Nat) (slots : List Nat) : Option Nat :=
  let g (n : Nat) : Option Group := s.group? core n
  let boosted := slots.filter fun n => match g n with
    | some g => decide (8 ≤ (g.loss.toList.getD port 0).toNat)
    | none => false
  if boosted.isEmpty then
    bestSlot (fun n => match g n with
      | some g => (g.progress.toNat, g.start)
      | none => (0, 0)) slots
  else
    bestSlot (fun n => match g n with
      | some g => (g.boost.toList.getD port 0, g.start)
      | none => (0, 0)) boosted

/-- Loss counts after a decision: the winner's becomes 0, the others' rise, and the eighth loss boosts (R153). A port decides
once in a clock (R147), and the winner's PC is what a sample names (R157). -/
def State.settlePort (s : State) (core port win : Nat) (slots : List Nat) : State :=
  let n := (s.core core).decisions + 1
  let won := (s.group? core win).map (·.pc)
  let s := s.modCore core fun k => { k with decisions := n, portFree := k.portFree.set! port (s.clock + 1) }
  slots.foldl (fun s x => match s.group? core x with
    | none => s
    | some g =>
      let old := g.loss.toList.getD port 0
      let new := if x = win then 0 else if old = 15 then 15 else old + 1
      let g := { g with loss := g.loss.set! port new,
                        boost := if new.toNat = 8 ∧ old.toNat = 7 then g.boost.set! port n else g.boost
                        lostTo := if x = win then none else won }
      s.setGroup core x g) s

/-- The clocks of an active group are lost at a shared port: its instruction asks for one, or an access of it waits for a miss
slot (R147, R426). -/
def State.portStalled (s : State) (core slot : Nat) : Bool :=
  (s.request core slot).isSome || (s.group? core slot).any fun g => g.pends.any (fun q => !q.slot) || s.beatWaits core g

/-- The clocks of some that pass in which a bank holds a group's instruction at issue (R159). -/
def Group.bankStall (g : Group) (clock clocks : Nat) : Nat :=
  match g.bankAt.filter fun p => p.1 == g.pc with
  | some p => min clocks (p.2 - clock)
  | none => 0

/-- What passing clocks count on a core (R413): ACTCLK of the functions with an active group, PARKCLK of parked groups,
PORTSTALL of active ones that have lost them at a shared port, and BANKSTALL of those that a bank holds (R159). -/
def State.countClocks (s : State) (core clocks : Nat) : State :=
  let k := s.core core
  let on (ev : Nat) : Bool := k.ctrs.any fun p => p.2.en && p.2.event == ev
  if clocks = 0 || !k.ctrs.any (fun p => p.2.en) then s
  else
    let acts := (k.active.toList.filterMap id).filterMap fun n => (s.group? core n).map fun g => (n, g)
    let t := ((acts.map fun p => p.2.vf).eraseDups).foldl (fun t vf => t.count core vf 3 clocks) s
    let t := k.groups.foldl (fun (t : State) p =>
      if p.2.gstate = .running ∧ p.2.resume ≠ .none then t.count core p.2.vf 0x0C clocks else t) t
    let t := if !on 0x0A then t else acts.foldl (fun (t : State) p =>
      if s.portStalled core p.1 then t.count core p.2.vf 0x0A clocks else t) t
    acts.foldl (fun (t : State) p => t.count core p.2.vf 0x0B (p.2.bankStall s.clock clocks)) t

/-- The sources of the instructions that stand at issue ask their banks, in order of the active slots (R159). -/
def State.settleBanks (s : State) (core : Nat) : State :=
  ((s.core core).active.toList.filterMap id).foldl (fun t n => match t.nextAct core n, t.ctxOf core n with
    | .run i _, some c => if c.g.counted || t.opHeld c i.form then t else t.askBanks c i.form
    | _, _ => t) s

end Sys2Proof.Machine
end

