-- ==== Sys2Proof/Machine/Gating.lean ====
section
/-! DEFINITION. The active set (R146, R149 to R151, R494) and power gating (R167 to R169). -/

namespace Sys2Proof.Machine

/-! ## The active set -/

/-- The best of them: the lowest progress count, among equal counts the oldest (R149). -/
def bestGroup (l : List (Nat × Group)) : Option (Nat × Group) :=
  l.foldl (fun b x => match b with
    | none => some x
    | some y =>
      if x.2.progress.toNat < y.2.progress.toNat ∨ (x.2.progress = y.2.progress ∧ x.2.start < y.2.start) then some x else some y) none

/-- A group enters an active slot. -/
def State.enterActive (s : State) (core act slot : Nat) : State :=
  (s.modCore core fun k => { k with active := k.active.set! act (some slot), left := k.left.set! act none }).modGroup core slot fun g =>
    { g with readySince := none }

/-- A swap (R149): the register cache of the group that leaves is written back, its request for a swap is over (R161, R346),
and the one that enters may issue 8 clocks later. -/
def State.swapIn (s : State) (core act slot : Nat) : State :=
  let s := match (s.core core).active.toList.getD act none with
    | none => s
    | some out => (s.writeBack core out).modGroup core out fun g => { g with swapHint := false }
  (s.modCore core fun k =>
    { k with swaps := (k.swaps.filter fun w => w.1 != act && decide (s.clock < w.2.2)) ++ [(act, slot, s.clock + 8)]
    }).enterActive core act slot

/-- FREE_SLOT_FILL (R494): the lowest free slot takes the best ready pending group, which may issue in the next clock. -/
def execFreeSlotFill (core : Nat) : State → Host.Outcome State Fault Refusal := coreEvent fun s =>
  if !(s.core core).clocked then s
  else match (s.core core).freeActive, bestGroup (s.readyPending core) with
  | some a, some (n, _) => (s.enterActive core a n).modGroup core n fun g => { g with busy := max g.busy (s.clock + 1) }
  | _, _ => s

/-- SCHEDULER_SWAP (R149, R494): after the free slots, the candidates in ascending order each take the best ready pending
group; a swap takes 8 clocks. -/
def execSchedulerSwap (core act : Nat) : State → Host.Outcome State Fault Refusal := coreEvent fun s =>
  let k := s.core core
  if !k.clocked || k.freeActive.isSome || (List.range 8).find? (s.swapCandidate core) != some act then s
  else match bestGroup (s.readyPending core) with
    | none => s
    | some (n, _) => s.swapIn core act n

/-- The active group that a forced swap displaces: the highest progress count outside any swap, among equal counts the
youngest (R150). -/
def State.victim (s : State) (core : Nat) : Option (Nat × Nat) :=
  let k := s.core core
  ((List.range 8).filterMap fun a => match k.active[a]! with
    | none => none
    | some n => if k.swapping s.clock a then none else (s.group? core n).map fun g => (a, n, g)).foldl
    (fun (b : Option (Nat × Nat × Group)) x => match b with
      | none => some x
      | some y =>
        if y.2.2.progress.toNat < x.2.2.progress.toNat ∨ (x.2.2.progress = y.2.2.progress ∧ y.2.2.start < x.2.2.start)
        then some x else some y) none |>.map fun x => (x.1, x.2.1)

/-- A request withdrawn by a swap loses its count (R153). -/
def State.withdraw (s : State) (core slot : Nat) : State :=
  match s.request core slot with
  | none => s
  | some p => s.modGroup core slot fun g => { g with loss := g.loss.set! p 0 }

/-- FORCED_SWAP (R150): the oldest group that has been ready for 2048 clocks; at most one in a clock, after the fills and
swaps of that clock. -/
def execForcedSwap (core : Nat) : State → Host.Outcome State Fault Refusal := coreEvent fun s =>
  let k := s.core core
  let due := (s.readyPending core).filter fun p => match p.2.readySince with
    | some t => decide (t + 2048 ≤ s.clock)
    | none => false
  let oldest := due.foldl (fun (b : Option (Nat × Group)) x => match b with
    | none => some x
    | some y => if x.2.start < y.2.start then some x else some y) none
  if !k.clocked || k.freeActive.isSome || (List.range 8).any (s.swapCandidate core) || k.forcedAt == some s.clock then s
  else match oldest, s.victim core with
    | some (n, _), some (a, v) =>
      ((s.withdraw core v).swapIn core a n).modCore core fun k => { k with forcedAt := some s.clock }
    | _, _ => s

/-! ## Power gating -/

/-- The scheduler registers of a core (R167). -/
def gateOfs (core o : Nat) : Nat := 0x580000 + 0x1000 * (core / 16) + 0x40 * (core % 16) + o
def State.gidle (s : State) (core : Nat) : Nat := fld (s.pr (gateOfs core 0)) 0 16

/-- A core is idle (R167). -/
def State.coreIdle (s : State) (core : Nat) : Bool :=
  let k := s.core core
  !s.anyReady core && k.dealq.isEmpty && k.copies.isEmpty && k.eng.queue.isEmpty &&
    k.groups.all fun p => p.2.sq.isEmpty && p.2.pends.isEmpty

/-- The entry clock (R167, R168): GIDLE idle clocks are over, and the hold-off after the last abort. -/
def State.entryClock (s : State) (core : Nat) : Option Nat :=
  let g := (s.core core).gate
  if s.gidle core = 0 ∨ g.gated then none
  else g.idleSince.map fun t => max (t + s.gidle core) g.heldTill

/-- The entry clock has come, and no hold-off is under way. -/
def State.entryDue (s : State) (core : Nat) : Bool :=
  (s.core core).gate.holdoff.isNone && (s.entryClock core).any fun t => decide (t ≤ s.clock)

/-- An entry is aborted: counted, and held off for 4096 clocks (R168). -/
def Gating.abort (g : Gating) (clock : Nat) : Gating :=
  { g with idleSince := none, holdoff := some (clock + 4096), heldTill := clock + 4096, aborts := g.aborts + 1 }

/-- Idleness ends in a clock: in the entry clock this aborts the entry, one that has been made in this clock too. -/
def Gating.rouse (g : Gating) (entry : Option Nat) (clock : Nat) : Gating :=
  if g.gated ∧ g.entryAt = clock then Gating.abort { g with gated := false, entries := g.entries - 1 } clock
  else if entry = some clock then g.abort clock
  else { g with idleSince := none }

/-- A wake reaches a core (R168, R169): it aborts an entry in its clock, ends idleness, or starts a gated core's exit. -/
def State.wakeCore (s : State) (core : Nat) : State :=
  let entry := s.entryClock core
  s.modCore core fun k =>
    if k.gate.gated ∧ k.gate.entryAt ≠ s.clock then
      (if k.gate.exitDone.isSome then k else { k with gate := { k.gate with exitDone := some (s.clock + 1100) } })
    else { k with gate := k.gate.rouse entry s.clock }

/-- The cores of a partition. -/
def State.wakePart (s : State) (part : Nat) : State :=
  (List.range 64).foldl (fun s c => if s.corePart c = part then s.wakeCore c else s) s

/-- GATING_ENTRY (R167): at the entry clock an idle core is gated; one that a wake has reached in this clock is not. -/
def execGatingEntry (core : Nat) : State → Host.Outcome State Fault Refusal := coreEvent fun s =>
  if !s.entryDue core then s
  else if s.coreIdle core then
    s.modCore core fun k =>
      { k with gate := { k.gate with gated := true, entryAt := s.clock, entries := k.gate.entries + 1 } }
  else s.modCore core fun k => { k with gate := k.gate.rouse (s.entryClock core) s.clock }

/-- GATING_HOLDOFF_EXPIRE (R168): 4096 clocks after an abort. -/
def execGatingHoldoffExpire (core : Nat) : State → Host.Outcome State Fault Refusal := coreEvent fun s =>
  match (s.core core).gate.holdoff with
  | none => s
  | some t => if t ≤ s.clock then s.modCore core fun k => { k with gate := { k.gate with holdoff := none } } else s

/-- GATING_EXIT_DONE (R169): the core's logic runs again, and its groups see what has happened meanwhile; the first may issue
in the next clock. -/
def execGatingExitDone (core : Nat) : State → Host.Outcome State Fault Refusal := coreEvent fun s =>
  match (s.core core).gate.exitDone with
  | none => s
  | some t =>
    if t ≤ s.clock then
      s.modCore core fun k =>
        { k with gate := { k.gate with gated := false, exitDone := none, idleSince := none }
                 groups := k.groups.map fun p => (p.1, { p.2 with busy := max p.2.busy (s.clock + 1) }) }
    else s

/-- What the passing of time finds in a core: how long it has been idle and its pending groups ready; a wait that has
ended wakes a gated core, or aborts an entry due in this clock (R150, R167, R168). -/
def State.settleCore (s : State) (core : Nat) : State :=
  let k := s.core core
  if k.gate.gated then (if s.anyReady core then s.wakeCore core else s)
  else
    let idle := s.coreIdle core
    let gate := if idle then { k.gate with idleSince := some (k.gate.idleSince.getD s.clock) }
      else k.gate.rouse (s.entryClock core) s.clock
    let groups := k.groups.map fun p =>
      (p.1, { p.2 with readySince :=
        if (k.activeOf p.1).isNone ∧ s.groupReady core p.1 p.2 then some (p.2.readySince.getD s.clock) else none })
    s.setCore core { k with gate := gate, groups := groups }

end Sys2Proof.Machine
end

