-- ==== Sys2Proof/Machine/Spill.lean ====
section
/-! DEFINITION. What a halted group's rows hold, and moving them to its save area and back (R158, R417, R418, R420). -/

namespace Sys2Proof.Machine

/-! ## Slot rows (R158): slot row i of an allotment holds word L of lane L at byte 384 i + 4 L -/

def LaneAct.slot (D : Nat) (a : LaneAct) (k : Nat) : Val := if k < D then nget (.word 0) a.coil k else a.fr (k - D)
def LaneAct.setSlot (D : Nat) (a : LaneAct) (k : Nat) (v : Val) : LaneAct :=
  if k < D then { a with coil := nset (.word 0) a.coil k v } else a.setFr (k - D) v

/-- The allotment row of a lane's word of a slot row, and its offset there. -/
def slotRow (i lane : Nat) : Nat := (384 * i + 4 * lane) / 4096
def slotOfs (i lane : Nat) : Nat := (384 * i + 4 * lane) % 4096

/-- Change every activation: its base, slots, whether it is the current one, the lane, its slots. -/
def Group.mapActs (g : Group) (f : Nat → Nat → Bool → Nat → LaneAct → LaneAct) : Group :=
  let D := g.coilD
  { g with
    lanes := g.lanes.mapFinIdx fun i l _ => { l with act := f g.base (D + g.frameSize) true i l.act }
    rets := g.rets.map fun r => match r with
      | .call ret eb b fs n cm ms sb acts => .call ret eb b fs n cm ms sb (acts.mapFinIdx fun i a _ => f b (D + fs) false i a)
      | .handler eb b fs d ms m ps acts c => .handler eb b fs d ms m ps (acts.mapFinIdx fun i a _ => f b (D + fs) false i a) c }

/-- A slot of a lane's current activation is live under the record (R53, R54). -/
def Group.slotLiveIn (g : Group) (a : LaneAct) (k : Nat) : Bool :=
  let D := g.coilD
  if g.live.whole then true
  else if k < D then (List.range D).any fun n => bit g.live.ages n && a.index D (n + 1) == k
  else decide (g.live.fbase ≤ k - D) && decide (k - D < g.live.fbase + g.live.fcount)

/-- A slot of the current activation is live in some lane (R417). -/
def Group.slotLive (g : Group) (k : Nat) : Bool := g.lanes.any fun l => g.slotLiveIn l.act k

/-- Live slot rows of the group: the current activation's live slots, every slot of outer ones. -/
def Group.liveSlots (g : Group) : List Nat :=
  let D := g.coilD
  let cur := ((List.range (D + g.frameSize)).filter g.slotLive).map (g.base + ·)
  let outer := g.rets.flatMap fun r => match r with
    | .call _ _ b fs .. => (List.range (D + fs)).map (b + ·)
    | .handler _ b fs .. => (List.range (D + fs)).map (b + ·)
  outer ++ cur

/-- The value of a slot row in a lane. -/
def Group.slotVal (g : Group) (i lane : Nat) : Val :=
  let D := g.coilD
  if g.base ≤ i then (if h : lane < 96 then g.lanes[lane].act.slot D (i - g.base) else .word 0)
  else (g.rets.findSome? fun r => match r with
    | .call _ _ b fs _ _ _ _ acts | .handler _ b fs _ _ _ _ acts _ =>
      if b ≤ i ∧ i < b + D + fs then (if h : lane < 96 then some (acts[lane].slot D (i - b)) else none) else none).getD (.word 0)

/-- A row (0 and 1 control rows, then the allotment's) holds live bytes (R417). -/
def Group.rowLive (g : Group) (r : Nat) : Bool :=
  r < 2 || g.liveSlots.any fun i => decide (384 * i < 4096 * (r - 1)) && decide (4096 * (r - 2) < 384 * i + 384)

/-! ## The save area (R57, R418) -/

def State.saveBase (s : State) (job gid : Nat) : Nat := match s.job? job with
  | some j => lrSave j.lrec + gid * lrStride j.lrec * 4096
  | none => 0
def State.jobAllot (s : State) (job : Nat) : Nat := match s.job? job with
  | some j => lrAllot j.lrec
  | none => 0

/-- A page of a group's save area, through its function's translation: its place, and whether L2 caches it; a fault, a failure, or a
flip of the page that has to end first (R292). -/
inductive SavePage where
  | at_ (pa : Nat) (l2 : Bool) (s : State)
  | miss (stage2 : Bool) (addr level : Nat)
  | bad
  | wait
deriving Repr

/-- The page at an address of a save area: each of its lines passes the checks (R131, R418), and where it is read the bytes
that `reads` names hold no poison. -/
def State.savePage (s : State) (core vf part va : Nat) (write : Bool) (reads : List (Nat × Nat)) : SavePage :=
  let r : Req := { core := core, vf := vf, part := part, wg := 64, fsize := 0 }
  let line (i : Nat) : Chk :=
    s.check r { spads := false, dscr := false, size := 128, write := write } (BitVec.ofNat 64 (va + 128 * i))
  match ((List.range 32).map line).find? (fun c => c.rank < 100) with
  | some (.miss st a l) => .miss st a l
  | some _ => .bad
  | none => match line 0 with
    | .ok (.phys pa) ty =>
      if s.flipHeld pa then .wait
      else if reads.any fun p => s.poisoned (.phys (pa + p.1)) p.2 then .bad
      else .at_ pa (s.l2Caches pa ty) ((s.settleFlip pa).touch core vf (va % 2 ^ 57) write 0)
    | _ => .bad

/-- Write bytes of a save-area page. -/
def State.savePut (s : State) (core vf part pa : Nat) (l2 : Bool) (b : List Byte) : State :=
  s.store core part vf (.phys pa) b 0 l2

/-! ## Control rows (R57, R163, R195) -/

/-- The number of the reconvergence entry that owns the pending entry above some entries, top first. -/
def ownerOf (depth : Nat) : List Entry → Nat
  | [] => 0
  | .rcv _ d .. :: r => if d = depth then r.length else ownerOf depth r
  | .pnd .. :: r => ownerOf depth r

/-- A stack entry in the layout of R195; `below` are the entries under it. -/
def Entry.bytes (below : List Entry) : Entry → List Byte
  | .rcv b d m a y sd mk =>
    let side := sd.foldl (fun n p => n + p.2 % 4 * 2 ^ (416 + 2 * p.1)) 0
    let mark := mk.foldl (fun n p => n + p.2.toNat * 2 ^ (608 + 32 * p.1)) 0
    leBytes 512 (1 + d * 4 + b.toNat * 2 ^ 64 + m.toNat * 2 ^ 128 + a.toNat * 2 ^ 224 + y.toNat * 2 ^ 320 + side + mark)
  | .pnd pc d m k =>
    leBytes 512 (2 + d * 4 + ownerOf d below * 2 ^ 8 + pc.slot * 2 ^ 13 + pc.bundle.toNat * 2 ^ 64 + m.toNat * 2 ^ 128 +
      k.toNat * 2 ^ 224)

/-- Every stack entry with its number, and its layout. -/
def entryBytes : List Entry → List (Nat × List Byte)
  | [] => []
  | e :: r => (r.length, e.bytes r) :: entryBytes r

/-- The wait record in the layout of R163. -/
def WaitRec.bytes (w : WaitRec) : List Byte :=
  leBytes 8 (w.kind + w.sub * 2 ^ 8) ++ leBytes 8 w.obj.toNat ++ leBytes 8 w.val.toNat

/-- A lane's byte of each of a group's lanes. -/
def Group.laneBytes (g : Group) (f : Lane → Nat) : List Byte := g.lanes.toList.map fun l => BitVec.ofNat 8 (f l)

def PC.bytes (p : PC) : List Byte := leBytes 8 p.word.toNat
def LaneMask.bytes (m : LaneMask) : List Byte := leBytes 12 m.toNat

/-- The bytes of a record of a fault, of a return, of a timeline, for `Group.restBytes`. -/
def FaultRec.bytes (r : FaultRec) : List Byte := wordBytes r.words ++ wordBytes [r.entryB]
def RetRec.bytes : RetRec → List Byte
  | .call ret eb b fs n cm ms sb _ => ret.bytes ++ leBytes 8 eb.toNat ++ leBytes 4 b ++ leBytes 4 fs ++ leBytes 4 n ++
      LaneMask.bytes cm ++ LaneMask.bytes ms ++ leBytes 4 sb
  | .handler eb b fs d ms m ps _ cp => leBytes 8 eb.toNat ++ leBytes 4 b ++ leBytes 4 fs ++ leBytes 4 d ++ LaneMask.bytes ms ++
      LaneMask.bytes m ++ (ps.toList.flatMap fun p => leBytes 1 p.toNat) ++ leBytes 1 (if cp then 1 else 0)
def Timeline.bytes (t : Timeline) : List Byte := leBytes 8 t.c ++ leBytes 8 t.k ++ leBytes 8 t.openCount

/-- What a group's control rows hold that R421 names without a layout, and stack entries past those that fit: PC and path, the
activation, return records, control registers, timeline counts, progress and loss counts (R57, R402, R406, R421). -/
def Group.restBytes (g : Group) (deep : List (List Byte)) : List Byte :=
  let n8 (x : Nat) : List Byte := leBytes 8 x
  let r := g.csr
  g.pc.bytes ++ LaneMask.bytes g.members ++ n8 g.entryB.toNat ++ n8 g.base ++ n8 g.frameSize ++ n8 g.depth ++
    (g.lanes.toList.flatMap fun l => leBytes 4 l.act.P.toNat ++ leBytes 4 l.act.F.toNat) ++
    r.fault.bytes ++ n8 r.hrpc.toNat ++ n8 r.hvec.toNat ++ leBytes 1 r.hmask.toNat ++ leBytes 1 r.engflags.toNat ++
    leBytes 1 r.engrep.toNat ++ leBytes 1 (if r.inHandler then 1 else 0) ++ n8 r.mark ++ n8 r.hdepth ++ n8 r.epend.length ++
    r.epend.flatMap FaultRec.bytes ++ n8 r.elost.toNat ++ leBytes 1 r.trapen.toNat ++ g.t0.bytes ++ g.t1.bytes ++
    leBytes 2 g.progress.toNat ++ (g.loss.toList.flatMap fun x => leBytes 1 x.toNat) ++
    n8 g.rets.length ++ g.rets.flatMap RetRec.bytes ++ deep.flatten

/-- The bytes of the two control rows: 14 entries of the stack in the layout of R195, a free one zero, then 1 KiB with s0 to s63,
predicates, flags and reported bits, the wait record of R163, and what has no layout of its own; they begin at a place that is
open (assumption 22). -/
def Group.controlRows (g : Group) : List Byte :=
  let es := entryBytes g.stack
  let entry (i : Nat) : List Byte := ((es.find? fun e => e.1 == i).map (·.2)).getD (List.replicate 512 0)
  let known := (g.s.toList.flatMap fun x => leBytes 8 x.toNat) ++ g.laneBytes (fun l => 2 * l.preds.toNat) ++
    g.laneBytes (fun l => l.flags.toNat) ++ g.laneBytes (fun l => l.rep.toNat) ++ g.wait.bytes
  let rest := g.restBytes ((es.filter fun e => decide (14 ≤ e.1)).map (·.2))
  let rows := (List.range 14).flatMap entry ++ known ++ (List.range (1024 - known.length)).map (Config.controlByte rest)
  let n := 8 * (Config.controlPlace % 1024)
  rows.drop n ++ rows.take n

/-! ## Writing a row -/

/-- Write the live bytes of a row at a physical page; `all` writes every byte (R450), of which a value still to arrive is
free. -/
def State.writeRow (s : State) (core : Nat) (g : Group) (r pa : Nat) (l2 all : Bool) : State :=
  if r < 2 then s.savePut core g.vf g.part pa l2 ((g.controlRows.drop (4096 * r)).take 4096)
  else
    let live := g.liveSlots
    (List.range 1024).foldl (fun (s : State) w =>
      let o := 4096 * (r - 2) + 4 * w
      let i := o / 384
      if all || live.contains i then
        match g.slotVal i (o % 384 / 4) with
        | .word v => s.savePut core g.vf g.part (pa + 4 * w) l2 (leBytes 4 v.toNat)
        | .pend .. =>
          let (v, s) := s.free
          s.savePut core g.vf g.part (pa + 4 * w) l2 (leBytes 4 v)
        | .poison _ =>
          let s := s.savePut core g.vf g.part (pa + 4 * w) l2 [0, 0, 0, 0]
          { s with poison := s.poison ++ (List.range 4).map fun b => pa + 4 * w + b }
      else s) s

/-- The live bytes of a row, as offset and length (R417). -/
def Group.liveBytes (g : Group) (r : Nat) : List (Nat × Nat) :=
  if r < 2 then [(0, 4096)]
  else
    let live := g.liveSlots
    ((List.range 1024).filter fun w => live.contains ((4096 * (r - 2) + 4 * w) / 384)).map fun w => (4 * w, 4)

/-- A live word of a row holds poisoned data. -/
def Group.rowPoison (g : Group) (r : Nat) : Bool :=
  decide (2 ≤ r) && (g.liveBytes r).any fun p =>
    let o := 4096 * (r - 2) + p.1
    match g.slotVal (o / 384) (o % 384 / 4) with
    | .poison _ => true
    | _ => false

/-- The words of a claimed row read zero from now on. -/
def Group.dropRow (g : Group) (r : Nat) : Group :=
  if r < 2 then g
  else g.mapActs fun b n _ lane a => (List.range n).foldl (fun a k =>
    if slotRow (b + k) lane = r - 2 then a.setSlot g.coilD k (.word 0) else a) a

/-- The live words of rows read back from their pages (row, physical page). -/
def Group.fillRows (g : Group) (m : Mem) (rows : List (Nat × Nat)) : Group :=
  g.mapActs fun b n cur lane a => (List.range n).foldl (fun a k =>
    if cur && !g.slotLive k then a
    else match rows.find? fun p => p.1 == slotRow (b + k) lane + 2 with
      | none => a
      | some p => a.setSlot g.coilD k (.word (wordOfNat (leNat (m.bytes (p.2 + slotOfs (b + k) lane) 4))))) a

/-- Values that the record marks dead in a lane read zero there after resumption (R55, R420). -/
def Group.dropDead (g : Group) : Group :=
  g.mapActs fun _ n cur _ a => if !cur then a
    else (List.range n).foldl (fun b k => if g.slotLiveIn a k then b else b.setSlot g.coilD k (.word 0)) a

/-! ## Claims (R417) -/

/-- Halted groups of a core whose rows may be claimed, the earliest halted first. -/
def insertHalt (x : Nat × Group) : List (Nat × Group) → List (Nat × Group)
  | [] => [x]
  | y :: r => if x.2.haltSeq ≤ y.2.haltSeq then x :: y :: r else y :: insertHalt x r

def Core.claimable (k : Core) (ok : Nat → Group → Bool) : List (Nat × Group) :=
  (k.groups.filter fun p => p.2.gstate == .halted && ok p.1 p.2).foldr insertHalt []

/-- Unclaimed register rows in the order of R417: rows without live content first, then live rows. -/
def Core.claimOrder (k : Core) (gs : List (Nat × Group)) : List (Nat × Nat) :=
  let rows (live : Bool) : List (Nat × Nat) := gs.flatMap fun p =>
    ((List.range (k.rowsOf p.2)).filter fun r => !p.2.claimed.contains r && p.2.rowLive r == live).map fun r => (p.1, r)
  rows false ++ rows true

/-- The record of a failed spill or read-back (R418, R420), once for a group. -/
def State.saveFault (s : State) (core slot : Nat) : State :=
  match s.ctxOf core slot with
  | none => s
  | some c => if c.g.gstate = .retiring then s else State.terminate { s with fresh := s.fresh + 1 } core slot
      (c.record s fcProt 7 (Config.faultDetail s.fresh) c.g.mask)

/-- Claim one register row: its live bytes are written to the save area first; a failure terminates its owner. -/
def State.claimRow (s : State) (core slot r : Nat) : State :=
  match s.group? core slot with
  | none => s
  | some g =>
    if g.gstate ≠ .halted ∨ g.claimed.contains r then s
    else
      let take (s : State) : State := s.modGroup core slot fun g => { g.dropRow r with claimed := g.claimed ++ [r] }
      if !g.rowLive r then take s
      else if g.rowPoison r then s.saveFault core slot
      else
        let va := s.saveBase g.job g.gid + 4096 * r
        match s.savePage core g.vf g.part va true [] with
        | .at_ pa l2 s => take (s.writeRow core g r pa l2 false)
        | .miss .. | .bad => s.saveFault core slot
        | .wait => s

/-- The page of a group's live row is being flipped (R292). -/
def State.rowHeld (s : State) (core : Nat) (g : Group) (r : Nat) : Bool :=
  match s.savePage core g.vf g.part (s.saveBase g.job g.gid + 4096 * r) true [] with
  | .wait => true
  | _ => false

/-- Scratchpad rows of halted workgroups, the earliest halted first. -/
def Core.claimSpads (k : Core) (gs : List (Nat × Group)) : List (Nat × Nat) :=
  ((gs.map fun p => p.2.wg).eraseDups.filter k.wgHalted).flatMap fun n => match nfind k.wgs n with
    | none => []
    | some w => ((List.range w.spadRows).filter fun r => !w.spilled.contains r).map fun r => (n, r)

/-- A copy or a drain has still to land in a scratchpad row. -/
def Core.landing (k : Core) (p : Nat × Nat) : Bool :=
  match nfind k.wgs p.1 with
  | some w => w.absent.any fun a => a.1 / 32 == p.2
  | none => false

/-- The save-area address of a scratchpad row: in the area of the workgroup's first group (R418). -/
def State.spadSave (s : State) (w : Workgroup) (r : Nat) : Nat :=
  s.saveBase w.job (w.wgid * w.gpw) + 4096 * (2 + s.jobAllot w.job + r)

/-- Claim one scratchpad row; a failure terminates every group of the workgroup. -/
def State.claimSpadRow (s : State) (core n r : Nat) : State :=
  match s.wg? core n with
  | none => s
  | some w =>
    if !(s.core core).wgHalted n || w.spilled.contains r then s
    else
      let va := s.spadSave w r
      let fail (s : State) : State := (s.core core).groups.foldl (fun s p => if p.2.wg = n then s.saveFault core p.1 else s) s
      if s.poisoned (.spad core n (4096 * r)) 4096 then fail s
      else match s.savePage core w.vf w.part va true [] with
      | .at_ pa l2 s =>
        let s := s.savePut core w.vf w.part pa l2 (w.spad.bytes (4096 * r) 4096)
        s.setWg core n { w with spad := w.spad.put (4096 * r) (List.replicate 4096 0), spilled := w.spilled ++ [r] }
      | .miss .. | .bad => fail s
      | .wait => s

/-- The page of a workgroup's scratchpad row is being flipped. -/
def State.spadHeld (s : State) (core : Nat) (w : Workgroup) (r : Nat) : Bool :=
  match s.savePage core w.vf w.part (s.spadSave w r) true [] with
  | .wait => true
  | _ => false

/-! ## Reading back (R420) -/

/-- Pages of the claimed rows that were written out, read for their return; the first that cannot be read, with its
address. -/
def State.rowPages (s : State) (core : Nat) (g : Group) : List Nat → Except (Nat × SavePage) (List (Nat × Nat) × State)
  | [] => .ok ([], s)
  | r :: rs =>
    let va := s.saveBase g.job g.gid + 4096 * r
    match s.savePage core g.vf g.part va false (g.liveBytes r) with
    | .at_ pa _ s => (s.rowPages core g rs).map fun x => ((r, pa) :: x.1, x.2)
    | e => .error (va, e)

end Sys2Proof.Machine
end

