-- ==== Sys2Proof/Machine/Preempt.lean ====
section
/-! DEFINITION. Pre-emption (R414 to R421) and time slices (R424, R425): stopping, claiming rows, spilling tiles,
resuming, and virtual time across a stop (R429). -/

namespace Sys2Proof.Machine

/-! ## Stopping and resuming a function (R414, R420, R425) -/

def State.hasHalted (s : State) (vf : Nat) : Bool := (s.groupsOf vf).any fun p => p.2.2.gstate == .halted
/-- A function has a held card: one that has entered, whether or not the dealer has copied it yet (R99, R100). -/
def State.hasCard (s : State) (vf : Nat) : Bool :=
  (s.jobs.any fun p => p.2.vf == vf) || !(s.vf vf).conts.isEmpty || (s.vf vf).jqs.any (fun q => !q.2.ring.isEmpty) ||
    (s.vf vf).late.any fun x => match x with
      | .card .. => true
      | _ => false

/-- The function's time runs on from its floor after RESUME (R429). -/
def State.resumeTime (s : State) (vf : Nat) : State :=
  if vf = pfn || bit (s.pr (vtOfs vf 0)) 40 then s
  else
    let scale := fld (s.pr (vtOfs vf 0)) 0 40
    s.setPr (vtOfs vf 8) (s.pr (vtOfs vf 0x10) - BitVec.ofNat 64 (s.ref * scale / 2 ^ 32))

/-- The function begins to run: where it has its partition's turn, its quantum is counted from now (R425). -/
def State.beginTurn (s : State) (vf : Nat) : State :=
  match s.bound vf with
  | none => s
  | some p => if s.turnVf p (s.part p).cur = some vf then s.setPart p { s.part p with turnStart := s.ref } else s

/-- Once every group of a resuming function has resumed, it runs (R420). -/
def State.settleResume (s : State) (vf : Nat) : State :=
  if (s.vf vf).pstate = .resuming ∧ !s.hasHalted vf then
    (s.modVf vf fun v => { v with pstate := .running, bySlicer := false }).beginTurn vf
  else s

/-- A write of RESUME (R414, R420, R429). -/
def State.resumeVf (s : State) (vf : Nat) : State :=
  if (s.vf vf).pstate ≠ .halted then s
  else ((s.resumeTime vf).modVf vf fun v => { v with pstate := .resuming }).settleResume vf

/-- A turn qualifies for the next slice: its function is bound, not stopped by the physical function, and has a held
card or a halted group (R425). -/
def State.turnReady (s : State) (p i : Nat) : Bool :=
  match s.turnVf p i with
  | none => false
  | some v => ((s.vf v).pstate == .running || (s.vf v).bySlicer) && (s.hasCard v || s.hasHalted v)

/-- The next turn in rotation that qualifies. -/
def State.nextTurnOf (s : State) (p : Nat) : Option Nat :=
  let n := fld (s.pr (sliceOfs p 0x10)) 0 4
  ((List.range n).map fun i => ((s.part p).cur + 1 + i) % n).find? fun i => i != (s.part p).cur && s.turnReady p i

/-- Steps 2 and 3 of a world switch (R425); the turn itself runs on where by then no other one qualifies, unless the physical
function has stopped it. -/
def State.switchTurn (s : State) (p : Nat) : State :=
  match s.nextTurnOf p with
  | none =>
    let s := s.setPart p { s.part p with turnStart := s.ref, switching := false }
    match s.turnVf p (s.part p).cur with
    | some v => if (s.vf v).bySlicer then s.resumeVf v else s
    | none => s
  | some i =>
    let k := s.part p
    let s := s.setPart p { k with cur := i, switches := k.switches + 1, turnStart := s.ref, switching := false }
    match s.turnVf p i with
    | some v => s.resumeVf v
    | none => s

/-- A stopping function whose every resident group has halted is halted: its time floor is saved, the pre-emption
interrupt fires, and a world switch under way goes on (R414, R425, R429). A debug-stopped group counts as halted (R447). -/
def State.settleHalt (s : State) (vf : Nat) : State :=
  if (s.vf vf).pstate ≠ .stopping ∨ (s.groupsOf vf).any fun p => p.2.2.gstate != .halted && !p.2.2.dstop then s
  else
    let s := (s.groupsOf vf).foldl (fun s p => if p.2.2.gstate = .halted then s else s.haltGroup p.1 p.2.1 {}) s
    let s := if vf = pfn then s else s.setPr (vtOfs vf 0x10) (s.vtime vf)
    let s := (s.modVf vf fun v => { v with pstate := .halted }).raise pfn Config.preemptVector
    match s.bound vf with
    | none => s
    | some p => if (s.part p).switching ∧ s.turnVf p (s.part p).cur = some vf then s.switchTurn p else s

/-- The function's stop begins (R414); a stop by the physical function in the clock of a quantum's end is that one stop, and the
physical function's (R425). -/
def State.stopVf (s : State) (vf : Nat) (bySlicer : Bool) : State :=
  if (s.vf vf).pstate ≠ .running then
    s.modVf vf fun v => if !bySlicer && v.reqAt == s.clock && (v.pstate == .stopping || v.pstate == .halted) then { v with bySlicer := false } else v
  else
    let s := s.modVf vf fun v => { v with pstate := .stopping, reqAt := s.clock, bySlicer := bySlicer }
    let s := match s.bound vf with
      | some p => s.wakePart p
      | none => s
    s.settleHalt vf

/-- PREEMPT_REQ (R414). -/
def execPreemptReq (vf : Nat) : State → Host.Outcome State Fault Refusal := hostEvent fun s => s.stopVf vf false

/-- PREEMPT_RESUME (R420). -/
def execPreemptResume (vf : Nat) : State → Host.Outcome State Fault Refusal := hostEvent fun s => s.resumeVf vf

/-- The live set of a listed bundle (R53, R54). -/
def liveOf (e : DWord × DWord) : LiveSet :=
  { ages := e.1, fbase := ptBase e, fcount := ptCount e, whole := bit e.2 52 }

/-- GROUP_PREEMPT_STOP (R415): a parked group stops where it is, another before slot 1 of a listed bundle, once no engine fault is due
there first. -/
def execGroupPreemptStop (core slot : Nat) : State → Host.Outcome State Fault Refusal := coreEvent fun s =>
  match s.group? core slot with
  | none => s
  | some g =>
    if g.gstate ≠ .running ∨ (s.vf g.vf).pstate ≠ .stopping ∨ !(s.core core).clocked then s
    else if g.dstop || g.resume != .none then (s.haltGroup core slot {}).settleHalt g.vf
    else if s.stopsHere g && !g.faultDue then
      (s.haltGroup core slot (((s.ptabEntry g g.pc.bundle).map liveOf).getD {})).settleHalt g.vf
    else s

/-- PREEMPT_TIMEOUT (R415): 2^20 clocks after REQ a group stops at the next bundle it begins, with whole state. -/
def execPreemptTimeout (core slot : Nat) : State → Host.Outcome State Fault Refusal := coreEvent fun s =>
  match s.group? core slot with
  | none => s
  | some g =>
    if g.gstate ≠ .running ∨ g.dstop ∨ g.resume ≠ .none ∨ g.faultDue ∨ !s.timesOut g ∨ !(s.core core).clocked then s
    else
      let s := s.modVf g.vf fun v => { v with touts := v.touts + 1 }
      (s.haltGroup core slot {}).settleHalt g.vf

/-! ## Claims of rows (R417, R420) -/

/-- Rows a halted group of a resuming function must get back: register rows, scratchpad rows. -/
def Core.needsBack (k : Core) (g : Group) : Nat × Nat :=
  (g.claimed.length, match nfind k.wgs g.wg with
    | some w => w.spilled.length
    | none => 0)

/-- The halted groups of a core that are being resumed. -/
def State.resumingOn (s : State) (core : Nat) : List (Nat × Group) :=
  (s.core core).groups.filter fun p => p.2.gstate == .halted && (s.vf p.2.vf).pstate == .resuming

/-- A placement that lacks rows: the halted groups whose rows it may claim, the workgroup whose scratchpad it may not, and the
register and scratchpad rows missing. -/
structure RowWant where
  may : Nat → Group → Bool
  own : Option Nat
  regs : Nat
  spads : Nat

/-- What is to be placed on a core next and lacks rows: a resuming group, which claims from other halted groups (R420), else
the workgroup of its first dealt chunk, which claims from those of other functions (R417). -/
def State.rowsWanted (s : State) (core : Nat) : Option RowWant :=
  let k := s.core core
  match s.resumingOn core with
  | (n, g) :: _ =>
    let (_, fr, fp) := k.freeIn k.split
    let (nr, np) := k.needsBack g
    some { may := fun m _ => m != n, own := some g.wg, regs := nr - fr, spads := np - fp }
  | [] => match k.dealq with
    | [] => none
    | ch :: _ => match s.job? ch.job with
      | none => none
      | some j =>
        if !s.dealt j.vf || !s.fitsNow j j.lrec true core then none
        else
          let (_, fr, fp) := k.freeIn k.split
          some { may := fun _ g => g.vf != j.vf, own := none, regs := lrGpw j.lrec * lrRows j.lrec - fr,
                 spads := lrSpad j.lrec - fp }

/-- The rows that a placement claims: register rows as (group slot, row), scratchpad rows as (workgroup, row). -/
def Core.claims (k : Core) (w : RowWant) : List (Nat × Nat) × List (Nat × Nat) :=
  let gs := k.claimable w.may
  ((k.claimOrder gs).take w.regs, (k.claimSpads (gs.filter fun p => w.own != some p.2.wg)).take w.spads)

/-- ROW_CLAIM_COMPLETE (R417, R418): the rows that a placement lacks are claimed of halted groups, in order; their live bytes
have been written out. A claim is not complete while requests of such a group, or copies into such a row, have still to land
(DEDUCED, assumption 79), nor while the dirty-page log of its function must stay as it is (R435, assumption 82), nor while a page
of a save area is being flipped (R292). -/
def execRowClaimComplete (core : Nat) : State → Host.Outcome State Fault Refusal := coreEvent fun s =>
  match s.rowsWanted core with
  | none => s
  | some w =>
    let k := s.core core
    let (rs, ps) := k.claims w
    let pending (n : Nat) : Bool := (s.group? core n).any fun g => !g.pends.isEmpty
    let quiet (n : Nat) : Bool := (s.group? core n).any fun g => s.logQuiet g.vf
    let held := (rs.any fun p => (s.group? core p.1).any fun g => g.rowLive p.2 && s.rowHeld core g p.2) ||
      ps.any fun p => (nfind k.wgs p.1).any fun w => s.spadHeld core w p.2
    if held || (rs.any fun p => pending p.1 || quiet p.1) ||
        ps.any (fun p => k.landing p || (nfind k.wgs p.1).any fun w => s.logQuiet w.vf) then s
    else
      let s := rs.foldl (fun s p => s.claimRow core p.1 p.2) s
      (ps.foldl (fun s p => s.claimSpadRow core p.1 p.2) s).settleSplit core

/-! ## Tiles (R419) -/

/-- Tiles and runs in a core's save pool. -/
def Engine.savedTiles (e : Engine) : List (Nat × Tile) := e.saved.flatMap (·.2)
def Tile.hasRun (t : Tile) : Bool := t.mode == .count

/-- A resuming group wants back a tile number. -/
def State.tileWanted (s : State) (core t : Nat) : Bool :=
  (s.resumingOn core).any fun p => (nget [] (s.eng core).saved p.1).any fun x => x.1 == t

/-- A clear for counting waits for the counter bank that this tile holds (R419). -/
def Engine.bankWanted (e : Engine) (t n : Nat) : Bool :=
  e.queue.any fun c => match c.op with
    | .clear (some (b, m)) => b == t && m == n
    | _ => false

/-- A resuming group's run wants the counter bank that this tile holds (R419, R420). -/
def State.runWanted (s : State) (core t : Nat) : Bool :=
  (s.eng core).bank == some t &&
    (s.resumingOn core).any fun p => (nget [] (s.eng core).saved p.1).any fun x => x.2.hasRun

/-- TILE_SPILL (R419): a halted group's tile that another group waits for goes to the save pool, once its commands have
completed and while a slot is free. -/
def execTileSpill (core : Nat) (tile : Fin 4) : State → Host.Outcome State Fault Refusal := coreEvent fun s =>
  let e := s.eng core
  let t := tile.val
  let x := e.tile t
  match s.tileHalted core t with
  | none => s
  | some n =>
    let wanted := !x.waiters.isEmpty || s.tileWanted core t || e.bankWanted t n || s.runWanted core t
    let full := decide (16 ≤ e.savedTiles.length) ||
      (x.hasRun && decide (4 ≤ (e.savedTiles.filter fun p => p.2.hasRun).length))
    if !wanted || full || !((e.naming t).all fun c => c.slot != n) then s
    else s.modEng core fun e =>
      let e := { e with saved := nset [] e.saved n (nget [] e.saved n ++ [(t, { x with waiters := [] })]),
                        bank := if e.bank = some t then none else e.bank }
      (e.modTile t fun x => { waiters := x.waiters }).settleTile t

/-! ## Resuming (R420) -/

/-- The saved tiles of a group that can return to their numbers now (R420). -/
def State.tilesFree (s : State) (core slot : Nat) : Bool :=
  (nget [] (s.eng core).saved slot).all fun p => (s.tile core p.1).owner.isNone && !(s.tile core p.1).freeing
def State.restoreTiles (s : State) (core slot : Nat) : State :=
  s.modEng core fun e =>
    let e' := (nget [] e.saved slot).foldl (fun (e : Engine) (p : Nat × Tile) =>
      let e := e.modTile p.1 fun x => { p.2 with waiters := x.waiters }
      { e with bank := if p.2.hasRun then some p.1 else e.bank }) e
    { e' with saved := nset [] e'.saved slot [] }

/-- Spilled scratchpad rows return with every presence bit clear. -/
def Workgroup.regain (w : Workgroup) : Workgroup :=
  let lines := w.spilled.flatMap fun r => (List.range 32).map fun i => 32 * r + i
  { w with spilled := [], hold := none, arriving := w.arriving ++ lines,
           absent := lines.foldl (fun m l => nset 0 m l (nget 0 m l + 1)) w.absent }

/-- A returning counting tile finds the counter bank bound elsewhere. -/
def State.bankClash (s : State) (core slot : Nat) : Bool :=
  ((nget [] (s.eng core).saved slot).any fun p => p.2.hasRun) && (s.eng core).bank.isSome

/-- A resuming group's words: its spilled rows read back, dead values zero, and the words that it is owed pushed (R269,
R420). -/
def Group.returned (g : Group) (m : Mem) (pages : List (Nat × Nat)) : Group :=
  g.owed.foldl (fun g p => g.pushSent p.1 p.2) (g.fillRows m pages).dropDead

/-- A read of a group's save area meets a page fault: wait kind 0x0F until its replay, whatever the group itself waits for
(R420). -/
def State.backFault (s : State) (core slot : Nat) (g : Group) (va : Nat) (stage2 : Bool) (addr level : Nat) : State :=
  let m : PageMiss := { va := BitVec.ofNat 64 va, stage2 := stage2, addr := addr, level := level, acc := 0, ctx := g.vf,
                        part := g.part, pc := g.pc.word, entryB := g.entryB, cmd := 0 }
  let s := (s.walkMarks core g.vf va).pageFault m
  s.modGroup core slot fun g =>
    { g with wait := { kind := 0x0F, obj := m.va, val := BitVec.ofNat 64 (s.fqSeqOf m.fn m.key) }
             ownWait := g.wait, backMiss := some (m.fn, m.key) }

/-- GROUP_RESUME (R420): once its rows and tiles are free, a halted group gets them back and goes on. -/
def execGroupResume (core slot : Nat) : State → Host.Outcome State Fault Refusal := coreEvent fun s =>
  match s.group? core slot with
  | none => s
  | some g =>
    let k := s.core core
    let (_, fr, fp) := k.freeIn k.split
    let (nr, np) := k.needsBack g
    let displaced := (s.eng core).queue.any fun c => match c.op with
      | .clear (some (_, n)) => n == slot
      | _ => false
    if g.gstate ≠ .halted ∨ (s.vf g.vf).pstate ≠ .resuming ∨ g.backMiss.isSome ∨ fr < nr ∨ fp < np ∨ displaced ∨ !s.tilesFree core slot ∨
        s.bankClash core slot then s
    else match s.rowPages core g (g.claimed.filter g.rowLive) with
      | .error (va, .miss st a l) => s.backFault core slot g va st a l
      | .error (_, .wait) => s
      | .error _ => (s.saveFault core slot).settleResume g.vf
      | .ok (pages, s) =>
        let s := (s.pushLate core slot fun g => g.returned s.mem pages).modGroup core slot fun g =>
          { g with claimed := [], owed := [], live := {}, gstate := .running,
                   wait := if g.resume = .none then {} else g.wait }
        let s := s.modWg core g.wg Workgroup.regain
        ((s.restoreTiles core slot).standUp core slot).settleResume g.vf

/-- No line of a workgroup's returned rows arrives any more: its groups are gone. -/
def Workgroup.lose (w : Workgroup) : Workgroup :=
  { w with arriving := [], absent := w.arriving.foldl (fun m l => nset 0 m l (nget 0 m l - 1)) w.absent }

/-- SPILLED_LINE_ARRIVAL (R420): a line of a returned scratchpad row arrives from the save area, and is present; a page fault
holds it until its replay. A line that can never be read terminates the workgroup's groups. -/
def execSpilledLineArrival (core wg line : Nat) : State → Host.Outcome State Fault Refusal := coreEvent fun s =>
  match s.wg? core wg with
  | none => s
  | some w =>
    if !w.arriving.contains line || w.hold.isSome then s
    else
      let va := s.spadSave w (line / 32)
      let gs := (s.core core).groups.filter fun p => p.2.wg == wg
      match s.savePage core w.vf w.part va false [(128 * (line % 32), 128)] with
      | .at_ pa _ s => s.modWg core wg fun w =>
          { w with spad := w.spad.put (128 * line) (s.mem.bytes (pa + 128 * (line % 32)) 128),
                   arriving := w.arriving.erase line, absent := nset 0 w.absent line (nget 0 w.absent line - 1) }
      | .miss st a l =>
        let m : PageMiss := { va := BitVec.ofNat 64 va, stage2 := st, addr := a, level := l, acc := 0, ctx := w.vf,
                              part := w.part, pc := ((gs.head?).map fun p => p.2.pc.word).getD 0,
                              entryB := ((gs.head?).map fun p => p.2.entryB).getD 0, cmd := 0 }
        ((s.walkMarks core w.vf va).pageFault m).modWg core wg fun w => { w with hold := some (m.fn, m.key) }
      | .wait => s
      | .bad => gs.foldl (fun s p => s.saveFault core p.1) (s.modWg core wg Workgroup.lose)

/-! ## Time slices (R425) -/

/-- QUANTUM_EXPIRE: the turn's quantum has run out; without another turn that qualifies it runs on. A function that is already
stopping stops once, and the switch follows; one that is resuming has not begun its quantum. -/
def execQuantumExpire (part : Nat) : State → Host.Outcome State Fault Refusal := event fun s =>
  let k := s.part part
  let q := max 1 (fld (s.pr (sliceOfs part 0)) 16 32)
  if !s.sliced part ∨ k.switching ∨ s.ref < k.turnStart + 1000 * q then s
  else match s.nextTurnOf part with
    | none => s.setPart part { k with turnStart := s.ref }
    | some _ => match s.turnVf part k.cur with
      | none => s.switchTurn part
      | some v => match (s.vf v).pstate with
        | .running => (s.setPart part { k with switching := true }).stopVf v true
        | .stopping => s.setPart part { k with switching := true }
        | .halted => s.switchTurn part
        | .resuming => s

end Sys2Proof.Machine
end

