-- ==== Sys2Proof/Machine/Binding.lean ====
section
/-! DEFINITION. Writes of the placement block (R130, R133) and of VFBIND (R134). -/

namespace Sys2Proof.Machine

def plerrOfs : Nat := 0x501000
/-- Set bits of PLERR. -/
def State.plerr (s : State) (bits : Nat) : State := s.setPr plerrOfs (s.pr plerrOfs ||| BitVec.ofNat 64 bits)

/-! ## What the placement block must keep (R133) -/

/-- Ports that a partition may reach on a die: SLC and DSG. -/
def State.reach (s : State) (die p : Nat) : Nat := s.slc die p + s.dsg die p * 2 ^ 24
def subMask (a b : Nat) : Bool := a &&& b == a

def State.row (s : State) (die r : Nat) : Nat := fld (s.conn die r) 0 28
/-- Partitions that hold an enabled core of a cluster of a die. -/
def State.clusterParts (s : State) (die c : Nat) : List Nat :=
  ((List.range 4).filter fun i => s.coreOn (16 * die + 4 * c + i)).map fun i => s.corePart (16 * die + 4 * c + i)

/-- Bit 0: the rows of cores and copy engines stay within their partitions. -/
def State.rowsOk (s : State) (die : Nat) : Bool :=
  ((List.range 16).all fun i => subMask (s.row die i) (s.reach die (s.corePart (16 * die + i)))) &&
    (List.range 4).all fun c => (s.clusterParts die c).all fun p => subMask (s.row die (16 + c)) (s.reach die p)

def State.shr (s : State) (die p : Nat) : Nat := fld (s.partWord die p) 40 24

/-- Bit 2: walkers. -/
def State.walkersOk (s : State) (die : Nat) : Bool :=
  decide (((List.range 64).map (s.wlk die)).sum ≤ 48) &&
    (List.range 16).all fun i => !s.coreOn (16 * die + i) || s.wlk die (s.corePart (16 * die + i)) != 0

/-- Bit 4: slices shared only by consent, die-scratch groups never. -/
def State.sharesOk (s : State) (die : Nat) : Bool :=
  (List.range 64).all fun p => (List.range p).all fun q =>
    let both := s.slc die p &&& s.slc die q
    subMask both (s.shr die p) && subMask both (s.shr die q) && s.dsg die p &&& s.dsg die q == 0

/-- A partition has a running or halted group, or a held card. -/
def State.partBusy (s : State) (p : Nat) : Bool :=
  (s.groupList.any fun x => x.2.2.part == p) || (s.jobs.any fun j => j.2.part == p) ||
    s.vfs.any fun v => s.bound v.1 == some p && s.hasCard v.1

/-- Bit 5: what changes belongs to no busy partition. `t` is the state after the write. -/
def State.changeOk (s t : State) (die ofs : Nat) : Bool :=
  let r := ofs / 8
  if ofs < 0xA8 then
    s.row die r == t.row die r ||
      (if r < 16 then !s.partBusy (s.corePart (16 * die + r))
       else r == 20 || (s.clusterParts die (r - 16)).all fun p => !s.partBusy p)
  else if ofs < 0x180 then
    let c := 16 * die + (r - 32)
    s.corePart c == t.corePart c || (!s.partBusy (s.corePart c) && !s.partBusy (t.corePart c))
  else
    let p := r - 128
    (s.slc die p == t.slc die p && s.dsg die p == t.dsg die p && s.wlk die p == t.wlk die p) || !s.partBusy p

/-! ## The writes -/

/-- The writable bits of a register of the placement block; none where no register lies (R130). -/
def placeMask (ofs : Nat) : Option DWord :=
  if ofs % 8 ≠ 0 then none
  else if ofs < 0xA8 then some 0xFFFFFFF
  else if 0x100 ≤ ofs ∧ ofs < 0x180 then some 0x1FFFFFF013F
  else if 0x400 ≤ ofs ∧ ofs < 0x600 then some 0xFFFFFF3F0FFFFFFF
  else none

/-- The PLERR bits that a write of a die's block raises (R133). -/
def State.placeErrors (s t : State) (die ofs : Nat) : Nat :=
  let e (ok : Bool) (i : Nat) : Nat := if ok then 0 else 2 ^ i
  let split := 0x180 ≤ ofs || ofs < 0x100 || splitOk (t.pool (16 * die + (ofs - 0x100) / 8))
  e (t.rowsOk die) 0 + e split 1 + e (t.walkersOk die) 2 + e (t.sharesOk die) 4 + e (s.changeOk t die ofs) 5

def State.placeWrite (s : State) (die ofs : Nat) (value : DWord) : State :=
  match placeMask ofs with
  | none => s
  | some m =>
    if 4 ≤ die then s
    else
      let t := s.setPr (placeOfs die ofs) (value &&& m)
      let e := s.placeErrors t die ofs
      if e ≠ 0 then s.plerr e
      else if 0x100 ≤ ofs ∧ ofs < 0x180 then t.settleSplit (16 * die + (ofs - 0x100) / 8) else t

/-- PLACEMENT_WRITE (R133). -/
def execPlacementWrite (die ofs : Nat) (value : DWord) : State → Host.Outcome State Fault Refusal := hostEvent fun s =>
  s.placeWrite die ofs value

def vfbindOfs (vf : Nat) : Nat := 0x500000 + 8 * vf

/-- Functions bound to a partition, but for one. -/
def State.boundBeside (s : State) (vf p : Nat) : Nat :=
  ((List.range 256).filter fun v => v != vf && s.bound v == some p).length

/-- The PLERR bits that a changed binding raises: 5 for a busy function that is bound elsewhere, 3 for a ninth one of a partition
(R134). To bind a function that is not bound is no rebinding: its cards have waited for it (DEDUCED, assumption 93). -/
def State.bindErrors (s : State) (vf : Nat) (v : DWord) : Nat :=
  (if bit (s.pr (vfbindOfs vf)) 8 && (s.hasCard vf || !(s.groupsOf vf).isEmpty) then 0x20 else 0) +
    (if bit v 8 && decide (8 ≤ s.boundBeside vf (fld v 0 6)) then 8 else 0)

/-- A write of VFBIND; a function that comes to the turn of a sliced partition begins its quantum (R425). -/
def State.vfBind (s : State) (vf : Nat) (value : DWord) : State :=
  let v := value &&& 0x13F
  if 256 ≤ vf ∨ v = s.pr (vfbindOfs vf) then s
  else if s.bindErrors vf v ≠ 0 then s.plerr (s.bindErrors vf v)
  else (s.setPr (vfbindOfs vf) v).beginTurn vf

/-- VFBIND_WRITE (R134). -/
def execVfbindWrite (vf : Nat) (value : DWord) : State → Host.Outcome State Fault Refusal := hostEvent fun s =>
  s.vfBind vf value

end Sys2Proof.Machine
end

