-- ==== Sys2Proof/Machine/Butterfly.lean ====
section
/-! DEFINITION. The twiddle generator and TWG (R390, R391), and the butterfly stages with BFLY and BFLYP (R392 to R397). -/

namespace Sys2Proof.Machine

/-! ## The generator (R390) -/

/-- cos(2π p/q) for 0 ≤ p/q ≤ 1/4, correctly rounded: the values 1, 1/2 and 0 are exact, every other is irrational and
is rounded from 400 fraction bits (DEDUCED, assumption 1). -/
def cosQuarter (neg : Bool) (p q : Nat) : Nat :=
  if p = 0 then (fp32.round .rne neg 1 0).1
  else if 4 * p = q then 0
  else if 6 * p = q then (fp32.round .rne neg 1 (-1)).1
  else (fp32.round .rne neg (fxCos ((2 * fxPi * (p : Int)).fdiv (q : Int))).toNat (-(fxBits : Int)) true).1

/-- cos(2π p/q), correctly rounded to FP32; an exact zero is +0. -/
def cosTurn (p q : Nat) : Nat :=
  let p := p % q
  let p := if q < 2 * p then q - p else p
  if q < 4 * p then cosQuarter true (q - 2 * p) (2 * q) else cosQuarter false p q

/-- G(N, k) of R390: (cos, −sin), or its conjugate. −sin x = cos(x + 1/4 turn), sin x = cos(x − 1/4 turn). -/
def twiddle (n : Nat) (k : Int) (conj : Bool) : Nat × Nat :=
  let k := (k.emod (n : Int)).toNat
  (cosTurn k n, cosTurn (4 * k + (if conj then 3 * n else n)) (4 * n))

/-- TWG in one lane (R391). -/
def opTwg (f : VOps) (x : LaneIn) : LaneOut :=
  let sg := f.ty == .i32
  let n := codeInt sg 32 x.wa.toNat
  let k := codeInt sg 32 x.wb.toNat
  if n < 1 ∨ 65535 < n then { push := [0x7FC00000, 0x7FC00000], flags := flNV }
  else
    let (a, b) := twiddle n.toNat k (f.mod.getLsbD 0)
    { push := [wordOfNat a, wordOfNat b] }

/-- TWG (R391). -/
def execTwg (f : VOps) : State → Host.Outcome State Fault Refusal := vecInstr 0x166 f opTwg

/-! ## Stage descriptors (R392) -/

def stKind (d : DWord) : Nat := fld d 0 3
def stHn (d : DWord) : Nat := fld d 3 2
def stAxis (d : DWord) : Bool := bit d 5
def stInv (d : DWord) : Bool := bit d 6
def stTw (d : DWord) : Bool := bit d 7
def stDif (d : DWord) : Bool := bit d 8
def stShift (d : DWord) : Nat := fld d 9 2
def stNmod (d : DWord) : Nat := fld d 16 16
def stSeg (d : DWord) : Nat := fld d 32 7
def stPspan (d : DWord) : Nat := fld d 40 7
def stTstep (d : DWord) : Nat := fld d 48 16

/-- Points of a group: the radix, or the Hadamard size; 1 for a twiddle pass. -/
def stPoints (d : DWord) : Nat := if stKind d < 4 then stKind d + 2 else if stKind d = 4 then 1 else 16 * 2 ^ stHn d

/-- A reserved value or a field that must be zero. -/
def stageBad (plan : Bool) (d : DWord) : Bool :=
  let kind := stKind d
  let tws := stTw d || kind == 4
  decide (5 < kind) || (if kind = 5 then stHn d == 3 else stHn d != 0) || (decide (4 ≤ kind) && (stTw d || stDif d)) ||
  fld d 11 5 != 0 || (if tws then stNmod d == 0 else stNmod d != 0 || stTstep d != 0) || decide (80 < stSeg d) ||
  bit d 39 || (if plan then stPspan d == 0 || decide (80 < stPspan d) else stPspan d != 0) || bit d 47

/-- The length of the axis and of its segments. -/
def stLen (x : Tile) (d : DWord) : Nat := if stAxis d then x.height else x.width
def stSegLen (x : Tile) (d : DWord) : Nat := if stSeg d = 0 then stLen x d else stSeg d

/-- The subcode of TILE_MODE for a stage of a tile (R393, R395). -/
def stageMode (x : Tile) (p : DWord × Nat) : Option Nat :=
  let (d, span) := p
  let g := stSegLen x d
  if x.mode = .real32 ∧ stKind d ≠ 5 ∧ (stKind d ≠ 0 ∨ stTw d) then some 4
  else if stLen x d % g ≠ 0 ∨ (stKind d ≠ 4 ∧ g % (stPoints d * span) ≠ 0) then some 5
  else none

/-- Issue of a plan of stages (R384, R397). -/
def stagesBody (f : EOps) (word : DWord) (plan : Bool) (c : Ctx) (s : State) : Except Trap State := do
  c.maskReady
  let E := c.g.exec f.g1 f.g2
  if E = 0 then return s
  let n := if plan then f.cnt.toNat else 1
  let ds := (List.range n).map fun i =>
    let d := c.kreg (f.kix.val + i)
    (d, if plan then stPspan d else f.cnt.toNat)
  if 127 < f.kix.val + n - 1 ∨ ds.any fun p => stageBad plan p.1 then raise fcIllegal 0x0A word E
  let t := f.tile.val
  s.hasBaton c E
  s.owned c E t
  s.inMode c E t [.real32, .cplx32]
  match (ds.filterMap (stageMode (s.tile c.core t))).min? with
  | some sub => raiseOpen fcTileMode sub E
  | none => .ok ()
  c.loadsDone
  s.engRoom c
  return s.engIssue c E f true [] (.stages ds)

/-- BFLY (R397). -/
def execBfly (f : EOps) : State → Host.Outcome State Fault Refusal := instr (.e 0x164 f) (stagesBody f (wordE 0x164 f) false)

/-- BFLYP (R397). -/
def execBflyp (f : EOps) : State → Host.Outcome State Fault Refusal := instr (.e 0x165 f) (stagesBody f (wordE 0x165 f) true)

/-! ## Exact complex sums (R394) -/

/-- An exact finite real number: a signed multiple of a power of two. -/
abbrev Dy := Int × Int
def Dy.add (x y : Dy) : Dy :=
  let e := min x.2 y.2
  (x.1 * (pow2 (x.2 - e) : Int) + y.1 * (pow2 (y.2 - e) : Int), e)
def Dy.mul (x y : Dy) : Dy := (x.1 * y.1, x.2 + y.2)
def Dy.neg (x : Dy) : Dy := (-x.1, x.2)
def Dy.ofCode (c : Nat) : Dy := match fp32.decode c with
  | .fin n m e => (signed n m, e)
  | _ => (0, 0)

abbrev Cx := Dy × Dy
def Cx.add (x y : Cx) : Cx := (Dy.add x.1 y.1, Dy.add x.2 y.2)
def Cx.mul (x y : Cx) : Cx :=
  (Dy.add (Dy.mul x.1 y.1) (Dy.neg (Dy.mul x.2 y.2)), Dy.add (Dy.mul x.1 y.2) (Dy.mul x.2 y.1))
def Cx.one : Cx := ((1, 0), (0, 0))
def Cx.zero : Cx := ((0, 0), (0, 0))
def Cx.ofCodes (p : Nat × Nat) : Cx := (Dy.ofCode p.1, Dy.ofCode p.2)
def Cx.conj (inv : Bool) (x : Cx) : Cx := if inv then (x.1, Dy.neg x.2) else x

/-- RNE32 of 2^−s x, an exact zero as +0, with its flags. -/
def Dy.round (s : Nat) (x : Dy) : Nat × Flags :=
  if x.1 = 0 then (0, 0) else fp32.round .rne (decide (x.1 < 0)) x.1.natAbs (x.2 - (s : Int))

/-- Ω_r^m, conjugated in the inverse direction (R394). -/
def omega (r m : Nat) (inv : Bool) : Cx :=
  match r with
  | 2 => if m % 2 = 0 then Cx.one else ((-1, 0), (0, 0))
  | 4 => Cx.conj inv (match m % 4 with
    | 0 => Cx.one
    | 1 => ((0, 0), (-1, 0))
    | 2 => ((-1, 0), (0, 0))
    | _ => ((0, 0), (1, 0)))
  | _ => Cx.ofCodes (twiddle r m inv)

def popParity (n : Nat) : Bool := ((List.range 7).filter fun i => n.testBit i).length % 2 == 1

/-- Output j of a group from its inputs; b is the position's place in the span (R394). -/
def stageOut (d : DWord) (b : Nat) (xs : List Cx) (j : Nat) : Cx :=
  let r := stPoints d
  let tw (x : Nat) : Cx :=
    if stTw d then Cx.ofCodes (twiddle (stNmod d) ((x * b * stTstep d : Nat) : Int) (stInv d)) else Cx.one
  let term (p : Nat × Cx) : Cx :=
    if stKind d = 5 then (if popParity (p.1 &&& j) then (Dy.neg p.2.1, Dy.neg p.2.2) else p.2)
    else
      let x := if stDif d then p.2 else Cx.mul p.2 (tw p.1)
      Cx.mul x (omega r (p.1 * j) (stInv d))
  let sum := ((List.range xs.length).zip xs).foldl (fun a p => Cx.add a (term p)) Cx.zero
  if stKind d < 4 && stDif d then Cx.mul (tw j) sum else sum

/-- A cell's two parts as codes are finite. -/
def Cell.finite (c : Cell) : Bool :=
  let f (w : Word) : Bool := match fp32.decode w.toNat with
    | .fin .. => true
    | _ => false
  f c.re && f c.im

def Cell.cx (c : Cell) : Cx := Cx.ofCodes (c.re.toNat, c.im.toNat)

/-- The cell that a result makes, with its flags; the imaginary part of a REAL32 cell stays zero. -/
def Cx.cell (mode : TMode) (s : Nat) (x : Cx) : Cell × Flags :=
  let (a, f) := Dy.round s x.1
  let (b, g) := if mode = .cplx32 then Dy.round s x.2 else (0, 0)
  ({ re := wordOfNat a, im := wordOfNat b }, f ||| g)

def nanCell (mode : TMode) : Cell := { re := 0x7FC00000, im := if mode = .cplx32 then 0x7FC00000 else 0 }

/-- The cell index of position p on cross line v. -/
def stCell (axis : Bool) (v p : Nat) : Nat := if axis then 80 * p + v else 80 * v + p

/-- One stage over a region (R393 to R396): every output is formed from the inputs as they stood. -/
def stageRun (mode : TMode) (height width : Nat) (cells : NMap Cell) (p : DWord × Nat) : NMap Cell × Flags :=
  let (d, span) := p
  let axis := stAxis d
  let len := if axis then height else width
  let cross := if axis then width else height
  let g := if stSeg d = 0 then len else stSeg d
  let r := stPoints d
  let sh := stShift d
  let outs : List (Nat × Cell × Flags) := (List.range cross).flatMap fun v => (List.range (len / max 1 g)).flatMap fun sg =>
    if stKind d = 4 then
      (List.range g).map fun u =>
        let i := stCell axis v (sg * g + u)
        let c := nget {} cells i
        if c.finite then
          let y := Cx.mul c.cx (Cx.ofCodes (twiddle (stNmod d) ((u * v * stTstep d : Nat) : Int) (stInv d)))
          (i, Cx.cell mode sh y)
        else (i, nanCell mode, flNV)
    else
      (List.range (g / max 1 (r * span))).flatMap fun a => (List.range span).flatMap fun b =>
        let idx := (List.range r).map fun q => stCell axis v (sg * g + a * r * span + q * span + b)
        let cs := idx.map fun i => nget {} cells i
        if cs.all Cell.finite then
          let xs := cs.map Cell.cx
          ((List.range r).zip idx).map fun j => (j.2, Cx.cell mode sh (stageOut d b xs j.1))
        else idx.map fun i => (i, nanCell mode, flNV)
  outs.foldl (fun a o => (nset {} a.1 o.1 o.2.1, a.2 ||| o.2.2)) (cells, 0)

/-- A plan of stages, in order. -/
def stagesRun (mode : TMode) (height width : Nat) (cells : NMap Cell) (ds : List (DWord × Nat)) : NMap Cell × Flags :=
  ds.foldl (fun a p =>
    let (c, f) := stageRun mode height width a.1 p
    (c, a.2 ||| f)) (cells, 0)

end Sys2Proof.Machine
end

