-- ==== Sys2Proof/Machine/Counting.lean ====
section
/-! DEFINITION. Four-bit counting (R376 to R389): product classes, the run that a COUNT tile holds, and the commands that
count, merge and empty it. -/

namespace Sys2Proof.Machine

/-! ## Classes (R376, R377) -/

/-- The FP4 classes, in quarters. -/
def fp4Classes : List Nat := [1, 2, 3, 4, 6, 8, 9, 12, 16, 18, 24, 32, 36, 48, 64, 72, 96, 144]

/-- The INT4 classes. -/
def int4Classes : List Nat :=
  [1, 2, 3, 4, 5, 6, 7, 8, 9, 10, 12, 14, 15, 16, 18, 20, 21, 24, 25, 28, 30, 32, 35, 36, 40, 42, 48, 49, 56, 64]

def classesOf (el : Elem) : List Nat := if el = .fp4 then fp4Classes else int4Classes

/-- A four-bit operand as a signed integer: halves for FP4, units for INT4. -/
def nibInt (el : Elem) (c : Nat) : Int :=
  if el = .fp4 then signed (decide (8 ≤ c % 16)) (fp4Mag (c % 8)) else codeInt true 4 c

/-- The exponent of a class's unit. -/
def classExp (el : Elem) : Int := if el = .fp4 then -2 else 0

/-- The width of a counter. -/
def ctrBits (el : Elem) : Nat := if el = .fp4 then 21 else 12

/-- Counter i of a cell's counter word, signed. -/
def Cell.counter (el : Elem) (c : Cell) (i : Nat) : Int :=
  codeInt true (ctrBits el) (c.cnt.toNat / 2 ^ (ctrBits el * i) % 2 ^ ctrBits el)

/-- The cell with another value in counter i. -/
def Cell.setCounter (el : Elem) (c : Cell) (i : Nat) (v : Int) : Cell :=
  let w := ctrBits el
  let field (n : Nat) : BitVec 384 := BitVec.ofNat 384 n <<< (w * i)
  { c with cnt := c.cnt &&& ~~~(field (2 ^ w - 1)) ||| field (BitVec.ofInt w v).toNat }

/-- Count one product in a cell (R378). -/
def Cell.tally (el : Elem) (c : Cell) (p : Int) : Cell :=
  match (classesOf el).findIdx? fun v => v == p.natAbs with
  | some i => c.setCounter el i (c.counter el i + (if 0 < p then 1 else -1))
  | none => c

/-- Σ count × class of a cell, in the unit of its format. -/
def Cell.total (el : Elem) (c : Cell) : Int :=
  ((List.range (classesOf el).length).map fun i => c.counter el i * ((classesOf el).getD i 0 : Int)).sum

/-! ## Runs (R379 to R383) -/

/-- The depth limit of a format (R380). -/
def depthLimit (el : Elem) : Nat := if el = .fp4 then 1048575 else 2047

/-- The fields of a format block that a run fixes. -/
def runFields (fb : DWord) : Nat := fld fb 14 50

/-- COUNT_DEPTH of n steps: the depth before the first step over the limit. -/
def depthOver (lim depth : Nat) (n : Nat) : Option Nat :=
  ((List.range n).map fun q => depth + 96 * q).find? fun d => decide (lim < d + 96)

/-- COUNT_SCALE of n steps from κ: the first step that fails decides the subcode (R381, R387). -/
def scaleBreach (run : Run) (fb : DWord) (kappa n : Nat) : Option Nat :=
  let a (k : Nat) : Nat := blockAt true (fbAbl fb) k
  let b (k : Nat) : Nat := blockAt true (fbBbl fb) k
  let jA := if run.depth = 0 then a kappa else run.jA
  let jB := if run.depth = 0 then b kappa else run.jB
  (List.range n).findSome? fun q =>
    let k := kappa + 96 * q
    if a k ≠ jA ∨ b k ≠ jB then some 1
    else if run.depth ≠ 0 ∧ runFields fb ≠ runFields run.fb then some 2
    else none

/-- Checks 2 to 8 of R384 of n counting steps; the settled anchor rule. -/
def State.countChecks (s : State) (c : Ctx) (E : LaneMask) (t : Nat) (fb : DWord) (n : Nat) :
    Except Trap (ARule × Option Int) := do
  s.hasBaton c E
  s.owned c E t
  s.inMode c E t [.count]
  if (s.eng c.core).bank ≠ some t then Sys2Proof.Machine.raiseOpen fcTileMode 1 E
  match stepFormat true fb with
  | some sub => Sys2Proof.Machine.raiseOpen fcFormat sub E
  | none => .ok ()
  let r ← s.settleTile c E t fb (fbElems fb)
  let x := s.tile c.core t
  let el := fmtElem (fbA (if x.run.depth = 0 then fb else x.run.fb))
  match depthOver (depthLimit el) x.run.depth n with
  | some d => Sys2Proof.Machine.raise fcDepth 1 (BitVec.ofNat 64 d) E
  | none => .ok ()
  match scaleBreach x.run fb x.kappa n with
  | some sub => Sys2Proof.Machine.raiseOpen fcScale sub E
  | none => .ok r

/-- The run after n more steps (R379). -/
def Run.more (run : Run) (fb : DWord) (kappa n : Nat) : Run :=
  if run.depth = 0 then
    { depth := 96 * n, fb := fb, jA := blockAt true (fbAbl fb) kappa, jB := blockAt true (fbBbl fb) kappa }
  else { run with depth := run.depth + 96 * n }

/-- Put the settled rule, the run and κ into the tile and queue the command. -/
def State.issueCount (s : State) (c : Ctx) (E : LaneMask) (f : EOps) (r : ARule × Option Int) (fb : DWord) (n : Nat)
    (op : EOp) : State :=
  let t := f.tile.val
  let s := s.modTile c.core t fun x => { x with rule := r.1, anchor := r.2 }
  let s := s.engIssue c E f true [] op
  s.modTile c.core t fun x => { x with run := x.run.more fb x.kappa n, kappa := x.kappa + 96 * n }

/-- MCNT (R386). -/
def execMcnt (f : EOps) : State → Host.Outcome State Fault Refusal := instr (.e 0x160 f) fun c s => do
  c.maskWait
  let E := c.g.exec f.g1 f.g2
  c.checkNames E [(f.an, 6)]
  let frag ← c.fragment E f.an
  if E = 0 then return s
  let b ← c.readS f.p.val
  let fb := c.kreg f.kix.val
  let t := f.tile.val
  let r ← s.countChecks c E t fb 1
  let kappa := (s.tile c.core t).kappa
  engSpace E b
  engAlign E b 128 []
  s.engRanges c E ((b, 0, 3840) :: scaleStretches true fb kappa 96)
  c.quiet
  s.engRoom c
  return s.issueCount c E f r fb 1 (.step true frag fb kappa b)

/-- MCNTL (R387). -/
def execMcntl (f : EOps) : State → Host.Outcome State Fault Refusal := instr (.e 0x161 f) fun c s => do
  c.maskReady
  let E := c.g.exec f.g1 f.g2
  if E = 0 then return s
  let a ← c.readS f.p.val
  let b ← c.readS f.q.val
  let fb := c.kreg f.kix.val
  let (ai, bi) := incsOf (c.kreg (f.kix.val + 1))
  let cnt := cntOf f.cnt
  let t := f.tile.val
  let r ← s.countChecks c E t fb cnt
  let kappa := (s.tile c.core t).kappa
  stepSpaces E a b ai bi cnt
  engAlign E a 128 [ai]
  engAlign E b 128 [bi]
  s.engRanges c E (stepStretches a b ai bi cnt ++ scaleStretches true fb kappa (96 * cnt))
  c.quiet
  s.engRoom c
  return s.issueCount c E f r fb cnt (.steps true fb kappa cnt a b ai bi)

/-- A COUNT tile that the bank is bound to (R384). -/
def State.countTile (s : State) (c : Ctx) (E : LaneMask) (t : Nat) : Except Trap Unit := do
  s.owned c E t
  s.inMode c E t [.count]
  if (s.eng c.core).bank ≠ some t then Sys2Proof.Machine.raiseOpen fcTileMode 1 E

/-- The scale bytes that a merge of a run reads (R388). -/
def Run.stretches (run : Run) : List Stretch :=
  if run.depth = 0 then []
  else
    (if fbAbl run.fb = 0 then [] else [(spadVa, ((16 * fbAso run.fb + 48 * run.jA : Nat) : Int), 48)]) ++
    (if fbBbl run.fb = 0 then [] else [(spadVa, ((16 * fbBso run.fb + 80 * run.jB : Nat) : Int), 80)])

/-- MMRG (R388). -/
def execMmrg (f : EOps) : State → Host.Outcome State Fault Refusal := instr (.e 0x162 f) fun c s => do
  c.maskReady
  let E := c.g.exec f.g1 f.g2
  if E = 0 then return s
  let t := f.tile.val
  s.hasBaton c E
  s.countTile c E t
  let run := (s.tile c.core t).run
  s.engRanges c E run.stretches
  c.quiet
  s.engRoom c
  let s := s.engIssue c E f true [] (.merge run)
  return s.modTile c.core t fun x => { x with run := {} }

/-- CNTZ (R389). -/
def execCntz (f : EOps) : State → Host.Outcome State Fault Refusal := instr (.e 0x163 f) fun c s => do
  c.maskReady
  let E := c.g.exec f.g1 f.g2
  if E = 0 then return s
  let t := f.tile.val
  s.countTile c E t
  c.loadsDone
  s.engRoom c
  let s := s.engIssue c E f false [] .empty
  return s.modTile c.core t fun x => { x with run := {} }

end Sys2Proof.Machine
end

