-- ==== Sys2Proof/Machine/Dealing.lean ====
section
/-! DEFINITION. The dealer's events: doorbells and queue enables (R98, R99), parsing (R96), FENCE cards (R102), dealing
and stealing (R104 to R107), workgroup starts (R60, R61, R138 to R141), job completion (R108). -/

namespace Sys2Proof.Machine

/-! ## Doorbells and enables (R98, R99) -/

/-- Base and size of a queue's host ring (R98). -/
def State.ringBase (s : State) (vf q : Nat) : Nat := fld (s.vr vf (0x1000 + 0x20 * q)) 12 45 * 4096

/-- A write of JQDOOR (R99): the ring's cards up to the index enter, and take their numbers. -/
def State.doorbell (s : State) (vf q : Nat) (p : BitVec 32) : State :=
  if s.jqn vf ≤ q then s
  else
    let cfg := s.jqCfg vf q
    let j := s.jq vf q
    let n := 2 ^ fld cfg 2 5
    let k := (p - j.e).toNat
    if bit cfg 0 ∧ k + (j.e - j.c).toNat ≤ n then
      if k = 0 then s
      else
        let (t, s) := s.takeTickets vf q k
        let r : RingCards := { n := k, base := s.ringBase vf q, log2n := fld cfg 2 5, idx := j.e, seq := t.seq,
                               order := t.order, enteredAt := t.at_, counts := true, held := s.heldOn vf }
        (s.modJq vf q fun j => { j with e := p, ring := j.ring ++ [r] }).wakePart (s.partOf vf)
    else s.setVr vf (jqCfgOfs q) (putFld cfg 7 1 1)

/-- JOB_QUEUE_DOORBELL (R99). -/
def execJobQueueDoorbell (vf q : Nat) (p : BitVec 32) : State → Host.Outcome State Fault Refusal := hostEvent fun s =>
  s.doorbell vf q p

/-- A value held within bounds. -/
def clampN (lo hi x : Nat) : Nat := max lo (min hi x)

/-- The fields of a queue's configuration word as a write leaves them: only EN changes while EN is 1 (R98). -/
def cfgWrite (data : Bool) (old value : DWord) : DWord :=
  let fields :=
    if bit old 0 then old
    else if data then putFld (putFld old 1 3 (fld value 1 3)) 4 5 (clampN 7 16 (fld value 4 5))
    else putFld (putFld old 1 1 (fld value 1 1)) 2 5 (clampN 4 16 (fld value 2 5))
  let fields := if !data && bit value 7 then putFld fields 7 1 0 else fields
  putFld fields 0 1 (fld value 0 1)

/-- A write of a queue's configuration word; enabling it resets its counters (R98), for a data queue with the reservations
that they number (DESIGN CHOICE, assumption 76); ring cards that have entered run on. -/
def State.queueEn (s : State) (vf : Nat) (data : Bool) (q : Nat) (value : DWord) : State :=
  if (if data then s.dqn vf else s.jqn vf) ≤ q then s
  else
    let ofs := if data then dqCfgOfs q else jqCfgOfs q
    let old := s.vr vf ofs
    let s := s.setVr vf ofs (cfgWrite data old value)
    if bit old 0 || !bit value 0 then s
    else if data then s.modDq vf q fun _ => {}
    else s.modJq vf q fun j =>
      { j with c := 0, e := 0, done := 0, ring := j.ring.map fun r => { r with counts := false } }

/-- QUEUE_EN_WRITE (R98). -/
def execQueueEnWrite (vf : Nat) (data : Bool) (q : Nat) (value : DWord) : State → Host.Outcome State Fault Refusal :=
  hostEvent fun s => s.queueEn vf data q value

/-! ## Parsing (R96, R100, R102) -/

/-- The unparsed card of a queue that comes first. -/
def State.unparsed (s : State) (vf q : Nat) : Option (Nat × Job) :=
  ((s.inQueue vf q).filter fun p => !p.2.parsed).foldl (fun r p => match r with
    | none => some p
    | some b => if p.2.seq < b.2.seq then some p else r) none

/-- The address of the oldest card of a ring. -/
def RingCards.slot (r : RingCards) : Nat := r.base + 64 * (r.idx.toNat % 2 ^ r.log2n)

/-- A continuation card of a queue still has to be read (R292). -/
def Vf.cardWaits (v : Vf) (q : Nat) : Bool := v.late.any fun x => match x with
  | .card _ p _ _ _ _ _ => p == q
  | _ => false

/-- The list of a card lies in a page whose flip is not over (R292). -/
def State.parseHeld (s : State) (j : Job) : Bool :=
  decide (1 < j.gate) && (s.cardCheck j).isNone && s.spanHeld j.vf (j.gaddr.toNat % 2 ^ 57) (16 * (j.gcnt + 1))

/-- The oldest card of a host ring is copied into the dealer (R99). Its tag names the partition to which its function is bound at
the copy (R95; DESIGN CHOICE, assumption 93). -/
def State.copyCard (s : State) (vf q : Nat) (r : RingCards) : State :=
  let addr := BitVec.ofNat 64 r.slot
  let s := s.modJq vf q fun j =>
    { j with c := if r.counts then j.c + 1 else j.c
             ring := (if r.n ≤ 1 then [] else [{ r with n := r.n - 1, idx := r.idx + 1, seq := r.seq + 1, order := r.order + 1 }]) ++
               j.ring.tail }
  match s.readCard vf (s.partOf vf) q addr ⟨r.seq, r.order, r.enteredAt⟩ r.held with
  | (some j, s) => s.holdCard j
  | (none, s) => s

/-- CARD_PARSE: the next card of a queue in order of sequence number is copied from its ring if need be (R99), and checked
(R96); nothing is parsed for an unbound function (R134), behind a FENCE card whose conditions do not hold (R102), or past a
continuation card that waits for room. -/
def execCardParse (vf q : Nat) : State → Host.Outcome State Fault Refusal := event fun s =>
  if (s.bound vf).isNone || (s.vf vf).pstate == .halted || (s.vf vf).cardWaits q ||
      (s.inQueue vf q).any fun p => p.2.parsed && p.2.kind == 1 then s
  else
    let s := s.enterConts vf
    let parse (s : State) (before : Nat → Bool) : State := match s.unparsed vf q with
      | some (id, j) => if before j.seq && !s.parseHeld j then s.parse id j else s
      | none => s
    let cont (seq : Nat) : Bool := (s.contsOf vf q).all fun j => decide (seq < j.seq)
    match (s.jq vf q).ring.head? with
    | none => parse s cont
    | some r =>
      if (s.unparsed vf q).any fun p => decide (p.2.seq < r.seq) then parse s cont
      else if !cont r.seq || !s.copyRoom vf q || s.fnHeld vf r.slot then s
      else parse (s.copyCard vf q r) fun seq => seq == r.seq

/-- FENCE_CONDITION_MET (R102): the card completes once every condition has held, and with DRAIN every earlier card has
completed. The cards of a halted function wait (R433, DEDUCED, assumption 82). -/
def execFenceConditionMet (vf q : Nat) : State → Host.Outcome State Fault Refusal := event fun s =>
  let s := s.noteFences
  if (s.vf vf).pstate = .halted then s
  else match (s.inQueue vf q).find? fun p => p.2.parsed && p.2.kind == 1 with
  | none => s
  | some (id, j) =>
    let drained := !bit (wordAtD j.words 7) 4 || (s.inQueue vf q).all fun p => decide (j.seq ≤ p.2.seq)
    if j.met.length = j.conds.length && s.gateOpen j && s.inTurn j && drained && !s.futureHeld j then
      (s.setJob id { j with cstate := .started, startedAt := s.ref }).complete id
    else s

/-! ## Dealing and stealing (R104 to R107) -/

/-- DEAL_CHUNK: the most urgent card that some core takes. -/
def execDealChunk (part : Nat) : State → Host.Outcome State Fault Refusal := event fun s =>
  match (s.candidates part).findSome? fun p => s.tryDeal p.1 p.2 with
  | none => s
  | some s' =>
    (List.range 64).foldl (fun t c =>
      if (s.core c).dealq.length < (s'.core c).dealq.length then t.wakeCore c else t) s'

/-- Unstarted chunks that a core may steal from: (core, position, chunk), in order. The job is one whose chunks the core has
taken, of the core's partition (R21, R107, DEDUCED, assumption 50). -/
def State.stealable (s : State) (core : Nat) : List (Nat × Nat × Chunk) :=
  (List.range 64).flatMap fun v =>
    if v = core then []
    else ((s.core v).dealq.zipIdx).filterMap fun p => match s.job? p.1.job with
      | none => none
      | some j =>
        if j.part = s.corePart core ∧ (s.core core).served.contains p.1.job ∧ lrWpc j.lrec = 1 ∧ s.dealt j.vf
        then some (v, p.2, p.1) else none

/-- The largest, the first of equals. -/
def largest (l : List (Nat × Nat × Chunk)) : Option (Nat × Nat × Chunk) :=
  l.foldl (fun b x => match b with
    | none => some x
    | some y => if y.2.2.count < x.2.2.count then some x else b) none

/-- STEAL_CHUNK (R107), by a core that is clocked (R167). -/
def execStealChunk (core : Nat) : State → Host.Outcome State Fault Refusal := coreEvent fun s =>
  if !s.coreOn core || !(s.core core).clocked || s.anyReady core || !(s.core core).dealq.isEmpty then s
  else match largest (s.stealable core) with
    | none => s
    | some (v, i, ch) =>
      if ch.count ≤ 1 then
        (s.modCore v fun k => { k with dealq := k.dealq.eraseIdx i }).pushChunk core ch
      else match s.job? ch.job with
        | none => s
        | some j =>
          let n := (ch.count + 1) / 2
          let (set, s) := s.newId
          let kept := { ch with count := ch.count - n, stolen := ch.stolen + n }
          let part : Chunk := { ch with first := ch.first + (ch.count - n), count := n, wgid := j.wgid, clset := set,
                                        stolen := 0 }
          let s := s.setJob ch.job { j with wgid := j.wgid + 1, chunks := j.chunks + 1 }
          (s.modCore v fun k => { k with dealq := k.dealq.set i kept }).pushChunk core part

/-! ## Starting a workgroup (R60, R61, R138 to R141) -/

/-- The valid lanes of a group, and its lanes at start (R140, R141). -/
def validLanes (count wgn : Nat) : LaneMask := maskOf fun l => decide (wgn * 96 + l < count)
def startLanes (helper : Nat) (v : LaneMask) : LaneMask :=
  if helper = 1 then maskOf fun l => (List.range 4).any fun i => inMask v (l / 4 * 4 + i) else v

/-- A group at its start (R60). -/
def Group.fresh (j : Job) (job wg : Nat) (ch : Chunk) (wgn start : Nat) : Group :=
  let l := j.lrec
  let v := validLanes ch.count wgn
  let m := startLanes (lrHelper l) v
  let s : Vector DWord 64 := ((((((Vector.replicate 64 0).set 0 (j.recAddr ch.first)).set 1 (BitVec.ofNat 64 ch.count)).set 2
    j.addr).set 61 ((maskWord m 0).setWidth 64)).set 62 ((maskWord m 1).setWidth 64)).set 63 ((maskWord m 2).setWidth 64)
  { vf := j.vf, part := j.part, job := job, wg := wg, gid := ch.wgid * lrGpw l + wgn, wgn := wgn, start := start,
    gstate := .running, pc := ⟨j.entry, 1⟩, sv := 0, rjt := false, members := m, helper := m &&& ~~~v,
    lanes := Vector.replicate 96 { act := LaneAct.fresh, preds := 0, flags := 0, rep := 0 }, s := s,
    spend := [], spoison := [], coilD := lrDepth l, fslots := lrFslots l, cap := lrAllot l * 4096 / 384,
    cdepth := lrCdepth l, base := 0, entryB := j.entry, frameSize := lrFslots l, depth := 0, stack := [], rets := [],
    completing := false, t0 := {}, t1 := {}, wait := {}, waitPC := 0, resume := .none, waitDone := false, sq := [],
    pends := [], csr := { trapen := lrTrapen l }, progress := 0, loss := Vector.replicate 4 0,
    boost := Vector.replicate 4 0, latestFirst := ch.first, latestCount := ch.count, copyCtx := none, swapHint := false,
    live := {}, haltSeq := 0, claimed := [], rejoin := false, entered := false, dstop := false, dstep := false,
    bpPass := none, focus := none, term := none, readySince := none, miss := none }

/-- The lowest group slot that holds no group, and the lowest unused workgroup number. -/
def Core.freeSlot (k : Core) : Nat := ((List.range 48).find? fun n => (nfind k.groups n).isNone).getD 0
def Core.freeWg (k : Core) : Nat := ((List.range 64).find? fun n => (nfind k.wgs n).isNone).getD 0

/-- Set the split that a job brings to a vacant unlocked core (R138). -/
def State.bringSplit (s : State) (core : Nat) (l : List DWord) : State :=
  if !(s.core core).vacant || s.coreLock core then s.settleSplit core
  else match splitFor l with
    | none => s
    | some b =>
      let w := putFld (putFld (putFld (s.coreWord core) 16 8 b.1) 24 8 b.2.1) 32 8 b.2.2
      (s.setPr (placeOfs (core / 16) (0x100 + 8 * (core % 16))) w).settleSplit core

/-- Start one workgroup on a core (R61): rows granted, groups released together, an acquire at device scope (R109). -/
def State.startWg (s : State) (core : Nat) (j : Job) (ch : Chunk) : State :=
  let l := j.lrec
  let s := s.bringSplit core l
  let n := (s.core core).freeWg
  let w : Workgroup :=
    { job := ch.job, vf := j.vf, part := j.part, wgid := ch.wgid, clset := ch.clset, first := ch.first, count := ch.count,
      stolen := ch.stolen, gpw := lrGpw l, rowsPer := lrRows l, spadRows := lrSpad l, spad := [], absent := [],
      barriers := [], xslots := [], spilled := [], arriving := [], ptab := j.ptab }
  let s := (s.setWg core n w).clearPoison (.spad core n 0) (4096 * lrSpad l)
  let cs := (nfind s.clsets ch.clset).getD { members := [], barriers := [] }
  let s := { s with clsets := nins s.clsets ch.clset { cs with members := cs.members ++ [(core, n)] } }
  let s := s.modJob ch.job fun j => if lrDscr l = 0 then j else { j with dscrDie := nset 0 j.dscrDie (core / 16) (lrDscr l) }
  let s := (List.range w.started).foldl (fun s wgn =>
    let k := s.core core
    s.setCore core { k with groups := nins k.groups k.freeSlot (Group.fresh j ch.job n ch wgn k.nextStart),
                            nextStart := k.nextStart + 1 }) s
  s.acquire core j.vf .device

/-- The cores at the head of whose deal queues a cluster set's chunks stand. -/
def State.setCores (s : State) (set : Nat) : List (Nat × Chunk) :=
  s.coreList.filterMap fun p => match p.2.dealq with
    | ch :: _ => if ch.clset = set then some (p.1, ch) else none
    | [] => none

/-- WORKGROUP_START: the chunk at the head of a core's deal queue starts once its rows are free; the workgroups of a
cluster set start in one step (R61, R139). -/
def execWorkgroupStart (core : Nat) : State → Host.Outcome State Fault Refusal := coreEvent fun s =>
  match (s.core core).dealq with
  | [] => s
  | ch :: _ => match s.job? ch.job with
    | none => s
    | some j =>
      let cs := if ch.setSize ≤ 1 then [(core, ch)] else s.setCores ch.clset
      let up (c : Nat) : Bool := !(s.core c).gate.gated && s.fitsNow j j.lrec false c
      if s.dealt j.vf && cs.length == max 1 ch.setSize && cs.all fun p => up p.1 then
        cs.foldl (fun s (p : Nat × Chunk) =>
          (s.modCore p.1 fun k => { k with dealq := k.dealq.tail }).startWg p.1 j p.2) s
      else s

/-! ## Completion (R108) -/

/-- JOB_COMPLETE. -/
def execJobComplete (job : Nat) : State → Host.Outcome State Fault Refusal := event fun s =>
  match s.job? job with
  | none => s
  | some j =>
    if !s.completable job j || s.futureHeld j then s
    else if j.rcount = 0 && j.refused.isNone then (s.setJob job { j with cstate := .started, startedAt := s.ref }).complete job
    else s.complete job

end Sys2Proof.Machine
end

