-- ==== Sys2Proof/Machine/Debug.lean ====
section
/-! DEFINITION. The debug block's commands (R446 to R450) and samples (R451). -/

namespace Sys2Proof.Machine

/-- The group that a command names: the function's resident group with that %gid (the lowest core and slot). -/
def State.target (s : State) (vf gid : Nat) : Option (Nat × Nat × Group) :=
  s.groupList.find? fun p => p.2.2.vf == vf && p.2.2.gid == gid && p.2.2.gstate != .retiring

/-- The result of a command, and the group that DBGSTAT describes. -/
def State.dbgResult (s : State) (vf gid res : Nat) : State := s.modVf vf fun v => { v with dbgRes := res, dbgGid := gid, dbgSeen := true }

/-- A command on a debug-stopped group: RES 2 where there is none. -/
def State.onStopped (s : State) (vf gid : Nat) (f : State → Nat → Nat → Group → State) : State :=
  match s.target vf gid with
  | none => s.dbgResult vf gid 2
  | some (c, n, g) => if g.dstop then f s c n g else s.dbgResult vf gid 2

def State.dbgHalt (s : State) (vf gid : Nat) : State :=
  match s.target vf gid with
  | none => s.dbgResult vf gid 1
  | some (c, n, g) => (if g.dstop then s else s.debugStop c n).dbgResult vf gid 0

/-- A stop ends: one instruction, or for good (R448). A breakpoint at the PC does not stop the group again. -/
def State.dbgGo (s : State) (vf gid : Nat) (step : Bool) : State := s.onStopped vf gid fun s c n _ =>
  ((s.modGroup c n fun g => { g with dstop := false, dstep := step, bpPass := some g.pc }).standUp c n).dbgResult vf gid 0

/-- R449. -/
def focusRefusal (g : Group) (lane : Nat) : Nat :=
  if !inMask g.mask lane then 4
  else if 32 ≤ g.stack.length then 3
  else if decide (0 < g.depth) && !(g.stack.any fun e => match e with
    | .rcv _ d .. => d == g.depth
    | .pnd .. => false) then 6
  else 0

/-- The lanes other than n are deferred to a pending path at the current PC; at a rejoin both paths arrive (R449). -/
def Group.setFocus (g : Group) (lane : Nat) : Group :=
  let one : LaneMask := maskOf fun l => l == lane
  { g with stack := .pnd g.pc g.depth (g.members &&& ~~~one) (g.mask &&& ~~~one) :: g.stack, members := one,
           completing := false, focus := some lane }.setMask one

/-- A command as DBGCMD writes it (R446). -/
def dbgWord (cmd gid lane : Nat) : DWord := BitVec.ofNat 64 (cmd + lane % 128 * 2 ^ 8 + gid % 2 ^ 48 * 2 ^ 16)

/-- A command of a function goes ahead, but not before one that waits. -/
def State.dbgInTurn (s : State) (vf : Nat) (value : DWord) (f : State → State) : State :=
  if (s.vf vf).late.any Late.isCommand then s.delay vf (.command value) else f s

/-- FOCUS (R449) reads the mask words, and waits for a scalar load that has still to write them (R156, R193; DEDUCED,
assumption 51). -/
def State.dbgFocus (s : State) (vf gid lane : Nat) : State := s.onStopped vf gid fun s c n g =>
  if g.spend.any fun p => decide (61 ≤ p.1) then s.delay vf (.command (dbgWord 3 gid lane)) else
  let r := focusRefusal g lane
  if r ≠ 0 then s.dbgResult vf gid r else (s.modGroup c n fun g => g.setFocus lane).dbgResult vf gid 0

def State.dbgUnfocus (s : State) (vf gid : Nat) : State := s.onStopped vf gid fun s c n _ =>
  (s.modGroup c n fun g => { g with focus := none }).dbgResult vf gid 0

/-- Uncompleted engine commands of a group by their two-level names: issuing PC and second half (R326). -/
def State.commandsOf (s : State) (core slot : Nat) : List (DWord × DWord) :=
  let k := s.core core
  ((k.copies.filter fun c => c.slot == slot).map fun c => (c.pc, c.seq.word)) ++
    (k.eng.queue.filter fun c => c.slot == slot).map fun c => (c.pc, c.seq.word)

/-- Pages of a dump: the rows of R418, then the list of commands. -/
inductive DumpPage where
  | row (r : Nat)
  | spad (r : Nat)
  | cmds (l : List (DWord × DWord))
deriving Repr

def chunks256 : Nat → List (DWord × DWord) → List (List (DWord × DWord))
  | 0, _ => []
  | n + 1, l => if l.isEmpty then [] else l.take 256 :: chunks256 n (l.drop 256)

def State.dumpPages (s : State) (core slot : Nat) (g : Group) : List DumpPage :=
  let rows := (s.core core).rowsOf g
  let spads := match s.wg? core g.wg with
    | some w => w.spadRows
    | none => 0
  let cs := s.commandsOf core slot
  (List.range rows).map .row ++ (List.range spads).map .spad ++ (chunks256 cs.length cs).map .cmds

/-- A scratchpad row of a group's context: what has been spilled, or has still to return, lies in the save area (R420, R421). -/
def State.spadRow (s : State) (core wg r : Nat) : Except SavePage (List Byte × State) :=
  match s.wg? core wg with
  | none => .ok ([], s)
  | some w =>
    let away (i : Nat) : Bool := w.spilled.contains r || w.arriving.contains (32 * r + i)
    let lines := (List.range 32).filter away
    if lines.isEmpty then .ok (w.spad.bytes (4096 * r) 4096, s)
    else match s.savePage core w.vf w.part (s.spadSave w r) false (lines.map fun i => (128 * i, 128)) with
      | .at_ pa _ s => .ok ((List.range 32).flatMap fun i =>
          if away i then s.mem.bytes (pa + 128 * i) 128 else w.spad.bytes (4096 * r + 128 * i) 128, s)
      | e => .error e

/-- The page of a row that a dump writes: a poisoned byte of a scratchpad stays poisoned (R300). -/
def State.dumpPage (s : State) (core : Nat) (g : Group) (pa : Nat) (l2 : Bool) : DumpPage → Except SavePage State
  | .row r => .ok (s.writeRow core g r pa l2 true)
  | .spad r => (s.spadRow core g.wg r).map fun x =>
      let bad := if s.poison.isEmpty then [] else (List.range 4096).filter fun i => s.poisoned (.spad core g.wg (4096 * r + i)) 1
      let t := x.2.savePut core g.vf g.part pa l2 x.1
      { t with poison := t.poison ++ bad.map (pa + ·) }
  | .cmds l => .ok (s.savePut core g.vf g.part pa l2 (l.flatMap fun (c : DWord × DWord) => wordBytes [c.1, c.2]))

/-- What stops a dump: a translation or permission failure, RES 7; or a flip that has to end first (none). -/
def SavePage.dumpRes : SavePage → Option Nat
  | .wait => none
  | _ => some 7

/-- Write the pages of a dump one after another; the first that fails ends it with RES 7. -/
def State.dumpTo (s : State) (core : Nat) (g : Group) (va : Nat) : List DumpPage → State × Option Nat
  | [] => (s, some 0)
  | p :: rest => match s.savePage core g.vf g.part va true [] with
    | .at_ pa l2 t => match t.dumpPage core g pa l2 p with
      | .ok t => t.dumpTo core g (va + 4096) rest
      | .error e => (s, e.dumpRes)
    | e => (s, e.dumpRes)

/-- DUMP (R450): the rows with what a claim has moved to the save area (R417, R421). It waits for a flip of a page (R292),
and while a page that it writes would be logged for a function that shows IDLE (R435; DEDUCED, assumption 82). -/
def State.dbgDump (s : State) (vf gid : Nat) : State := s.onStopped vf gid fun s c n g =>
  let later := s.delay vf (.command (dbgWord 6 gid 0))
  match s.rowPages c g (g.claimed.filter g.rowLive) with
  | .error (_, .wait) => later
  | .error _ => s.dbgResult vf gid 7
  | .ok (pages, t) =>
    match t.dumpTo c (g.fillRows t.mem pages) (fld (s.vr vf (dbgOfs 0x18)) 12 45 * 4096) (s.dumpPages c n g) with
    | (u, some r) => if s.logsQuietly u vf then later else u.dbgResult vf gid r
    | (_, none) => later

/-- DEBUG_HALT, DEBUG_STEP, DEBUG_FOCUS, DEBUG_UNFOCUS, DEBUG_RUN, DEBUG_DUMP (R448 to R450). -/
def execDebugHalt (vf gid : Nat) : State → Host.Outcome State Fault Refusal := hostEvent fun s =>
  s.dbgInTurn vf (dbgWord 1 gid 0) fun s => s.dbgHalt vf gid
def execDebugStep (vf gid : Nat) : State → Host.Outcome State Fault Refusal := hostEvent fun s =>
  s.dbgInTurn vf (dbgWord 2 gid 0) fun s => s.dbgGo vf gid true
def execDebugFocus (vf gid lane : Nat) : State → Host.Outcome State Fault Refusal := hostEvent fun s =>
  s.dbgInTurn vf (dbgWord 3 gid lane) fun s => s.dbgFocus vf gid lane
def execDebugUnfocus (vf gid : Nat) : State → Host.Outcome State Fault Refusal := hostEvent fun s =>
  s.dbgInTurn vf (dbgWord 4 gid 0) fun s => s.dbgUnfocus vf gid
def execDebugRun (vf gid : Nat) : State → Host.Outcome State Fault Refusal := hostEvent fun s =>
  s.dbgInTurn vf (dbgWord 5 gid 0) fun s => s.dbgGo vf gid false
def execDebugDump (vf gid : Nat) : State → Host.Outcome State Fault Refusal := hostEvent fun s =>
  s.dbgInTurn vf (dbgWord 6 gid 0) fun s => s.dbgDump vf gid

/-- A command as DBGCMD writes it (R446); others are ignored. -/
def State.dbgCommand (s : State) (vf : Nat) (v : DWord) : State := s.dbgInTurn vf v fun s =>
  let gid := fld v 16 48
  match fld v 0 4 with
  | 1 => s.dbgHalt vf gid
  | 2 => s.dbgGo vf gid true
  | 3 => s.dbgFocus vf gid (fld v 8 7)
  | 4 => s.dbgUnfocus vf gid
  | 5 => s.dbgGo vf gid false
  | 6 => s.dbgDump vf gid
  | _ => s

/-! ## Samples (R451) -/

/-- The producer for which a parked group waits: the load of its operand, the copy that fills its line, else the waiting
instruction itself (R157). -/
def State.waitsFor (s : State) (core : Nat) (g : Group) : DWord :=
  (match g.resume with
    | .operand id => (g.pends.find? fun (p : PendReq) => p.id == id).map PendReq.pc
    | .absent (.spad c w o) =>
      ((s.core core).copies.find? fun (k : CopyCmd) => k.lines.contains (c, w, o / 128)).map CopyCmd.pc
    | _ => none).getD g.waitPC

/-- What a sample says of a group: KIND, WHY, BLAME. Of a source still to arrive, a bank that holds the sources, and a port that
it has lost, the first that holds the group is named; a bank has no producer, and what BLAME then names is free (assumptions 2
and 51). -/
def State.sampleKind (s : State) (core slot : Nat) (g : Group) (free : Nat) : Nat × Nat × DWord :=
  let pc := g.pc.word
  if g.dstop then (if g.dstep then 4 else 3, 0, pc)
  else if g.resume ≠ .none then (2, g.wait.kind, s.waitsFor core g)
  else match s.producers core slot g with
    | p :: _ => (2, 0x42, p)
    | [] =>
      if g.bankAt.any fun p => p.1 == g.pc && decide (s.clock < p.2) then (2, 0x41, BitVec.ofNat 64 free)
      else match g.lostTo.filter fun _ => (s.request core slot).isSome with
        | some w => (2, 0x40, w.word)
        | none => (1, 0, pc)

/-- Write a sample record; a full ring drops it, during a flip of its page it is written afterwards (R292). -/
def State.putSample (s : State) (vf : Nat) (words : List DWord) : State :=
  let cfg := s.vr vf (dbgOfs 0x20)
  let n := fld cfg 0 5
  let prod := (s.vr vf (dbgOfs 0x28)).setWidth 32
  let va := fld cfg 5 52 * 32 + 32 * (prod.toNat % 2 ^ n)
  if (s.vf vf).late.any Late.isSample || s.fnHeld vf va then s.delay vf (.sample words)
  else if 2 ^ n ≤ (prod - (s.vr vf (dbgOfs 0x30)).setWidth 32).toNat then s
  else match s.fnWrite vf va (wordBytes words) with
    | none => s
    | some s => s.setVr vf (dbgOfs 0x28) ((prod + 1).setWidth 64)

/-- A function's sampling is on. -/
def State.sampling (s : State) (vf : Nat) : Bool := bit (s.vr vf (dbgOfs 0)) 1

/-- The operator's copy of a sample as its class's level allows (R440, R451): in the physical function's own ring, while that
function's sampling is on (DESIGN CHOICE, assumption 97). -/
def State.copySample (s : State) (vf cls : Nat) (whole shown : List DWord) : State :=
  if vf = pfn then s
  else match s.level vf cls, s.sampling pfn with
    | 3, true => s.putSample pfn whole
    | 2, _ => s.owe vf cls
    | 1, true => match s.coarseDue vf cls with
      | some s => s.putSample pfn shown
      | none => s
    | _, _ => s

/-- The record of a sample of a group, for its function and for the operator: stalls are of class STALL, others of TRACE. -/
def State.recordSample (s : State) (core slot : Nat) (g : Group) : State :=
  let (v, s) := s.free
  let (kind, why, blame) := s.sampleKind core slot g v
  let w0 := BitVec.ofNat 64 (kind + why * 2 ^ 8 + slot * 2 ^ 16 + core * 2 ^ 22 + s.ref / 1000 % 2 ^ 32 * 2 ^ 32)
  (s.putSample g.vf [w0, g.pc.word, blame, 0]).copySample g.vf (if kind = 2 then 2 else 3) [w0, g.pc.word, blame, 0]
    [w0, g.entryB, g.entryB, 0]

/-- The group that an active slot shows to a sample: the one that holds it, or of a free slot the debug-stopped group that
left it (R451). -/
def State.shown (s : State) (core act : Nat) : Option (Nat × Group) :=
  let k := s.core core
  match k.active[act]! with
  | some n => (s.group? core n).map fun g => (n, g)
  | none => (k.left[act]!).bind fun n => ((s.group? core n).filter fun g => g.dstop).map fun g => (n, g)

/-- A function's sampling of a core takes an active slot: the next in its rotation, once a period of 2^SLOG2 clocks has passed since
the last (R451). -/
def State.sampleDue (s : State) (core act vf : Nat) : Bool :=
  let k := s.core core
  s.sampling vf && nget 0 k.sampleTurn vf % 8 == act &&
    decide (nget 0 k.sampleAt vf + 2 ^ fld (s.vr vf (dbgOfs 0)) 16 5 ≤ s.clock)

def State.takeSample (s : State) (core act vf : Nat) : State :=
  let s := s.modCore core fun k =>
    { k with sampleTurn := nset 0 k.sampleTurn vf ((act + 1) % 8), sampleAt := nset 0 k.sampleAt vf s.clock }
  match s.shown core act with
  | some (n, g) => if g.vf = vf then s.recordSample core n g else s
  | none => s

/-- INSTRUCTION_SAMPLE: each function that samples and has come to this slot takes it. -/
def execInstructionSample (core act : Nat) : State → Host.Outcome State Fault Refusal := coreEvent fun s =>
  if 8 ≤ act then s
  else (List.range 257).foldl (fun s vf => if s.sampleDue core act vf then s.takeSample core act vf else s) s

end Sys2Proof.Machine
end

