-- ==== Sys2Proof/Machine/Engine.lean ====
section
/-! DEFINITION. What the matrix engine's commands do when they run (R348 to R351, R366 to R373, R378, R388, R389): the
window (R36 to R38), steps, loads, drains (R41), merges; and the events that start, complete and drain them. -/

namespace Sys2Proof.Machine

/-! ## The window (R36 to R39) -/

def winMax : Int := ((2 ^ 191 : Nat) : Int) - 1
def winMin : Int := -((2 ^ 191 : Nat) : Int)

/-- One product arrives at a cell under anchor A (R37, R38). -/
def Cell.add (A : Int) (c : Cell) (p : FVal) : Cell :=
  match p with
  | .nan _ => { c with S := 0, H := true }
  | .inf n =>
    if !c.H then { c with S := if n then winMin else winMax, H := true }
    else if (n && decide (0 < c.S)) || (!n && decide (c.S < 0)) then { c with S := 0 } else c
  | .fin n m e =>
    if c.H then c
    else
      let x := signed n m
      let v := c.S + shiftFloor x (e - A)
      let L := c.L || !shiftExact x (e - A)
      if winMax < v then { c with S := winMax, L := L, H := true }
      else if v < winMin then { c with S := winMin, L := L, H := true }
      else { c with S := v, L := L }

/-- The order in which some things happen: free, and the same for the same inputs (R44, assumption 45). -/
def shuffle {α : Type} (inputs : List Int) (l : List α) : List α :=
  (l.foldl (fun (r : Nat × List α) x =>
    (r.1 + 1, r.2.insertIdx (Config.inputOrder inputs r.1 % (r.1 + 1)) x)) (0, [])).2

/-- A value as numbers. -/
def FVal.key : FVal → List Int
  | .nan n => [2, if n then 1 else 0]
  | .inf n => [3, if n then 1 else 0]
  | .fin n m e => [if n then 1 else 0, m, e]

/-- The sums of the positive and of the negative contributions, and whether one is floored; none where a product is not
finite. -/
def contributions (A : Int) (ps : List FVal) : Option (Int × Int × Bool) :=
  ps.foldl (fun r p => match r, p with
    | some (a, b, l), .fin n m e =>
      let x := signed n m
      let v := shiftFloor x (e - A)
      some (if 0 < v then a + v else a, if v < 0 then b + v else b, l || !shiftExact x (e - A))
    | _, _ => none) (some (0, 0, false))

/-- All products of a step arrive at a cell, in no particular order (R40, R348): where no order of them can leave the
window, their sum; else in an order that is free, a function of the cell and the products (R44). -/
def Cell.addAll (A : Int) (c : Cell) (ps : List FVal) : Cell :=
  let inOrder := (shuffle ([A, c.S, if c.H then 1 else 0] ++ ps.flatMap FVal.key) ps).foldl (Cell.add A) c
  match c.H, contributions A ps with
  | false, some (a, b, l) =>
    if c.S + a ≤ winMax ∧ winMin ≤ c.S + b then { c with S := c.S + a + b, L := c.L || l } else inOrder
  | _, _ => inOrder

/-- floor(log2 |p|) of a finite nonzero value. -/
def leadOf : FVal → Option Int
  | .fin _ m e => if m = 0 then none else some (leadExp m e)
  | _ => none

/-- The auto-anchor for some values; none while every one is zero or not finite (R39). -/
def autoAnchor (ps : List FVal) : Option Int :=
  ((ps.filterMap leadOf).max?).map fun h => max (-512) (min 511 (h - 140))

/-- An E8M0 scale (R33). -/
def scaleVal (b : Nat) : FVal := if b = 255 then .nan false else .fin false 1 ((b : Int) - 127)

/-! ## What a command reads (R372) -/

/-- The stretches of scratchpad that a command reads. -/
def ECmd.reads (k : ECmd) : List Stretch :=
  match k.op with
  | .step count _ fb kappa b =>
    (b, 0, 3840) :: (if count then [] else scaleStretches false fb kappa (stepDepth (fmtElem (fbA fb))))
  | .steps count fb kappa cnt a b ai bi =>
    stepStretches a b ai bi cnt ++
      (if count then [] else scaleStretches false fb kappa (cnt * stepDepth (fmtElem (fbA fb))))
  | .load fb rw a => regionStretches k.mode (fmtElem (fbA fb)) (regionOf rw) (fbBt fb) a
  | .merge run => run.stretches
  | _ => []

def spadKey (x : Nat × Nat × Nat) : Nat := locKey (.spad x.1 x.2.1 (128 * x.2.2)) / 128

/-- Bytes from a window address on, as the command sees them: a line it has read, or the scratchpad. -/
def State.engByte (s : State) (core : Nat) (k : ECmd) (a : DWord) (d : Int) : Nat → Nat :=
  match s.engWin core k.wg a with
  | none => fun _ => 0
  | some (x, w, o) =>
    let st := ((o : Int) + d).toNat
    let mem : Mem := match s.wg? x w with
      | some g => g.spad
      | none => []
    fun i =>
      let p := st + i
      match nfind k.lines (spadKey (x, w, p / 128)) with
      | some l => (l.getD (p % 128) 0).toNat
      | none => (mem.get p).toNat

/-- Element e of a format in some bytes. -/
def elemOf (bytes : Nat → Nat) (w e : Nat) : Nat :=
  if w = 4 then bytes (e / 2) / 16 ^ (e % 2) % 16
  else (List.range (w / 8)).foldl (fun a i => a + bytes (w / 8 * e + i) * 256 ^ i) 0

/-- Element (m, k) of a fragment (R361). -/
def fragElem (ws : List Word) (w d m k : Nat) : Nat :=
  let h := if d / 2 ≤ k then 1 else 0
  let r := k - h * (d / 2)
  elemNat w (r % (32 / w)) (ws.getD (6 * (m + 48 * h) + r / (32 / w)) 0)

/-- Index of B[k][n] (R362). -/
def bIndex (bt : Bool) (d k n : Nat) : Nat := if bt then d * n + k else 80 * k + n

/-- The scale factor of a row or column at a global K index. -/
def State.engScale (s : State) (core : Nat) (k : ECmd) (code so rows i kk : Nat) : FVal :=
  if code = 0 then .fin false 1 0
  else scaleVal (s.engByte core k spadVa ((16 * so + rows * blockAt false code kk + i : Nat) : Int) 0)

/-! ## Steps (R348, R378) -/

/-- The operands of one step: codes of A and of B. -/
structure StepIn where
  a : Nat → Nat → Nat
  b : Nat → Nat → Nat

/-- The exact products that reach cell (m, n). -/
def State.products (s : State) (core : Nat) (k : ECmd) (fb : DWord) (kappa : Nat) (x : StepIn) (m n : Nat) : List FVal :=
  let ea := fmtElem (fbA fb)
  let eb := fmtElem (fbB fb)
  (List.range (stepDepth ea)).map fun i =>
    let p := (mulVal (ea.decode (x.a m i)) (eb.decode (x.b i n))).1
    let sc := (mulVal (s.engScale core k (fbAbl fb) (fbAso fb) 48 m (kappa + i))
                      (s.engScale core k (fbBbl fb) (fbBso fb) 80 n (kappa + i))).1
    (mulVal p sc).1

/-- Every cell of a tile through a function of row, column and cell. -/
def mapCells (f : Nat → Nat → Cell → Cell) (cells : NMap Cell) : NMap Cell :=
  (List.range 3840).filterMap fun i =>
    let c := f (i / 80) (i % 80) (nget {} cells i)
    if c = {} then none else some (i, c)

/-- A step of an EXACT tile. -/
def State.stepExact (s : State) (core : Nat) (k : ECmd) (fb : DWord) (kappa : Nat) (x : StepIn) (t : Tile) : Tile :=
  let ps := s.products core k fb kappa x
  let auto := if k.anchor.isSome || t.auto.isSome then t.auto
    else autoAnchor ((List.range 3840).flatMap fun i => ps (i / 80) (i % 80))
  let A := (k.anchor.or auto).getD 0
  { t with auto := auto, cells := mapCells (fun m n c => c.addAll A (ps m n)) t.cells }

/-- A counting step. -/
def stepCount (fb : DWord) (x : StepIn) (t : Tile) : Tile :=
  let el := fmtElem (fbA fb)
  { t with cells := mapCells (fun m n c =>
      (List.range 96).foldl (fun c i => c.tally el (nibInt el (x.a m i) * nibInt el (x.b i n))) c) t.cells }

def State.stepOne (s : State) (core : Nat) (k : ECmd) (count : Bool) (fb : DWord) (kappa : Nat) (x : StepIn) : State :=
  s.modTile core k.tile fun t => if count then stepCount fb x t else s.stepExact core k fb kappa x t

/-- B of a step at an address. -/
def State.stepB (s : State) (core : Nat) (k : ECmd) (fb b : DWord) : Nat → Nat → Nat :=
  let el := fmtElem (fbB fb)
  let by' := s.engByte core k b 0
  fun i n => elemOf by' el.width (bIndex (fbBt fb) (stepDepth el) i n)

def State.runStep (s : State) (core : Nat) (k : ECmd) (count : Bool) (a : List Word) (fb : DWord) (kappa : Nat)
    (b : DWord) : State :=
  let el := fmtElem (fbA fb)
  s.stepOne core k count fb kappa ⟨fragElem a el.width (stepDepth el), s.stepB core k fb b⟩

def State.runSteps (s : State) (core : Nat) (k : ECmd) (count : Bool) (fb : DWord) (kappa cnt : Nat) (a b : DWord)
    (ai bi : Int) : State :=
  let el := fmtElem (fbA fb)
  let d := stepDepth el
  (List.range cnt).foldl (fun (s : State) (q : Nat) =>
    let by' := s.engByte core k (stepAddr a ai q) 0
    s.stepOne core k count fb (kappa + q * d)
      ⟨fun m i => elemOf by' el.width (d * m + i), s.stepB core k fb (stepAddr b bi q)⟩) s

/-! ## ACLR, ALD, MMRG (R366, R368, R388) -/

/-- The cell that a loaded element makes. -/
def loadCell (mode : TMode) (el : Elem) (A : Int) (code : Nat) : Cell :=
  match mode with
  | .real32 => { re := wordOfNat (fp32.ofVal .rne (el.decode code)).1 }
  | .cplx32 => { re := wordOfNat code, im := wordOfNat (code / 2 ^ 32) }
  | _ => Cell.add A {} (el.decode code)

def State.runLoad (s : State) (core : Nat) (k : ECmd) (fb rw a : DWord) : State :=
  let r := regionOf rw
  let el := fmtElem (fbA fb)
  let w := elemBits k.mode el
  let at' (i j : Nat) : Nat :=
    let (l, e) := linePos (fbBt fb) i j
    elemOf (s.engByte core k a ((l * r.lstr : Nat) : Int)) w e
  let ij := (List.range r.h).flatMap fun i => (List.range r.w).map fun j => (i, j)
  let auto := if k.mode = .exact ∧ k.anchor.isNone then autoAnchor (ij.map fun p => el.decode (at' p.1 p.2)) else none
  let A := (k.anchor.or auto).getD 0
  let cells := ij.foldl (fun (m : NMap Cell) p =>
    nset {} m (80 * permute r.rdig p.1 + permute r.cdig p.2) (loadCell k.mode el A (at' p.1 p.2))) []
  s.modTile core k.tile fun t => { t with cells := cells, auto := auto }

/-- The merged term of a cell: exact, or NaN by a scale (R388). -/
def State.mergeTerm (s : State) (core : Nat) (k : ECmd) (run : Run) (m n : Nat) (c : Cell) : FVal :=
  let sc (code so rows j i : Nat) : FVal :=
    if code = 0 then .fin false 1 0 else scaleVal (s.engByte core k spadVa ((16 * so + rows * j + i : Nat) : Int) 0)
  let el := fmtElem (fbA run.fb)
  let x := c.total el
  let v : FVal := .fin (decide (x < 0)) x.natAbs (classExp el)
  (mulVal v (mulVal (sc (fbAbl run.fb) (fbAso run.fb) 48 run.jA m) (sc (fbBbl run.fb) (fbBso run.fb) 80 run.jB n)).1).1

def State.runMerge (s : State) (core : Nat) (k : ECmd) (run : Run) : State :=
  if run.depth = 0 then s
  else
    let t := s.tile core k.tile
    let term (m n : Nat) (c : Cell) : FVal := s.mergeTerm core k run m n c
    let auto := if k.anchor.isSome || t.auto.isSome then t.auto
      else autoAnchor ((List.range 3840).map fun i => term (i / 80) (i % 80) (nget {} t.cells i))
    let A := (k.anchor.or auto).getD 0
    s.modTile core k.tile fun t =>
      { t with auto := auto, cells := mapCells (fun m n c => { c.add A (term m n c) with cnt := 0 }) t.cells }

/-! ## Drains (R41, R369, R371) -/

/-- The exact value of a cell; an H cell is an infinity of its sign, or a NaN (R41). -/
def cellVal (mode : TMode) (A : Int) (c : Cell) : FVal :=
  match mode with
  | .real32 | .cplx32 => fp32.decode c.re.toNat
  | _ => if c.H then (if c.S = 0 then .nan false else .inf (decide (c.S < 0)))
         else .fin (decide (c.S < 0)) c.S.natAbs A

/-- The drain of a cell with H set (R41). -/
def drainFrozen (el : Elem) (sat opt : Bool) (c : Cell) : Nat × Flags :=
  let neg := decide (c.S < 0)
  let ieee (f : FFmt) : Nat := (if neg then f.signBit else 0) + (if sat then f.maxBits else f.infBits)
  if c.S = 0 then
    (match el with
      | .f32 => fp32.nanBits
      | .f16 => fp16.nanBits
      | .bf16 => bfp16.nanBits
      | .e4m3 => 0x7F
      | .d8 => 0x80
      | _ => 0, flNV)
  else
    (match el with
      | .f32 => ieee fp32
      | .f16 => ieee fp16
      | .bf16 => ieee bfp16
      | .e4m3 => if opt then 0x7F else (if neg then 0xFE else 0x7E)
      | .d8 => if opt then 0x80 else (if neg then 0x81 else 0x01)
      | _ => if neg then 0xF else 0x7, flOF ||| flNX)

/-- A cell in a target format, against a scale byte (127 is the factor 1). -/
def drainCell (mode : TMode) (el : Elem) (sat opt : Bool) (A : Int) (scale : Nat) (c : Cell) : Nat × Flags :=
  if mode ≠ .real32 ∧ c.H then drainFrozen el sat opt c
  else
    let (r, f) := el.encode .rne opt (scaleDown scale (cellVal mode A c))
    (r, f ||| (if mode ≠ .real32 ∧ c.L then flNX else 0))

/-- A drained line: the codes, their flags and the scale bytes of its blocks. -/
def drainLine (mode : TMode) (el : Elem) (sat opt : Bool) (A : Int) (blocks : Nat) (cs : List Cell) :
    List Nat × Flags × List Nat :=
  let per := if blocks = 0 then cs.length else cs.length / blocks
  (List.range (max 1 blocks)).foldl (fun (r : List Nat × Flags × List Nat) b =>
    let mine := (cs.drop (b * per)).take per
    let scale := if blocks = 0 then 127
      else scaleByte el ((mine.map (cellVal mode A)).foldl maxMag (.fin false 0 0))
    let out := mine.map (drainCell mode el sat opt A scale)
    (r.1 ++ out.map (·.1), out.foldl (fun a p => a ||| p.2) r.2.1, if blocks = 0 then r.2.2 else r.2.2 ++ [scale]))
    ([], 0, [])

/-- Codes of w bits as bytes, low first. -/
def packCodes (w : Nat) : List Nat → List Byte
  | [] => []
  | [a] => if w = 4 then [BitVec.ofNat 8 a] else leBytes (w / 8) a
  | a :: b :: r => if w = 4 then BitVec.ofNat 8 (a % 16 + 16 * b) :: packCodes w r else leBytes (w / 8) a ++ packCodes w (b :: r)

/-- Bytes at a place: core, workgroup, offset. -/
abbrev ByteAt := Nat × Nat × Nat × Byte

def bytesAt (x w o : Nat) (l : List Byte) : List ByteAt :=
  ((List.range l.length).zip l).map fun p => (x, w, o + p.1, p.2)

/-- The cell that stands at a place of the region's memory image (R369). -/
def regionCell (r : Region) (bt : Bool) (cells : NMap Cell) (line e : Nat) : Cell :=
  let (i', j') := linePos bt line e
  match (List.range r.h).find? fun i => permute r.rdig i == i', (List.range r.w).find? fun j => permute r.cdig j == j' with
  | some i, some j => nget {} cells (80 * i + j)
  | _, _ => {}

/-- What a drain writes, byte by byte, and its flags. Lines that overlap are written in an order that is free, a function of
what they hold (R44, assumption 45); the scale bytes follow them. -/
def State.drainOut (s : State) (core : Nat) (k : ECmd) (fb rw a : DWord) (opts : BitVec 6) : List ByteAt × Flags :=
  let r := regionOf rw
  let bt := fbBt fb
  let el := fmtElem (fbA fb)
  let t := s.tile core k.tile
  let A := (k.anchor.or t.auto).getD 0
  let opt := if el = .d8 then fbSd8 fb else opts.getLsbD 2
  let blocks := scaleBlocks fb r
  let one (l : Nat) : List Byte × Flags × List Nat :=
    let cs := (List.range (r.along bt)).map fun e => regionCell r bt t.cells l e
    if k.mode = .cplx32 then (cs.flatMap fun c => leBytes 4 c.re.toNat ++ leBytes 4 c.im.toNat, 0, [])
    else
      let (codes, f, sc) := drainLine k.mode el (opts.getLsbD 1) opt A blocks cs
      (packCodes el.width codes, f, sc)
  match s.engWin core k.wg a with
  | none => ([], 0)
  | some (x, w, o) =>
    let ls := (List.range (r.lines bt)).map fun l => (l, one l)
    let order := if r.lstr < lineBytes k.mode el r bt
      then shuffle (fb.toInt :: rw.toInt :: ls.flatMap fun p => p.2.1.map fun b => (b.toNat : Int)) ls else ls
    let elems := order.flatMap fun p => bytesAt x w (o + p.1 * r.lstr) p.2.1
    let scales := ls.flatMap fun p => ((List.range blocks).zip p.2.2.2).map fun q =>
      (core, k.wg, 16 * fbAso fb + (if bt then 80 else 48) * q.1 + p.1, BitVec.ofNat 8 q.2)
    (elems ++ scales, ls.foldl (fun f p => f ||| p.2.2.1) 0)

/-- Write the bytes of some lines of a drain, and land those lines (R369, R280). -/
def State.drainLand (s : State) (core id : Nat) (out : List ByteAt) (ls : List (Nat × Nat × Nat)) : State :=
  let s := (out.filter fun p => ls.contains (p.1, p.2.1, p.2.2.1 / 128)).foldl
    (fun s p => s.putLoc (.spad p.1 p.2.1 p.2.2.1) [p.2.2.2]) s
  let s := ls.foldl (fun s x => s.dueLine x false) s
  (s.modEng core fun e => { e with queue := e.queue.map fun k =>
    if k.id = id then { k with due := k.due.filter fun x => !ls.contains x } else k }).noteWaits

/-! ## Starting and completing (R351, R372) -/

def State.ecmd? (s : State) (core id : Nat) : Option ECmd := (s.eng core).queue.find? fun k => k.id == id
def State.modEcmd (s : State) (core id : Nat) (f : ECmd → ECmd) : State :=
  s.modEng core fun e => { e with queue := e.queue.map fun k => if k.id = id then f k else k }

/-- Earlier commands of the queue. -/
def Engine.before (e : Engine) (id : Nat) : List ECmd := e.queue.takeWhile fun k => k.id != id

/-- No earlier command names the tile, and every earlier command of the path has completed (R351). ADRV keeps the
per-tile order alone. -/
def Engine.mayStart (e : Engine) (k : ECmd) : Bool :=
  (e.before k.id).all fun p =>
    p.tile != k.tile && (k.op.lanesDrain || p.op.lanesDrain || p.arrayPath != k.arrayPath)

/-- The lines that a command reads. -/
def State.readLines (s : State) (core : Nat) (k : ECmd) : List (Nat × Nat × Nat) := s.stretchLines core k.wg k.reads

def lineLoc (x : Nat × Nat × Nat) : Loc := .spad x.1 x.2.1 (128 * x.2.2)

/-- The command reads a line, if it is present and holds no poison. -/
def State.engRead (s : State) (core : Nat) (k : ECmd) (x : Nat × Nat × Nat) : State :=
  if s.absentLine (lineLoc x) || s.poisoned (lineLoc x) 128 || (nfind k.lines (spadKey x)).isSome then s
  else s.modEcmd core k.id fun k => { k with lines := nins k.lines (spadKey x) (s.readLoc (lineLoc x) 128) }

/-- Lines that a drain may land now: no earlier command still has data to land there (R280). -/
def State.mayLand (s : State) (core : Nat) (k : ECmd) (x : Nat × Nat × Nat) : Bool := !s.earlierDue core k.id x

/-- ENGINE_COMMAND_START (R351): a command reads the lines named by their places among those it reads (R372), starts
where its path and its tile allow, and, where it drains, lands the lines named by their places among those it still has
to write. -/
def execEngineCommandStart (core cmd : Nat) (early : List Nat) : State → Host.Outcome State Fault Refusal := coreEvent fun s =>
  match s.ecmd? core cmd with
  | none => s
  | some k =>
    let s := early.foldl (fun s i => match (s.readLines core k)[i]?, s.ecmd? core cmd with
      | some x, some k => s.engRead core k x
      | _, _ => s) s
    if !(s.eng core).mayStart k || k.op.lanesDrain then s
    else
      let s := s.modEcmd core cmd fun k => { k with started := true }
      match k.op with
      | .drain fb rw a opts =>
        let ls := (early.filterMap fun i => k.due[i]?).eraseDups.filter (s.mayLand core k)
        s.drainLand core cmd (s.drainOut core k fb rw a opts).1 ls
      | _ => s

/-- The effect of a command on its tile and on memory, with its flags. -/
def State.engRun (s : State) (core : Nat) (k : ECmd) : State × Flags :=
  match k.op with
  | .step count a fb kappa b => (s.runStep core k count a fb kappa b, 0)
  | .steps count fb kappa cnt a b ai bi => (s.runSteps core k count fb kappa cnt a b ai bi, 0)
  | .clear _ => (s.modTile core k.tile fun t => { t with cells := [], auto := none }, 0)
  | .load fb rw a => (s.runLoad core k fb rw a, 0)
  | .drain fb rw a opts =>
    let (out, fl) := s.drainOut core k fb rw a opts
    let s := s.drainLand core k.id out k.due
    (if opts.getLsbD 0 then s.modTile core k.tile fun t => { t with cells := [] } else s, fl)
  | .drainLanes .. => (s, 0)
  | .merge run => (s.runMerge core k run, 0)
  | .empty => (s.modTile core k.tile fun t =>
      { t with cells := t.cells.filterMap fun p =>
          let c : Cell := { p.2 with cnt := 0 }
          if c = {} then none else some (p.1, c) }, 0)
  | .stages ds =>
    let (cells, fl) := stagesRun k.mode k.height k.width (s.tile core k.tile).cells ds
    (s.modTile core k.tile fun t => { t with cells := cells }, fl)

/-- The clocks a stage holds the array for (R385). -/
def stageClocks (d : DWord) : Nat :=
  match stKind d with
  | 0 => 2
  | 1 => 3
  | 2 => 3
  | 3 => 5
  | 4 => 2
  | _ => 2 ^ (stHn d + 1)

/-- The clocks a command holds the array for (R352, R385). -/
def EOp.arrayClocks : EOp → Nat
  | .step .. => 3
  | .steps _ _ _ cnt _ _ _ _ => 3 * cnt
  | .merge _ => 8
  | .stages ds => (ds.map fun p => stageClocks p.1).sum
  | _ => 0

/-- A command leaves the engine (R325, R357, R370). -/
def State.engRetire (s : State) (core : Nat) (k : ECmd) (fl : Flags) : State :=
  let s := s.modEng core fun e => ({ e with queue := e.queue.filter fun p => p.id != k.id }).settleTile k.tile
  s.modGroup core k.slot fun g =>
    { g with t1 := g.t1.finish k.id, csr := { g.csr with engflags := g.csr.engflags ||| fl } }

/-- What a command still waits for: a line that is absent, a line of its own not yet to land, or a halted group's run
(R372, R280, R419). -/
def State.engHeld (s : State) (core : Nat) (k : ECmd) : Bool :=
  ((s.readLines core k).any fun x => (nfind k.lines (spadKey x)).isNone && s.absentLine (lineLoc x)) ||
  (k.due.any fun x => !s.mayLand core k x) ||
  (match k.op with
    | .clear (some (b, n)) => s.tileHalted core b == some n
    | _ => false)

/-- A line of poisoned data that a command would read (R300). -/
def State.engPoison (s : State) (core : Nat) (k : ECmd) : Option (Nat × Nat × Nat) :=
  (s.readLines core k).find? fun x => (nfind k.lines (spadKey x)).isNone && s.poisoned (lineLoc x) 128

/-- ENGINE_COMMAND_COMPLETE (R352, R351); its clocks on the array count as it completes (R413, assumption 77). -/
def execEngineCommandComplete (core cmd : Nat) : State → Host.Outcome State Fault Refusal := coreEvent fun s =>
  match s.ecmd? core cmd with
  | none => s
  | some k =>
    if !k.started || s.engHeld core k then s
    else match s.engPoison core k with
      | some _ =>
        let s := match s.ctxOf core k.slot with
          | some c => s.engineFault core k.slot
              (engineRecord s 6 c.g.vf c.g.part k.pc k.seq.word k.lanes c.card k.entryB)
          | none => s
        s.engRetire core k 0
      | none =>
        let (s, fl) := s.engRun core k
        let s := match s.group? core k.slot with
          | some g => s.count core g.vf 0x0D k.op.arrayClocks
          | none => s
        s.engRetire core k fl

/-- The cell that lane L receives in slot j (R371). -/
def adrvCell (l j : Nat) : Nat := 80 * (l % 48) + 40 * (l / 48) + j

/-- The drained value of a cell for ADRV. -/
def adrvVal (k : ECmd) (A : Int) (sat : Bool) (c : Cell) : Nat × Flags :=
  if k.mode = .real32 then (c.re.toNat, 0) else drainCell k.mode .f32 sat false A 127 c

/-- The lanes' frames and flags with what an ADRV drains (R371, R41). -/
def Group.drainTo (g : Group) (k : ECmd) (val : Nat → Nat → Nat × Flags) : Group :=
  let word (l j : Nat) : Val := .word (wordOfNat (val l j).1)
  let g := { g with lanes := g.lanes.mapFinIdx fun i l _ => { l with act := l.act.land k.id (word i) }
                    rets := g.rets.map fun (r : RetRec) => r.landLanes k.id word
                    pends := g.pends.filter fun p => p.id != k.id }
  g.modLanes k.lanes fun l ln =>
    { ln with flags := (List.range 40).foldl (fun f j => f ||| (val l.val j).2) ln.flags }

/-- Values and flags of an ADRV reach the lanes of the group that issued it, while it is there; a value of zero is a
suppressed write (R160). -/
def State.adrvRun (s : State) (core : Nat) (k : ECmd) (sat : Bool) : State :=
  let t := s.tile core k.tile
  let A := (k.anchor.or t.auto).getD 0
  let val (l j : Nat) : Nat × Flags := adrvVal k A sat (nget {} t.cells (adrvCell l j))
  match s.group? core k.slot with
  | none => s
  | some g =>
    if !(g.pends.any fun p => p.id == k.id) then s
    else
      let zeros := (lanesOf k.lanes).foldl (fun n l =>
        n + ((List.range 40).filter fun j => (val l.val j).1 == 0).length) 0
      (s.count core g.vf 5 zeros).setGroup core k.slot (g.drainTo k val)

/-- ADRV_DRAIN (R371): once every earlier command of the tile has completed. -/
def execAdrvDrain (core cmd : Nat) : State → Host.Outcome State Fault Refusal := coreEvent fun s =>
  match s.ecmd? core cmd with
  | none => s
  | some k => match k.op with
    | .drainLanes _ sat =>
      if (s.eng core).mayStart k then (s.adrvRun core k sat).engRetire core k 0 else s
    | _ => s

end Sys2Proof.Machine
end

