-- ==== Sys2Proof/Machine/Faults.lean ====
section
/-! DEFINITION. What a function's driver does about translation: replays of page faults (R298, R299), flips of a page's
bias (R292, R293), and TLB invalidation (R296). -/

namespace Sys2Proof.Machine

/-! ## Replays (R298, R299) -/

/-- Groups that wait on an outstanding record show its sequence number. -/
def State.showSeq (s : State) (fn : Nat) (key : Nat × Nat × Nat × Nat) (q : BitVec 32) : State :=
  { s with cores := s.cores.map fun k =>
      { k with groups := k.groups.map fun p =>
          (p.1, if p.2.wait.kind = 0x0F ∧ (p.2.backMiss = some (fn, key) ∨ p.2.backMiss = none ∧ p.2.miss = some (fn, key))
                then { p.2 with wait := { p.2.wait with val := q.setWidth 64 } } else p.2) } }

/-- Withheld records are written, in order, while the ring takes them; one that it does not take sets OVF (R299). -/
def State.retryFq (s : State) (fn : Nat) : List FqEntry → State
  | [] => s
  | e :: r => match s.fqWrite fn e with
    | none => s.fqRefused fn
    | some (q, s) =>
      ((s.modVf fn fun v =>
        { v with fq := v.fq.map fun x => if x.key = e.key ∧ x.seq = none then { x with seq := some q } else x }).showSeq
          fn e.key q).retryFq fn r

def State.retryWithheld (s : State) (fn : Nat) : State := s.retryFq fn ((s.vf fn).fq.filter fun e => e.seq.isNone)

/-- A record's SEQ is at or before a value (R298). -/
def seqBefore (value q : BitVec 32) : Bool := decide ((value - q).toNat < 2 ^ 31)

/-- A group's own replay, and that of a read of its save area, after which its own wait record stands again. -/
def Group.unhold (g : Group) (on : Option (Nat × Nat × Nat × Nat × Nat) → Bool) : Group :=
  let g := if on g.backMiss then { g with wait := g.ownWait, ownWait := {}, backMiss := none } else g
  if g.wait.kind = 0x0F ∧ on g.miss then { g with waitDone := true, miss := none } else g

/-- Accesses that wait on records with these keys go ahead: parked groups, reads of save areas, held copies, held
frames. -/
def State.releaseKeys (s : State) (fn : Nat) (keys : List (Nat × Nat × Nat × Nat)) : State :=
  let on (m : Option (Nat × Nat × Nat × Nat × Nat)) : Bool := match m with
    | some (f, k) => f == fn && keys.contains k
    | none => false
  { s with
    cores := s.cores.map fun k =>
      { k with
        groups := k.groups.map fun p => (p.1, p.2.unhold on)
        wgs := k.wgs.map fun p => (p.1, if on p.2.hold then { p.2 with hold := none } else p.2)
        copies := k.copies.map fun c => if on c.hold then { c with hold := none } else c }
    frames := s.frames.map fun f => if on f.hold then { f with hold := none } else f }

/-- A write of RESUME. -/
def State.faultResume (s : State) (fn : Nat) (seq : BitVec 32) : State :=
  let old (e : FqEntry) : Bool := match e.seq with
    | some q => seqBefore seq q
    | none => false
  let l := (s.vf fn).fq
  let s := s.modVf fn fun v => { v with fq := l.filter fun e => !old e }
  (s.releaseKeys fn ((l.filter old).map (·.key))).retryWithheld fn

/-- FAULT_RESUME (R298). -/
def execFaultResume (fn : Nat) (seq : BitVec 32) : State → Host.Outcome State Fault Refusal := hostEvent fun s =>
  s.faultResume fn seq

/-- A write of FQCONS. -/
def State.fqcons (s : State) (fn : Nat) (value : BitVec 32) : State :=
  (s.setVr fn 0x5010 (value.setWidth 64)).retryWithheld fn

/-- FQCONS_WRITE (R299). -/
def execFqconsWrite (fn : Nat) (value : BitVec 32) : State → Host.Outcome State Fault Refusal := hostEvent fun s =>
  s.fqcons fn value

/-! ## Flips of bias (R292, R293) -/

/-- RESULT of a flip of a page of the function's stage-2 input, with its physical page. The physical function has no
stage 2, so no page of its own is host-shared (DEDUCED, assumption 23). -/
def State.flipPage (s : State) (vf ipa : Nat) : Nat × Nat :=
  if vf = pfn then (1, 0)
  else match walk2 s vf ipa with
    | .leaf l _ => (if l.ent / 2 ^ 8 % 4 = 1 then 0 else 1, l.pa / 4096)
    | _ => (2, 0)

/-- A write of PAGE and TARGET starts a flip; it is ignored while one is in progress. -/
def State.startFlip (s : State) (vf : Nat) (page : DWord) (toHost : Bool) : State :=
  if (s.vf vf).flip.isSome then s
  else
    let ipa := fld page 12 40 * 4096
    let (r, p) := s.flipPage vf ipa
    let s := if vf = pfn then s else s.touch2 vf ipa false 2
    s.modVf vf fun v => { v with flip := some (p, toHost, r) }

/-- BIAS_FLIP_TO_DEVICE (R292). -/
def execBiasFlipToDevice (vf : Nat) (page : DWord) : State → Host.Outcome State Fault Refusal := hostEvent fun s =>
  s.startFlip vf page false

/-- BIAS_FLIP_TO_HOST (R292). -/
def execBiasFlipToHost (vf : Nat) (page : DWord) : State → Host.Outcome State Fault Refusal := hostEvent fun s =>
  s.startFlip vf page true

/-- BIAS_FLIP_COMPLETE (R293): once no access to the page is in flight; a flip to host bias drops its lines. -/
def execBiasFlipComplete (vf : Nat) : State → Host.Outcome State Fault Refusal := event fun s => s.endFlip vf

/-! ## Invalidation (R296) -/

/-- Entries of a context that overlap n pages from an address leave every TLB. -/
def State.dropTlb (s : State) (vf : Nat) (r : Nat × Nat) : State :=
  let keep (e : TlbEntry) : Bool := !(e.ctx == vf && decide (e.va < r.1 + 4096 * r.2) && decide (r.1 < e.va + e.size))
  { s with cores := s.cores.map fun k => { k with tlb := k.tlb.filter keep }
           dies := s.dies.map fun d => { d with tlb := d.tlb.filter keep } }

/-- Every page of a window. -/
def everyPage : Nat × Nat := (0, 2 ^ 45)

/-- The entries may be dropped as soon as the write is made; a free value says whether they are (assumption 2). -/
def State.dropSome (s : State) (vf : Nat) (r : Nat × Nat) : State :=
  let (v, s) := s.free
  if v % 2 = 0 then s else s.dropTlb vf r

def State.invalidate (s : State) (vf : Nat) (r : Nat × Nat) : State :=
  (s.modVf vf fun v => { v with invs := v.invs ++ [r] }).dropSome vf r

/-- TLB_INVALIDATE_RANGE (R296): INVLEN pages from INVVA. -/
def State.invalidateRange (s : State) (vf : Nat) (va : DWord) : State :=
  s.invalidate vf (fld va 12 45 * 4096, fld (s.vr vf 0x4008) 0 32)
def execTlbInvalidateRange (vf : Nat) (va : DWord) : State → Host.Outcome State Fault Refusal := hostEvent fun s =>
  s.invalidateRange vf va

/-- TLB_INVALIDATE_ALL (R296). -/
def execTlbInvalidateAll (vf : Nat) : State → Host.Outcome State Fault Refusal := hostEvent fun s => s.invalidate vf everyPage

/-- STAGE2_INVALIDATE (R296). -/
def State.invalidate2 (s : State) (vf : Nat) : State :=
  (s.modVf vf fun v => { v with inv2Busy := true }).dropSome vf everyPage
def execStage2Invalidate (vf : Nat) : State → Host.Outcome State Fault Refusal := hostEvent fun s => s.invalidate2 vf

/-- INVALIDATION_COMPLETE (R296): the entries are gone, once the context's accesses in flight have been served. -/
def execInvalidationComplete (vf : Nat) (stage2 : Bool) : State → Host.Outcome State Fault Refusal := event fun s =>
  let v := s.vf vf
  if (if stage2 then !v.inv2Busy else v.invs.isEmpty) || s.inFlight (fun g => g.vf == vf) (fun _ => true) then s
  else if stage2 then (s.dropTlb vf everyPage).modVf vf fun v => { v with inv2Busy := false }
  else (v.invs.foldl (fun s r => s.dropTlb vf r) s).modVf vf fun v => { v with invs := [] }

end Sys2Proof.Machine
end

