-- ==== Sys2Proof/Machine/Fetch.lean ====
section
/-! DEFINITION. Events of fetch and translation: instruction-cache fills (R144, R48), refetches (R47), walks (R295) and
replays (R299). -/

namespace Sys2Proof.Machine

/-- The bundle of a group's PC read from memory, past the instruction cache; a page fault parks the group at its PC (R48,
R157), a flip of the page leaves it waiting on the miss (R292). -/
def State.demandFetch (s : State) (c : Ctx) (good : List DWord → State → State) : State :=
  match s.icRead c.core c.g c.g.pc.bundle with
  | .words ws s' => good ws s'
  | .miss st a l => s.parkPage c.core c.slot (c.miss 2 c.g.pc.bundle c.g.pc.bundle st a l) c.g.pc.word none
  | .bad code sub => s.fetchFault c code sub
  | .wait => s

/-- Bundles that a group's current bundle may cause to be prefetched: the next one, and the targets of its BR, BRC, CALL
and JMPI (R144). -/
def State.prefetchable (s : State) (c : Ctx) (bundle : DWord) : Bool :=
  match (s.core c.core).icFind c.g.vf c.g.job c.g.pc.bundle with
  | none => false
  | some l =>
    bundle == c.g.pc.bundle + 64 || l.words.tail.any fun w => match decode w with
      | .ok (.br f) | .ok (.brc f) | .ok (.call f) => bundle == branchTo c.g.pc.bundle f.disp
      | .ok (.jmpi f) => bundle == c.g.sreg f.t.val
      | _ => false

/-- The oldest group that waits on a miss waits for its bundle; or a prefetch that its group's current bundle causes, which never
faults (R144). -/
def State.icacheFill (s : State) (core slot : Nat) (bundle : DWord) : State :=
  match (s.fetchNext core).filter fun p => p.1 == slot && p.2.g.pc.bundle == bundle with
  | some (_, c) => s.demandFetch c fun _ s => s
  | none => match s.fetcher core slot with
    | none => s
    | some c =>
      if ((s.core core).icFind c.g.vf c.g.job bundle).isNone && s.prefetchable c bundle &&
          bundle.extractLsb' 56 8 == (0 : BitVec 8) then
        match s.icRead core c.g bundle with
        | .words ws s' => if (bundleFault ws).isSome then s else s'
        | .miss .. | .bad .. | .wait => s
      else s

/-- ICACHE_FILL: a bundle that a group waits for arrives, or a prefetched one that translates and passes its check. -/
def execIcacheFill (core slot : Nat) (bundle : DWord) : State → Host.Outcome State Fault Refusal := coreEvent fun s =>
  s.icacheFill core slot bundle

/-- The cached copy of a group's bundle fails its check: it is discarded and read again (R47), once a flip of its page is over
(R292). -/
def State.bundleRefetch (s : State) (core slot : Nat) : State :=
  match s.decoder core slot with
  | none => s
  | some c => match (s.core core).icFind c.g.vf c.g.job c.g.pc.bundle with
    | none => s
    | some l =>
      if (bundleFault l.words).isNone || (s.icRead core c.g c.g.pc.bundle).held then s
      else (s.modCore core fun k => { k with icache := k.icache.filter fun y => y != l }).demandFetch c fun ws s' =>
        match bundleFault ws with
        | none => s'
        | some sub => s'.fetchFault c 0x02 sub

/-- BUNDLE_REFETCH (R47): the cached copy is discarded; a fresh copy that fails too faults BUNDLE_CHECK. -/
def execBundleRefetch (core slot : Nat) : State → Host.Outcome State Fault Refusal := coreEvent fun s => s.bundleRefetch core slot

/-- PAGE_WALK (R135, R295): the oldest queued miss of a partition on a die completes. The walk of an access that waits for
its data is made in the access, after the older misses that hold every walker of its partition (DEDUCED, assumption
20). -/
def execPageWalk (part die : Nat) : State → Host.Outcome State Fault Refusal := event fun s =>
  match (s.die die).walks.find? fun w => s.corePart w.1 == part with
  | none => s
  | some w => s.makeWalk die w

/-- ACCESS_REPLAY (R299): a waiting access whose record has been resumed is made again from the start; not
where a pre-emption stops the group first (R415). -/
def execAccessReplay (core slot : Nat) : State → Host.Outcome State Fault Refusal := coreEvent fun s =>
  match s.group? core slot with
  | none => s
  | some g =>
    if g.gstate = .running ∧ !g.dstop ∧ g.wait.kind = 0x0F ∧ g.waitDone ∧ (s.vf g.vf).pstate ≠ .stopping then
      (s.finishWait core slot g).getD s
    else s

end Sys2Proof.Machine
end

