-- ==== Sys2Proof/Machine/Float.lean ====
section
/-! DEFINITION. The 30 floating-point, packed, special-function and conversion instructions (R238 to R258): each runs its lane function
of FloatOps.lean or SfuOps.lean on every lane of E. -/

namespace Sys2Proof.Machine

/-- FADD (R241). -/
def execFadd (f : VOps) : State → Host.Outcome State Fault Refusal := vecInstr 0x080 f opFadd

/-- FSUB (R241). -/
def execFsub (f : VOps) : State → Host.Outcome State Fault Refusal := vecInstr 0x081 f opFsub

/-- FMUL (R241). -/
def execFmul (f : VOps) : State → Host.Outcome State Fault Refusal := vecInstr 0x082 f opFmul

/-- FFMA (R241). -/
def execFfma (f : VOps) : State → Host.Outcome State Fault Refusal := vecInstr 0x083 f opFfma

/-- FMIN (R242). -/
def execFmin (f : VOps) : State → Host.Outcome State Fault Refusal := vecInstr 0x084 f opFmin

/-- FMAX (R242). -/
def execFmax (f : VOps) : State → Host.Outcome State Fault Refusal := vecInstr 0x085 f opFmax

/-- FCMP (R244). -/
def execFcmp (f : VOps) : State → Host.Outcome State Fault Refusal := vecInstr 0x086 f opFcmp

/-- FCLASS (R245). -/
def execFclass (f : VOps) : State → Host.Outcome State Fault Refusal := vecInstr 0x087 f opFclass

/-- FRND (R246). -/
def execFrnd (f : VOps) : State → Host.Outcome State Fault Refusal := vecInstr 0x088 f opFrnd

/-- FSCALE (R247). -/
def execFscale (f : VOps) : State → Host.Outcome State Fault Refusal := vecInstr 0x089 f opFscale

/-- FRCP (R248). -/
def execFrcp (f : VOps) : State → Host.Outcome State Fault Refusal := vecInstr 0x08A f opFrcp

/-- FRSQ (R248). -/
def execFrsq (f : VOps) : State → Host.Outcome State Fault Refusal := vecInstr 0x08B f opFrsq

/-- FSQRT (R241). -/
def execFsqrt (f : VOps) : State → Host.Outcome State Fault Refusal := vecInstr 0x08C f opFsqrt

/-- FDIV (R241). -/
def execFdiv (f : VOps) : State → Host.Outcome State Fault Refusal := vecInstr 0x08D f opFdiv

/-- FEX2 (R248). -/
def execFex2 (f : VOps) : State → Host.Outcome State Fault Refusal := vecInstr 0x08E f opFex2

/-- FLG2 (R248). -/
def execFlg2 (f : VOps) : State → Host.Outcome State Fault Refusal := vecInstr 0x08F f opFlg2

/-- FSIN (R248). -/
def execFsin (f : VOps) : State → Host.Outcome State Fault Refusal := vecInstr 0x090 f opFsin

/-- FCOS (R248). -/
def execFcos (f : VOps) : State → Host.Outcome State Fault Refusal := vecInstr 0x091 f opFcos

/-- FTANH (R248). -/
def execFtanh (f : VOps) : State → Host.Outcome State Fault Refusal := vecInstr 0x092 f opFtanh

/-- FCVT (R251). -/
def execFcvt (f : VOps) : State → Host.Outcome State Fault Refusal := vecInstr 0x093 f opFcvt

/-- FCVTI (R252). -/
def execFcvti (f : VOps) : State → Host.Outcome State Fault Refusal := vecInstr 0x094 f opFcvti

/-- ICVTF (R253). -/
def execIcvtf (f : VOps) : State → Host.Outcome State Fault Refusal := vecInstr 0x095 f opIcvtf

/-- HADD2 (R243). -/
def execHadd2 (f : VOps) : State → Host.Outcome State Fault Refusal := vecInstr 0x096 f opFadd

/-- HMUL2 (R243). -/
def execHmul2 (f : VOps) : State → Host.Outcome State Fault Refusal := vecInstr 0x097 f opFmul

/-- HFMA2 (R243). -/
def execHfma2 (f : VOps) : State → Host.Outcome State Fault Refusal := vecInstr 0x098 f opFfma

/-- HMIN2 (R243). -/
def execHmin2 (f : VOps) : State → Host.Outcome State Fault Refusal := vecInstr 0x099 f opFmin

/-- HMAX2 (R243). -/
def execHmax2 (f : VOps) : State → Host.Outcome State Fault Refusal := vecInstr 0x09A f opFmax

/-- QSCL (R255). -/
def execQscl (f : VOps) : State → Host.Outcome State Fault Refusal := vecInstr 0x09B f opQscl

/-- FPACK (R256). -/
def execFpack (f : VOps) : State → Host.Outcome State Fault Refusal := vecInstr 0x09C f opFpack

/-- FUNPK (R257). -/
def execFunpk (f : VOps) : State → Host.Outcome State Fault Refusal := vecInstr 0x09D f opFunpk

end Sys2Proof.Machine
end

