-- ==== Sys2Proof/Machine/Integer.lean ====
section
/-! DEFINITION. The 36 integer instructions (R209 to R227): each runs its lane function of IntOps.lean on every lane of E. -/

namespace Sys2Proof.Machine

/-- IADD (R212). -/
def execIadd (f : VOps) : State → Host.Outcome State Fault Refusal := vecInstr 0x040 f opIadd

/-- ISUB (R212). -/
def execIsub (f : VOps) : State → Host.Outcome State Fault Refusal := vecInstr 0x041 f opIsub

/-- IMUL (R212). -/
def execImul (f : VOps) : State → Host.Outcome State Fault Refusal := vecInstr 0x042 f opImul

/-- IMULH (R213). -/
def execImulh (f : VOps) : State → Host.Outcome State Fault Refusal := vecInstr 0x043 f opImulh

/-- IMAD (R212). -/
def execImad (f : VOps) : State → Host.Outcome State Fault Refusal := vecInstr 0x044 f opImad

/-- IMADW (R213). -/
def execImadw (f : VOps) : State → Host.Outcome State Fault Refusal := vecInstr 0x045 f opImadw

/-- IDIVM (R214). -/
def execIdivm (f : VOps) : State → Host.Outcome State Fault Refusal := vecInstr 0x046 f opIdivm

/-- IMIN (R212). -/
def execImin (f : VOps) : State → Host.Outcome State Fault Refusal := vecInstr 0x047 f opImin

/-- IMAX (R212). -/
def execImax (f : VOps) : State → Host.Outcome State Fault Refusal := vecInstr 0x048 f opImax

/-- IABS (R212). -/
def execIabs (f : VOps) : State → Host.Outcome State Fault Refusal := vecInstr 0x049 f opIabs

/-- INEG (R212). -/
def execIneg (f : VOps) : State → Host.Outcome State Fault Refusal := vecInstr 0x04A f opIneg

/-- IADDS (R212). -/
def execIadds (f : VOps) : State → Host.Outcome State Fault Refusal := vecInstr 0x04B f opIadds

/-- ISUBS (R212). -/
def execIsubs (f : VOps) : State → Host.Outcome State Fault Refusal := vecInstr 0x04C f opIsubs

/-- AND (R215). -/
def execAnd (f : VOps) : State → Host.Outcome State Fault Refusal := vecInstr 0x04D f opAnd

/-- OR (R215). -/
def execOr (f : VOps) : State → Host.Outcome State Fault Refusal := vecInstr 0x04E f opOr

/-- XOR (R215). -/
def execXor (f : VOps) : State → Host.Outcome State Fault Refusal := vecInstr 0x04F f opXor

/-- ANDN (R215). -/
def execAndn (f : VOps) : State → Host.Outcome State Fault Refusal := vecInstr 0x050 f opAndn

/-- NOT (R215). -/
def execNot (f : VOps) : State → Host.Outcome State Fault Refusal := vecInstr 0x051 f opNot

/-- SHL (R216). -/
def execShl (f : VOps) : State → Host.Outcome State Fault Refusal := vecInstr 0x052 f opShl

/-- SHR (R216). -/
def execShr (f : VOps) : State → Host.Outcome State Fault Refusal := vecInstr 0x053 f opShr

/-- SAR (R216). -/
def execSar (f : VOps) : State → Host.Outcome State Fault Refusal := vecInstr 0x054 f opSar

/-- FUNSH (R217). -/
def execFunsh (f : VOps) : State → Host.Outcome State Fault Refusal := vecInstr 0x055 f opFunsh

/-- BFX (R218). -/
def execBfx (f : VOps) : State → Host.Outcome State Fault Refusal := vecInstr 0x056 f opBfx

/-- BFI (R218). -/
def execBfi (f : VOps) : State → Host.Outcome State Fault Refusal := vecInstr 0x057 f opBfi

/-- POPC (R219). -/
def execPopc (f : VOps) : State → Host.Outcome State Fault Refusal := vecInstr 0x058 f opPopc

/-- CLZ (R219). -/
def execClz (f : VOps) : State → Host.Outcome State Fault Refusal := vecInstr 0x059 f opClz

/-- CTZ (R219). -/
def execCtz (f : VOps) : State → Host.Outcome State Fault Refusal := vecInstr 0x05A f opCtz

/-- BREV (R219). -/
def execBrev (f : VOps) : State → Host.Outcome State Fault Refusal := vecInstr 0x05B f opBrev

/-- PRMB (R220). -/
def execPrmb (f : VOps) : State → Host.Outcome State Fault Refusal := vecInstr 0x05C f opPrmb

/-- ICMP (R221). -/
def execIcmp (f : VOps) : State → Host.Outcome State Fault Refusal := vecInstr 0x05D f opIcmp

/-- ISEL (R222). -/
def execIsel (f : VOps) : State → Host.Outcome State Fault Refusal := vecInstr 0x05E f opIsel

/-- IADDC (R223). -/
def execIaddc (f : VOps) : State → Host.Outcome State Fault Refusal := vecInstr 0x05F f opIaddc

/-- AGEN (R225). -/
def execAgen (f : VOps) : State → Host.Outcome State Fault Refusal := vecInstr 0x060 f opAgen

/-- IADD64 (R224). -/
def execIadd64 (f : VOps) : State → Host.Outcome State Fault Refusal := vecInstr 0x061 f opIadd64

/-- IEXT (R226). -/
def execIext (f : VOps) : State → Host.Outcome State Fault Refusal := vecInstr 0x062 f opIext

/-- IDOT4 (R227). -/
def execIdot4 (f : VOps) : State → Host.Outcome State Fault Refusal := vecInstr 0x063 f opIdot4

end Sys2Proof.Machine
end

