-- ==== Sys2Proof/Machine/OperandClass.lean ====
section
/-! DEFINITION. The operand-class instructions that stay in their lanes (R181 to R189); RJN and the calls are in Control.lean. -/

namespace Sys2Proof.Machine

/-- SAVE (R183): a frame slot, or two for a pair type. -/
def saveBody (f : VOps) (wgid : Nat) (c : Ctx) : Except Trap Group := do
  c.maskWait
  let E := c.g.exec f.g1 f.g2
  let (_, b, _) ← c.sources wgid E f ((vrule 0x022).uses f)
  let n := match f.a with
    | .frame n => n.val
    | _ => 0
  let w := if tyPair f.ty then 2 else 1
  let _ ← (List.range w).mapM fun i => c.framePending E (n + i)
  return c.g.modLanes E fun l ln =>
    let a := ln.act.setFr n (.word (lowWord b[l]))
    { ln with act := if tyPair f.ty then a.setFr (n + 1) (.word (highWord b[l])) else a }

def execSave (f : VOps) : State → Host.Outcome State Fault Refusal :=
  instr (.v 0x022 f) fun c s => (saveBody f (s.wgidOf c) c).map fun g => s.setGroup c.core c.slot g

/-- SAVEM (R184). -/
def savemBody (f : VOps) (c : Ctx) : Except Trap Group := do
  c.maskWait
  let E := c.g.exec f.g1 f.g2
  let cnt := f.imm.toNat
  c.checkNames E [(f.a, cnt), (f.b, cnt)]
  match f.a, f.b with
  | .frame n, .age a =>
    let _ ← (List.range cnt).mapM fun i => c.framePending E (n.val + i)
    let vs ← (List.range cnt).mapM fun i => c.readLanes E fun l =>
      ((c.g.lane l).act.age c.g.coilD (a.val + cnt - i)).opnd
    return c.g.modLanes E fun l ln =>
      { ln with act := (List.range cnt).foldl (fun act i =>
          act.setFr (n.val + i) (.word (lowWord (vs.getD i (Vector.replicate 96 0))[l]))) ln.act }
  | _, _ => .ok c.g

def execSavem (f : VOps) : State → Host.Outcome State Fault Refusal := localInstr (.v 0x023 f) (savemBody f)

/-- Size the current activation's frame: slots at or beyond n are discarded (R174, R185). -/
def Group.sizeFrame (g : Group) (n : Nat) : Group :=
  { g with frameSize := n
           lanes := g.lanes.map fun l =>
             { l with act := { l.act with frame := l.act.frame.filter fun p => decide (p.1 < n) } } }

/-- FRAME (R185). -/
def frameBody (f : VOps) (c : Ctx) : Except Trap Group := do
  c.maskReady
  let E := c.g.exec f.g1 f.g2
  if E = 0 then return c.g
  let v ← c.need E (c.vsrc 0 f.ty f.imm false f.a 0)
  let n := (lowWord v).toNat
  if 704 < n then raiseOpen fcFrame 1 E
  if c.g.rets.isEmpty && decide (c.g.fslots < n) then raiseOpen fcFrame 2 E
  if c.g.cap < c.g.base + c.g.coilD + n then raiseOpen 0x0A 1 E
  return c.g.sizeFrame n

def execFrame (f : VOps) : State → Host.Outcome State Fault Refusal := localInstr (.v 0x024 f) (frameBody f)

/-- PLOP (R188): pd is the truth table's bit 2·pa + pb. -/
def plopBody (f : PlopOps) (c : Ctx) : Except Trap Group := do
  c.maskReady
  let E := c.g.exec f.g1 f.g2
  return c.g.modLanes E fun _ ln =>
    ln.setP f.pd.val (f.table.getLsbD (2 * (ln.p f.pa.val).toNat + (ln.p f.pb.val).toNat))

def execPlop (f : PlopOps) : State → Host.Outcome State Fault Refusal := localInstr (.plop f) (plopBody f)

/-- The word P2V pushes in a lane (R189). -/
def p2vWord (f : VOps) (ln : Lane) : Word :=
  let q := f.imm.toNat % 8
  match f.mod.toNat with
  | 0 => (ln.preds ++ (1#1)).setWidth 32
  | 1 => if ln.p q then 1 else 0
  | _ => if ln.p q then 0xFFFFFFFF else 0

/-- P2V (R189). -/
def p2vBody (f : VOps) (c : Ctx) : Except Trap Group := do
  c.maskReady
  let E := c.g.exec f.g1 f.g2
  return c.g.modLanes E fun _ ln => ln.pushAll c.g.coilD [.word (p2vWord f ln)]

def execP2v (f : VOps) : State → Host.Outcome State Fault Refusal := localInstr (.v 0x028 f) (p2vBody f)

/-- PICK (R182). -/
def execPick (f : VOps) : State → Host.Outcome State Fault Refusal := vecInstr 0x020 f opPick

/-- PICK2 (R182). -/
def execPick2 (f : VOps) : State → Host.Outcome State Fault Refusal := vecInstr 0x021 f opPick2

/-- SETP (R187). -/
def execSetp (f : VOps) : State → Host.Outcome State Fault Refusal := vecInstr 0x026 f opSetp

end Sys2Proof.Machine
end

