-- ==== Sys2Proof/Machine/Osier.lean ====
section
/-! DEFINITION. Osier (R457 to R461): frames at their target, retransmission, ports. -/

namespace Sys2Proof.Machine

def State.frame? (s : State) (id : Nat) : Option Frame := s.frames.find? fun f => f.id == id
def State.dropFrame (s : State) (id : Nat) : State := { s with frames := s.frames.filter fun f => f.id != id }
def State.modFrame (s : State) (id : Nat) (g : Frame → Frame) : State :=
  { s with frames := s.frames.map fun f => if f.id = id then g f else f }
def State.modPort (s : State) (p : Nat) (g : Port → Port) : State :=
  if h : p < 6 then { s with ports := s.ports.set p (g s.ports[p]) } else s
def State.portState (s : State) (p : Nat) : Nat := (s.ports.toList.getD p {}).pstate

/-! ## At the target (R459, R461) -/

/-- What a frame meets at this module: refused with a subcode of ENGINE_FAULT, a translation fault that holds it, a flip that it waits for, or done,
with the bytes that a get reads. -/
inductive Served where
  | refused (sub : Nat)
  | waits (s : State)
  | done (data : List Byte) (s : State)

/-- Apply a frame's piece in the window of the function it is for: one single-copy access at the owning slice. A request that
the crossbar forbids keeps its own subcode (R131). -/
def State.serve (s : State) (f : Frame) : Served :=
  match s.endpointVf f.oep with
  | none => .refused 0x13
  | some vf =>
    let part := s.partOf vf
    let write := f.kind != .get
    match s.servedAt vf f.kind f.ofs with
    | .bad _ code sub => .refused (if code = fcProt ∧ sub = 4 then 4 else 0x13)
    | .miss st x l =>
      let m : PageMiss := { va := BitVec.ofNat 64 f.ofs, stage2 := st, addr := x, level := l, acc := if write then 1 else 0, ctx := vf, part := part,
                            pc := 0, entryB := 0, cmd := 0 }
      let t := s.walkMarks 64 vf f.ofs
      .waits (if s.logsQuietly t vf then s else (t.pageFault m).modFrame f.id fun g => { g with hold := some (m.fn, m.key) })
    | .ok loc ty =>
      let l2 := match loc with
        | .phys pa => s.l2Caches pa ty
        | _ => false
      if s.flipping loc || (write && s.logQuiet vf) || s.logsQuietly (s.touch 64 vf f.ofs write 1) vf then .waits s
      else if s.poisoned loc f.len && f.kind != .put then .refused 0x13
      else
        let s := s.touch 64 vf f.ofs write 1
        let put (b : List Byte) : Served := .done [] (s.store 64 part vf loc b 0 l2)
        match f.kind with
        | .get => .done (s.readLoc loc f.len) (match loc with
          | .phys pa => if l2 then s.l2Access 64 part vf pa 0 false else s
          | _ => s)
        | .put => put f.data
        | .add => put (addBytes f.elem (s.readLoc loc f.len) f.data)
        | .note => put (leBytes 8 (s.readNat loc 8 + 1))

/-! ## Back at the sender -/

/-- The command of a frame of this module hears that its piece has been performed. -/
def State.framePerformed (s : State) (f : Frame) (data : List Byte) : State :=
  let s := s.dropFrame f.id
  let s := match f.port with
    | some p => s.modPort p fun k => { k with lastAck := s.ref }
    | none => s
  let s := s.modCopy f.core f.cmd fun k => { k with sent := k.sent.filter (· != f.id) }
  match f.kind with
  | .get => s.modCopy f.core f.cmd fun k => { k with got := nins k.got f.key data }
  | .put | .add => s.pieceDone f.core f.cmd f.key
  | .note => s.modCopy f.core f.cmd fun k => { k with noted := true }

/-- The lanes that a frame's failure names: those of its row (R333). -/
def CopyCmd.frameLanes (k : CopyCmd) (f : Frame) : LaneMask :=
  if f.kind = .note then k.lanes else k.rowLanes (f.kind == .get) (f.key / 2 ^ 33)

/-- Its command ends with ENGINE_FAULT: 0x13, or 4 of the crossbar (R459, R460, R131; DEDUCED, assumption 88). -/
def State.frameRefused (s : State) (f : Frame) (sub : Nat := 0x13) : State :=
  let s := (s.dropFrame f.id).modCopy f.core f.cmd fun k => { k with sent := k.sent.filter (· != f.id) }
  match s.copy? f.core f.cmd with
  | none => s
  | some k => s.copyFail f.core k sub (k.frameLanes f)

/-- Bytes that another device holds. -/
def State.foreign (s : State) : Nat → List Byte × State
  | 0 => ([], s)
  | n + 1 =>
    let (v, s) := s.free
    let (l, s) := s.foreign n
    (BitVec.ofNat 8 v :: l, s)

/-- What another device does with a frame is outside the module: it performs it, refuses it, or takes it and answers
later, and what bytes it has is not known (free values, assumption 2). -/
def State.elsewhere (s : State) (f : Frame) : State :=
  let (v, s) := s.free
  match v % 3 with
  | 0 =>
    let (d, s) := s.foreign (if f.kind = .get then f.len else 0)
    s.framePerformed f d
  | 1 => s.frameRefused f
  | _ => match f.port with
    | some p => (s.modPort p fun k => { k with lastAck := s.ref }).modFrame f.id fun g => { g with taken := true }
    | none => s

/-- A frame of another device that has come by one of this module's ports (R459); its piece lies in one line (R322). -/
def arrivalFrame (a : Arrival) (id device now : Nat) : Frame :=
  let room := 128 - a.ofs % 128
  { id := id, mine := false, core := 0, cmd := 0, key := 0, oep := a.oep, device := device, kind := a.kind, ofs := a.ofs,
    data := a.data.take room, len := min a.len room, elem := a.elem, port := some a.port, sentAt := now, bornAt := now, hold := none }

/-- A frame for this module meets the function of its endpoint. -/
def State.serveFrame (s : State) (f : Frame) : State :=
  match s.serve f with
  | .waits s => s
  | .refused sub => if f.mine then s.frameRefused f sub else s.dropFrame f.id
  | .done b s => if f.mine then s.framePerformed f b else s.dropFrame f.id

/-- REMOTE_FRAME_RECEIVE (R459, R461): a frame that another device sends arrives by a port that is up and is applied to the
function of its endpoint, one held by a page fault at its replay; so is a loopback; a frame of this module for another device is
answered. -/
def execRemoteFrameReceive (frame : FrameIn) : State → Host.Outcome State Fault Refusal := event fun s =>
  match frame with
  | .sent a =>
    if s.portState a.port != 2 || decide (2 ^ 39 ≤ a.ofs) then s
    else
      let (id, s) := s.newId
      let f := arrivalFrame a id s.devId s.ref
      State.serveFrame { s with frames := s.frames ++ [f] } f
  | .known id => match s.frame? id with
    | none => s
    | some f =>
      if f.hold.isSome || (f.port.any fun p => s.portState p != 2) then s
      else if f.mine && f.device != s.devId then s.elsewhere f
      else s.serveFrame f

/-- OSIER_RETRANSMIT (R457): after 4 µs without an acknowledgement. -/
def execOsierRetransmit (frame : Nat) : State → Host.Outcome State Fault Refusal := event fun s =>
  match s.frame? frame with
  | none => s
  | some f =>
    if f.mine && f.port.isSome && !f.taken && decide (f.sentAt + 4000 ≤ s.ref) then s.modFrame frame fun f => { f with sentAt := s.ref } else s

/-! ## Ports (R458, R460) -/

/-- A frame leaves again by the other port of its ROUTE entry that its command's frames to the device now take, or its command
ends; one that its target has taken already is answered there. -/
def State.reroute (s : State) (f : Frame) : State :=
  match s.portFor f.core f.cmd f.device with
  | (some p, s) => s.modFrame f.id fun f =>
      { f with port := some p, sentAt := s.ref, bornAt := if f.taken then f.bornAt else s.ref }
  | (none, s) => s.frameRefused f

/-- This module's frames that a port carries. -/
def State.carried (s : State) (p : Nat) : List Frame := s.frames.filter fun f => f.mine && f.port == some p

/-- OSIER_PORT_FAIL (R460): a frame has gone 1 ms with no acknowledgement on its port. -/
def execOsierPortFail (port : Nat) : State → Host.Outcome State Fault Refusal := event fun s =>
  let fs := s.carried port
  if 6 ≤ port ∨ s.portState port = 3 ∨ s.ref < (s.ports.toList.getD port {}).lastAck + 1000000 ∨
      !(fs.any fun f => !f.taken && decide (f.bornAt + 1000000 ≤ s.ref)) then s
  else
    let s := s.modPort port fun k => { k with pstate := 3 }
    let s := s.eqKind pfn 4 port 3 0
    fs.foldl State.reroute s

/-- A write of PEN (R458). -/
def State.portEnable (s : State) (port : Nat) (enable : Bool) : State :=
  if 6 ≤ port then s
  else
    let o := osierOfs (8 + 8 * port)
    let was := bit (s.pr o) 0
    let s := s.setPr o (if enable then 1 else 0)
    s.modPort port fun k => if !enable then { k with pstate := 0 } else if was then k else { k with pstate := 1 }

/-- OSIER_PORT_ENABLE (R458): enabling starts training, disabling takes the port down. -/
def execOsierPortEnable (port : Nat) (enable : Bool) : State → Host.Outcome State Fault Refusal := hostEvent fun s =>
  s.portEnable port enable

/-- OSIER_PORT_UP (R458): training ends. -/
def execOsierPortUp (port : Nat) : State → Host.Outcome State Fault Refusal := event fun s =>
  if s.portState port = 1 then s.modPort port fun k => { k with pstate := 2, lastAck := s.ref } else s

end Sys2Proof.Machine
end

