-- ==== Sys2Proof/Machine/Policy.lean ====
section
/-! DEFINITION. Policy blobs (R442, R443) and attestation quotes (R462 to R464). -/

namespace Sys2Proof.Machine

/-! ## Policies (R442, R443) -/

def State.nonce (s : State) (p : Nat) : DWord := Config.policyNonce p s.sys.starts (s.part p).nonceGen

/-- A stretch of physical memory that the controller can read. -/
def State.physReadable (s : State) (pa n : Nat) : Bool :=
  inMap pa && inMap (pa + n - 1) && !s.poisoned (.phys pa) n

/-- PSTATE as it reads: 1 while a blob is being verified. -/
def Part.shown (k : Part) : Nat := if k.pending.isEmpty then k.pstate else 1

/-- A write of POLSUB: the address in [51:4], the partition in [63:58]. -/
def State.policySubmit (s : State) (value : DWord) : State :=
  let p := fld value 58 6
  let k := s.part p
  s.setPart p { k with pending := k.pending ++ [BitVec.ofNat 64 (fld value 4 48 * 16)] }

/-- POLICY_SUBMIT (R443). -/
def execPolicySubmit (value : DWord) : State → Host.Outcome State Fault Refusal := hostEvent fun s => s.policySubmit value

/-- Bytes of a signature by parameter set (R442). -/
def sigBytes (set : Nat) : Nat := if set = 1 then 2500 else if set = 2 then 2692 else 2820

/-- A class word in range: G and T are zero unless the level is COARSE. -/
def classOk (w : DWord) : Bool := fld w 13 51 == 0 && (fld w 0 2 == 1 || fld w 2 11 == 0)

/-- Reserved bits and ranges of a blob's header words (reason 0x03). -/
def blobRanges (ws : List DWord) : Bool :=
  fld (ws.getD 0 0) 54 10 == 0 && ((List.range 7).all fun c => classOk (ws.getD (2 + c) 0)) &&
    decide (1 ≤ (ws.getD 9 0).toNat) && decide ((ws.getD 9 0).toNat ≤ 3)

/-- The reason a blob is refused for, in the order of R443; none where it is accepted. -/
def State.blobReason (s : State) (p pa : Nat) : Option Nat :=
  if !s.physReadable pa 0x90 then some 6
  else
    let head := s.mem.bytes pa 0x90
    let ws := (List.range 10).map fun i => BitVec.ofNat 64 (leNat ((head.drop (8 * i)).take 8))
    let w0 := ws.getD 0 0
    let set := (ws.getD 9 0).toNat
    if fld w0 0 32 ≠ 0x44504F4C ∨ fld w0 32 16 ≠ 1 then some 1
    else if fld w0 48 6 ≠ p ∨ ws.getD 1 0 ≠ s.nonce p then some 2
    else if !blobRanges ws then some 3
    else if !s.physReadable (pa + 0x90) (sigBytes set) then some 6
    else if !Config.xmssVerify set head ((head.drop 0x50).take 64) (s.mem.bytes (pa + 0x90) (sigBytes set)) then some 4
    else if (s.part p).pstate = 2 then some 5
    else none

/-- The words of a blob by class. -/
def State.blobClasses (s : State) (pa : Nat) : NMap DWord :=
  (List.range 7).foldl (fun (m : NMap DWord) c =>
    nset 0 m c (BitVec.ofNat 64 (leNat (s.mem.bytes (pa + 0x10 + 8 * c) 8)))) []

/-- POLICY_VERIFY_DONE (R443): the oldest blob of the partition locks its policy, or is refused. In a clock it goes before
the reads that pass the filter: after one it waits for the next clock (R444; DEDUCED, assumption 89). -/
def execPolicyVerifyDone (part : Nat) : State → Host.Outcome State Fault Refusal := event fun s =>
  let k := s.part part
  if s.readAt = some s.clock then s
  else match k.pending with
  | [] => s
  | a :: rest =>
    match s.blobReason part a.toNat with
    | some r => s.setPart part { k with pending := rest, reason := r, pstate := if k.pstate = 2 then 2 else 3 }
    | none => s.setPart part
        { k with pending := rest, pstate := 2, classes := s.blobClasses a.toNat,
                 keyhash := (Config.shake256 (s.mem.bytes (a.toNat + 0x50) 64)).toList }

/-- A teardown; ignored while a function is bound to the partition. -/
def State.policyTeardown (s : State) (p : Nat) : State :=
  if !(s.boundTo p).isEmpty then s
  else
    let k := s.part p
    s.setPart p { k with pstate := 0, reason := 0, classes := [], keyhash := [], nonceGen := k.nonceGen + 1 }

/-- POLICY_TEARDOWN (R443). -/
def execPolicyTeardown (part : Nat) : State → Host.Outcome State Fault Refusal := hostEvent fun s => s.policyTeardown part

/-! ## Quotes (R463, R464) -/

/-- A write of QREQ; ignored while BUSY. -/
def State.quoteRequest (s : State) (value : DWord) : State :=
  if s.sys.quoteBusy.isSome then s
  else { s with sys := { s.sys with quoteBusy := some (BitVec.ofNat 64 (fld value 5 47 * 32)) } }

/-- QUOTE_REQUEST (R464). -/
def execQuoteRequest (value : DWord) : State → Host.Outcome State Fault Refusal := hostEvent fun s => s.quoteRequest value

/-- "TX9-M384" (R456). -/
def partNo : DWord := 0x3438334D2D395854

/-- What a quote says, part by part in the order of R464; zero bytes stand for a key hash that is not set. -/
def State.quoteBody (s : State) (nonce : List Byte) : List (List Byte) :=
  [leBytes 8 partNo.toNat, leBytes 1 Config.stepping.toNat, leBytes 8 Config.serial.toNat,
   leBytes 4 (fld (s.pr 0x800000) 0 17), (Config.shake256 (Config.fwImage s.sys.starts)).toList, leBytes 8 s.sys.rollback, leBytes 4 s.sys.sigIndex, nonce] ++
  (List.range 64).flatMap fun p =>
    let k := s.part p
    [leBytes 1 k.shown, if k.keyhash.isEmpty then List.replicate 32 0 else k.keyhash]

/-- QUOTE_COMPLETE (R463, R464): the stored index advances before the signature is released. -/
def execQuoteComplete : State → Host.Outcome State Fault Refusal := event fun s =>
  match s.sys.quoteBusy with
  | none => s
  | some a =>
    let fin (s : State) (r : Nat) : State := { s with sys := { s.sys with quoteBusy := none, quoteReason := r } }
    let out := fld (s.pr 0x208) 12 40 * 4096
    if !s.physReadable a.toNat 32 || !s.physReadable out 1 then fin s 1
    else if 2 ^ 20 ≤ s.sys.sigIndex then fin s 2
    else
      let body := s.quoteBody (s.mem.bytes a.toNat 32)
      let sig := Config.xmssSign s.sys.sigIndex (Config.quoteForm body)
      let s := { s with sys := { s.sys with sigIndex := s.sys.sigIndex + 1 } }
      let q := Config.quoteForm (body ++ [sig])
      if !s.physReadable out (max 1 q.length) then fin s 1
      else fin (s.store 64 0 pfn (.phys out) q hintNal) 0

end Sys2Proof.Machine
end

