-- ==== Sys2Proof/Machine/Power.lean ====
section
/-! DEFINITION. Clocks, power and temperature (R467, R468), soft errors (R300), and accesses of the host (R292, R452). -/

namespace Sys2Proof.Machine

/-! ## A core's arithmetic clock, in 64ths of its full rate (R467) -/

/-- DROOP_DETECT: a sag stretches the clock to 7/8. -/
def execDroopDetect (core : Nat) : State → Host.Outcome State Fault Refusal := event fun s =>
  s.modCore core fun k => { k with clockNum := 56, sagging := true }

/-- SAG_END: the return begins. -/
def execSagEnd (core : Nat) : State → Host.Outcome State Fault Refusal := event fun s =>
  s.modCore core fun k => if k.sagging then { k with sagging := false, clockAt := s.ref } else k

/-- CLOCK_RETURN_STEP: 1/64 each µs. -/
def execClockReturnStep (core : Nat) : State → Host.Outcome State Fault Refusal := event fun s =>
  s.modCore core fun k =>
    if !k.sagging && decide (k.clockNum < 64) && decide (k.clockAt + 1000 ≤ s.ref)
    then { k with clockNum := k.clockNum + 1, clockAt := k.clockAt + 1000 } else k

/-! ## Power and temperature (R468) -/

def pcapOfs : Nat := 0x900000
/-- One step of 1/64 down to a floor of 1/2, or up to the full rate. -/
def stepDown (n : Nat) : Nat := max 32 (n - 1)
def stepUp (n : Nat) : Nat := min 64 (n + 1)

/-- POWER_CAP_STEP: the power of a millisecond against PCAP. -/
def execPowerCapStep (watts : Nat) : State → Host.Outcome State Fault Refusal := event fun s =>
  if s.ref < s.sys.powerAt + 1000000 then s
  else
    let cap := fld (s.pr pcapOfs) 0 12
    let n := if cap < watts then stepDown s.sys.capNum else if watts < cap then stepUp s.sys.capNum else s.sys.capNum
    { s with sys := { s.sys with power := watts, capNum := n, powerAt := s.ref } }

/-- THERMAL_THROTTLE: a die above 105 °C (its hottest sensor, in tenths of a degree) slows by the same steps. -/
def execThermalThrottle (die tenths : Nat) : State → Host.Outcome State Fault Refusal := event fun s =>
  s.modDie die fun d =>
    if s.ref < d.thermAt + 1000000 then { d with tenths := tenths }
    else { d with tenths := tenths, throttle := if 1050 < tenths then stepDown d.throttle else stepUp d.throttle,
                  thermAt := s.ref }

/-- THERMAL_SHUTDOWN: at 115 °C a record for the physical function, and every core stops until a cold start. -/
def execThermalShutdown (die tenths : Nat) : State → Host.Outcome State Fault Refusal := event fun s =>
  let s := s.modDie die fun d => { d with tenths := tenths }
  if tenths < 1150 then s
  else
    let s := eventFault s { code := 0x60, sub := 0x20, vf := pfn, stamp := s.ref }
    { s with sys := { s.sys with stopped := true } }

/-! ## Soft errors (R300) -/

/-- Poison the bytes of the 64-bit word that holds a place, keys rising. -/
def poisonInsert (p : Nat) : List Nat → List Nat
  | [] => [p]
  | q :: r => if p < q then p :: q :: r else if p = q then q :: r else q :: poisonInsert p r
def State.poisonWord (s : State) (key : Nat) : State :=
  { s with poison := (List.range 8).foldl (fun l i => poisonInsert (key / 8 * 8 + i) l) s.poison }

/-- The words of a group's slot row at an even lane and the next, and what they hold from now on. -/
def Group.hitRow (g : Group) (i lane : Nat) (v : Val) : Group :=
  g.mapActs fun b n _ l a => if b ≤ i ∧ i < b + n ∧ l / 2 = lane / 2 then a.setSlot g.coilD (i - b) v else a

/-- A line of a core's L1 that holds a place keeps its other words (R282). -/
def Core.hitL1 (k : Core) (pa : Nat) : Core :=
  let o := pa % 128 / 8 * 8
  { k with l1 := k.l1.map fun l =>
      if l.pa = lineOf pa then { l with poisoned := l.poisoned ++ (List.range 8).map (o + ·) } else l }

/-- An uncorrectable error marks data poisoned. The place is numbered as `locKey` does (HBM, L2 data, scratchpads); from 2^56 lie
the slot rows of the pool, 2^24 bytes to each group slot; from 2^57 the tags of L2 and from 2^58 the directory, by the line
they stand for, whose data is lost; from 2^59 the pool's L1 lines, 2^52 to a core (assumption 58). -/
def State.uncorrectable (s : State) (key : Nat) : State :=
  let line (s : State) (pa : Nat) : State := (List.range 16).foldl (fun (s : State) i => s.poisonWord (lineOf pa + 8 * i)) s
  let fetchAgain (s : State) (pa : Nat) : State :=
    { s with cores := s.cores.map fun k => { k with l1 := k.l1.filter fun l => l.pa != lineOf pa } }
  if 2 ^ 59 ≤ key then s.modCore ((key - 2 ^ 59) / 2 ^ 52) fun k => k.hitL1 (key % 2 ^ 52)
  else if 2 ^ 57 ≤ key then fetchAgain (line s (key % 2 ^ 57)) (key % 2 ^ 57)
  else if 2 ^ 56 ≤ key then
    let n := (key - 2 ^ 56) / 2 ^ 24
    let o := key % 2 ^ 24
    { s with fresh := s.fresh + 1 }.modGroup (n / 64) (n % 64) fun g =>
      g.hitRow (o / 384) (o % 384 / 4) (.poison (Config.faultDetail s.fresh))
  else fetchAgain (s.poisonWord key) key

/-- SOFT_ERROR: counted per die; an uncorrectable one marks the place `pa`. -/
def execSoftError (die : Nat) (correctable : Bool) (pa : Nat) : State → Host.Outcome State Fault Refusal := event fun s =>
  if correctable then s.modDie die fun d => { d with corrected := d.corrected + 1 }
  else (s.modDie die fun d => { d with uncorrected := d.uncorrected + 1 }).uncorrectable pa

/-! ## The host's own accesses (R292, R452) -/

/-- HOST_MEM_ACCESS: a read or a write of some bytes, served at the owning slice of each line after the device's copies of it
are written back and dropped; a read shows its value, up to 8 bytes, in `hostRead`. Its
tenant tag at port 20 is that of a partition that lets all its lines pass; one that no partition's SLC and CONN's row let pass
has no effect (R131; DESIGN CHOICE, assumption 80). -/
def execHostMemAccess (write : Bool) (pa : Nat) (bytes : List Byte) : State → Host.Outcome State Fault Refusal :=
  hostEvent fun s =>
    if !inMap pa || !inMap (pa + bytes.length - 1) ||
        !(List.range 64).any (fun p => (linesIn pa (max 1 bytes.length)).all fun l => s.xbar 64 p l false) then s
    else
      let s := s.dropWhere fun a => decide (lineOf pa ≤ a) && decide (a ≤ lineOf (pa + bytes.length - 1))
      if write then (s.putLoc (.phys pa) bytes).noteWaits
      else { s with hostRead := BitVec.ofNat 64 (leNat (s.mem.bytes pa (min 8 bytes.length))) }

end Sys2Proof.Machine
end

