-- ==== Sys2Proof/Machine/Start.lean ====
section
/-! DEFINITION. Cold and warm starts (R462, R465, R466) and the loss of power (R463). -/

namespace Sys2Proof.Machine

/-- The measurement of the image that a start loads (R462). -/
def measurement (start : Nat) : Vector Byte 32 := Config.shake256 (Config.fwImage start)

/-- Steps 1 to 9 that a start takes (R465): a warm one does not verify an image whose measurement is that of the image verified
last, and trains no HBM. -/
def startSteps (warm verified : Bool) : List Nat :=
  if warm then (if verified then [1, 3, 4, 6, 7, 8, 9] else [1, 2, 3, 4, 6, 7, 8, 9]) else [1, 2, 3, 4, 5, 6, 7, 8, 9]

/-- Whether a step succeeds: the image's signature and version at step 2 (R462), else the self test. -/
def stepOk (start rollback step : Nat) : Bool :=
  if step = 2 then Config.fwSigned (Config.fwImage start) && decide (rollback ≤ Config.fwVersion (Config.fwImage start))
  else Config.startStepPasses start step

/-- The bytes of a memory that lie outside the module: the host's. -/
def hostOnly (m : Mem) : Mem := m.filter fun c => isHostMem c.1

/-- The reset values of every register, with what a start keeps: counter-protected state, time and the model's own
counters, the host's memory, and on a warm start HBM, the image verified last and a stop that waits for a cold start
(R468). -/
def State.restart (s : State) (warm : Bool) : State :=
  { State.reset with
    clock := s.clock, ref := s.ref, fresh := s.fresh, nextId := s.nextId, agenda := s.agenda
    mem := if warm then s.mem else hostOnly s.mem
    poison := if warm then s.poison.filter fun p => decide (p < 2 ^ 52) else s.poison.filter isHostMem'
    frames := s.frames.filter fun f => !f.mine
    sys := { sigIndex := s.sys.sigIndex, rollback := s.sys.rollback, starts := s.sys.starts + 1,
             verified := if warm then s.sys.verified else none, stopped := warm && s.sys.stopped } }
where isHostMem' (p : Nat) : Bool := isHostMem p && decide (p < 2 ^ 52)

/-- Firmware that has passed its verification is the last verified, and its load raises the rollback counter (R462). -/
def Sys.load (y : Sys) (start : Nat) : Sys :=
  { y with rollback := max y.rollback (Config.fwVersion (Config.fwImage start)), verified := some start }

/-- Run a start: to step 9, or to the first step that fails, with BERR and the identity alone (R466). -/
def State.startUp (s : State) (warm : Bool) : State :=
  let n := s.sys.starts + 1
  let steps := startSteps warm (s.sys.verified.any fun v => measurement v == measurement n)
  let t := s.restart warm
  let loaded (k : Nat) : Sys := if steps.contains 2 ∧ 2 < k then t.sys.load n else t.sys
  match steps.find? fun k => !stepOk n s.sys.rollback k with
  | none => { t with sys := { loaded 9 with bstage := 9 } }
  | some k =>
    { t with sys := { loaded k with bstage := k, identityOnly := true, berr := 1 + (Config.bootError n k).toNat % 255 } }

/-- COLD_START (R465): the one event that a stopped module takes. -/
def execColdStart (s : State) : Host.Outcome State Fault Refusal := .next (s.startUp false)

/-- WARM_START (R465): a write of WARM. -/
def execWarmStart : State → Host.Outcome State Fault Refusal := hostEvent fun s => s.startUp true

/-- PCIE_RESET (R465). -/
def execPcieReset : State → Host.Outcome State Fault Refusal := event fun s => s.startUp true

/-- POWER_LOSS (R463): counter-protected state survives, and the host's memory; the module stands until a cold start. -/
def execPowerLoss (s : State) : Host.Outcome State Fault Refusal :=
  let t := s.restart false
  .next { t with sys := { t.sys with starts := s.sys.starts, stopped := true, off := true } }

end Sys2Proof.Machine
end

