-- ==== Sys2Proof/Machine/Registers.lean ====
section
/-! DEFINITION. The registers as the host writes and reads them: function pages and the physical function's space (R5, R98,
R413, R424 to R438, R446, R453 to R458), and reads in halves (R430, R445). -/

namespace Sys2Proof.Machine

/-! ## Fields of a written value -/

/-- A value with its reserved bits zero (R5). -/
def keepBits (value : DWord) (lo w : Nat) : DWord := BitVec.ofNat 64 (fld value lo w * 2 ^ lo)
/-- A ring's word: LOG2 of its size within bounds, its base. -/
def ringWord (value : DWord) (lo hi : Nat) (baseLo : Nat) : DWord :=
  BitVec.ofNat 64 (clampN lo hi (fld value 0 5)) ||| keepBits value baseLo (57 - baseLo)

/-! ## Some registers of their own -/

/-- LATENCY_MONITOR_CONFIG (R437): bounds are held in range, and a fresh window starts. -/
def State.latencyConfig (s : State) (vf q : Nat) (value : DWord) : State :=
  let b (lo : Nat) : Nat := min 32 (fld value lo 6)
  let v := BitVec.ofNat 64 (fld value 0 1 + clampN 4 16 (fld value 1 5) * 2 + b 16 * 2 ^ 16 + b 24 * 2 ^ 24 + b 32 * 2 ^ 32 +
    fld value 38 1 * 2 ^ 38 + fld value 40 11 * 2 ^ 40)
  (s.setPr (lmOfs vf q) v).modVf vf fun f =>
    { f with lat := nset {} f.lat q { nget {} f.lat q with window := [] } }
def execLatencyMonitorConfig (vf q : Nat) (value : DWord) : State → Host.Outcome State Fault Refusal := hostEvent fun s =>
  if vf < 256 ∧ q < 16 then s.latencyConfig vf q value else s

/-- LOG_OVF_CLEAR (R435). -/
def State.logOvfClear (s : State) (vf : Nat) : State := s.setPr (dirtyOfs vf 0x10) (putFld (s.pr (dirtyOfs vf 0x10)) 0 1 0)
def execLogOvfClear (vf : Nat) : State → Host.Outcome State Fault Refusal := hostEvent fun s => s.logOvfClear vf

/-- Vectors of two functions overlap (R455). -/
def State.vectorsMeet (s : State) (fn base n : Nat) : Bool :=
  (List.range 257).any fun v =>
    let w := s.pr (0x1000 + 8 * v)
    v != fn && decide (0 < n) && decide (0 < fld w 16 12) && decide (base < fld w 0 11 + fld w 16 12) &&
      decide (fld w 0 11 < base + n)

/-- An allotment of vectors (R455). -/
def State.vectorWrite (s : State) (fn : Nat) (value : DWord) : State :=
  let n := min (if fn = pfn then 2048 else 256) (fld value 16 12)
  if s.vectorsMeet fn (fld value 0 11) n then s
  else s.setPr (0x1000 + 8 * fn) (BitVec.ofNat 64 (fld value 0 11 + n * 2 ^ 16))

/-- A function has a running or halted group. -/
def State.hasGroup (s : State) (vf : Nat) : Bool := !(s.groupsOf vf).isEmpty

/-- The slicing block (R424). A turn whose function changes, or that SLICED mode starts, begins its quantum (R425). -/
def State.sliceWrite (s : State) (p o : Nat) (value : DWord) : State :=
  let turn (s : State) : Option Nat := if s.sliced p then s.turnVf p (s.part p).cur else none
  let t := if (s.boundTo p).any s.hasGroup then s
    else if o = 0 then s.setPr (sliceOfs p 0) (BitVec.ofNat 64 (fld value 0 1 + max 1 (fld value 16 32) * 2 ^ 16))
    else if o = 8 then s.setPr (sliceOfs p 8) value
    else if o = 0x10 then s.setPr (sliceOfs p 0x10) (BitVec.ofNat 64 (min 8 (fld value 0 4)))
    else s
  if turn t = turn s then t else ((turn t).map t.beginTurn).getD t

/-- The dirty-page log (R433, R435). -/
def State.dirtyWrite (s : State) (vf o : Nat) (value : DWord) : State :=
  let old := s.pr (dirtyOfs vf 0)
  if o = 0 then
    let cfg := if bit old 0 then old
      else BitVec.ofNat 64 (clampN 10 20 (fld value 1 5) * 2) ||| keepBits value 12 45
    s.setPr (dirtyOfs vf 0) (putFld cfg 0 1 (fld value 0 1))
  else if o = 8 then s.setPr (dirtyOfs vf 8) (keepBits value 32 32)
  else if o = 0x10 ∧ bit value 0 then s.logOvfClear vf
  else s

/-- The time registers (R427): written while the function is unbound or halted. -/
def State.timeWrite (s : State) (vf o : Nat) (value : DWord) : State :=
  if (s.bound vf).isSome ∧ (s.vf vf).pstate ≠ .halted then s
  else s.setPr (vtOfs vf o) (if o = 0 then keepBits value 0 41 else value)

/-- Osier's registers (R458). -/
def State.osierWrite (s : State) (o : Nat) (value : DWord) : State :=
  if o = 0 then
    if (List.range 256).any fun v => (s.endpoint v).isSome && s.hasGroup v then s
    else s.setPr (osierOfs 0) (keepBits value 0 17)
  else if o < 0x38 then s.portEnable ((o - 8) / 8) (bit value 0)
  else if 0x100 ≤ o ∧ o < 0x900 then
    let v := (o - 0x100) / 8
    let old := s.pr (osierOfs o)
    s.setPr (osierOfs o) (putFld (if s.hasGroup v then old else keepBits value 0 8) 8 1 (fld value 8 1))
  else if 0x1000 ≤ o ∧ o < 0x9000 then s.setPr (osierOfs o) (keepBits value 0 6)
  else s

/-- The debug block (R446); the operator's commands need the class TRACE at FULL. -/
def State.debugWrite (s : State) (vf o : Nat) (value : DWord) (operator : Bool) : State :=
  let put (v : DWord) : State := s.setVr vf (dbgOfs o) v
  if o = 0 then put (BitVec.ofNat 64 (fld value 0 2 + clampN 8 24 (fld value 16 5) * 2 ^ 16))
  else if o = 8 then
    if operator && s.level vf 3 != 3 then s.modVf vf fun v => { v with dbgRes := 5 } else s.dbgCommand vf value
  else if o = 0x18 then put (keepBits value 12 45)
  else if o = 0x20 then put (ringWord value 6 16 5)
  else if o = 0x30 then put (keepBits value 0 32)
  else if o = 0x38 then put (keepBits value 0 4)
  else if 0x40 ≤ o ∧ o < 0x60 then put value
  else s

/-! ## Writes -/

/-- A write of a job queue's or data queue's register (R98, R99). -/
def State.queueWrite (s : State) (fn o : Nat) (value : DWord) : State :=
  if o < 0x1200 then
    let q := (o - 0x1000) / 0x20
    if s.jqn fn ≤ q then s
    else match o % 0x20 with
      | 0 => if bit (s.jqCfg fn q) 0 then s else s.setVr fn o (keepBits value 12 45)
      | 8 => s.queueEn fn false q value
      | 0x10 => s.doorbell fn q (value.setWidth 32)
      | _ => s
  else if 0x2000 ≤ o ∧ o < 0x2800 then
    let d := (o - 0x2000) / 0x20
    if s.dqn fn ≤ d then s
    else match o % 0x20 with
      | 0 => if bit (s.dqCfg fn d) 0 then s else s.setVr fn o (keepBits value 6 51)
      | 8 => s.queueEn fn true d value
      | _ => s
  else if o = 0x3000 ∧ (s.vf fn).joins.isEmpty then s.setVr fn o (keepBits value 6 51)
  else s

/-- A write of translation, fault-queue, flip and event-queue registers (R293, R296, R298, R454, R455). -/
def State.serviceWrite (s : State) (fn o : Nat) (value : DWord) : State :=
  match o with
  | 0x108 => s.setVr fn o (keepBits value 0 11 ||| keepBits value 16 11)
  | 0x4000 => if (s.vf fn).invs.isEmpty then s.setVr fn o (keepBits value 0 1 ||| keepBits value 12 40) else s
  | 0x4008 => s.setVr fn o (keepBits value 0 32)
  | 0x4010 => if bit value 0 then s.invalidate fn everyPage else s.invalidateRange fn value
  | 0x5000 => (s.setVr fn o (ringWord value 4 12 12)).retryWithheld fn
  | 0x5010 => s.fqcons fn (value.setWidth 32)
  | 0x5018 => s.faultResume fn (value.setWidth 32)
  | 0x5020 => if bit value 0 then s.setVr fn o 0 else s
  | 0x6000 => s.startFlip fn value (bit value 0)
  | 0xB000 =>
    if (s.vf fn).eqProd = (s.vr fn 0xB010).setWidth 32 then s.setVr fn o (ringWord value 6 14 12) else s
  | 0xB010 => s.setVr fn o (keepBits value 0 32)
  | _ => s

/-- A write of a function's page (R453); an entry of the MSI-X table that it unmasks sends what it held back (R455). -/
def State.pageWrite (s : State) (fn o : Nat) (value : DWord) : State :=
  if o % 8 ≠ 0 then s
  else if 0x1000 ≤ o ∧ o < 0x4000 then s.queueWrite fn o value
  else if 0x8000 ≤ o ∧ o < 0x8100 then s.debugWrite fn (o - 0x8000) value false
  else if 0xC000 ≤ o ∧ o < 0xD000 then (if fn = pfn then s else (s.setVr fn o value).msixSettle fn ((o - 0xC000) / 16))
  else s.serviceWrite fn o value

/-- A write of the physical function's tables for virtual functions, partitions, clusters and slices. -/
def State.tableWrite (s : State) (o : Nat) (value : DWord) : State :=
  if o < 0x440000 then s.placeWrite ((o - 0x400000) / 0x10000) (o % 0x10000) value
  else if 0x500000 ≤ o ∧ o < 0x500800 then s.vfBind ((o - 0x500000) / 8) value
  else if o = plerrOfs then s.setPr o (s.pr o &&& ~~~value)
  else if o = 0x518000 then s.policySubmit value
  else if o = 0x518008 then (if bit value 0 then s.policyTeardown (fld value 58 6) else s)
  else if 0x580000 ≤ o ∧ o < 0x584000 ∧ o % 0x1000 < 0x400 ∧ o % 0x40 = 0 then s.setPr o (keepBits value 0 16)
  else if 0x5A0000 ≤ o ∧ o < 0x5A2000 ∧ o % 0x20 = 0 then
    let v := (o - 0x5A0000) / 0x20
    if bit value 0 && (s.vf v).pstate == .running then s.stopVf v false
    else if bit value 1 then s.resumeVf v else s
  else if 0x5B0000 ≤ o ∧ o < 0x5B1000 then s.sliceWrite ((o - 0x5B0000) / 0x40) (o % 0x40) value
  else if 0x5C0000 ≤ o ∧ o < 0x5D0000 ∧ o % 0x1000 ≤ 0x800 then
    (s.setPr o (BitVec.ofNat 64 (clampN 1 256 (fld value 0 9)))).settleSlots ((o - 0x5C0000) / 0x1000)
  else if 0x5D0000 ≤ o ∧ o < 0x5D2000 then s.dirtyWrite ((o - 0x5D0000) / 0x20) (o % 0x20) value
  else if 0x5D4000 ≤ o ∧ o < 0x5D6000 then s.timeWrite ((o - 0x5D4000) / 0x20) (o % 0x20) value
  else if 0x5F0000 ≤ o ∧ o < 0x600000 then s.debugWrite ((o - 0x5F0000) / 0x100) (o % 0x100) value true
  else if 0x600000 ≤ o ∧ o < 0x700000 ∧ o % 0x40000 < 0x30000 ∧ o % 0x2000 ≤ 0x800 then s.setPr o (keepBits value 0 16)
  else if 0x700000 ≤ o ∧ o < 0x701000 then
    if o % 0x10 = 0 then s.setPr o (keepBits value 12 40)
    else if bit value 0 then s.invalidate2 ((o - 0x700000) / 0x10) else s
  else if 0x740000 ≤ o ∧ o < 0x760000 ∧ o % 0x20 = 0 then
    s.latencyConfig ((o - 0x740000) / 0x200) (o % 0x200 / 0x20) value
  else if 0x800000 ≤ o ∧ o < 0x810000 then s.osierWrite (o - 0x800000) value
  else s

/-- A write of the physical function's space; the operator windows ignore writes (R445). -/
def State.pfWrite (s : State) (o : Nat) (value : DWord) : State :=
  if o % 8 ≠ 0 then s
  else if o = 0x200 then s.quoteRequest value
  else if o = 0x208 then s.setPr o (keepBits value 12 40)
  else if o = 0x300 then (if bit value 0 then s.startUp true else s)
  else if 0x1000 ≤ o ∧ o ≤ 0x1800 then s.vectorWrite ((o - 0x1000) / 8) value
  else if 0x400000 ≤ o ∧ o < 0x900000 then s.tableWrite o value
  else if o = pcapOfs then s.setPr o (BitVec.ofNat 64 (clampN 200 2000 (fld value 0 12)))
  else if 0xF00000 ≤ o ∧ o < 0xF10000 then s.pageWrite pfn (o - 0xF00000) value
  else if 0xF80000 ≤ o ∧ o < 0xF88000 then (s.setPr o value).msixSettle pfn ((o - 0xF80000) / 16)
  else s

/-- The quotas of a function, which the physical function sets at a place that R98 does not give (DESIGN CHOICE, assumption
24): number 1024 + f stands for function f's quotas. -/
def quotaWord (value : DWord) : DWord :=
  BitVec.ofNat 64 (min 16 (fld value 0 5) + min 64 (fld value 8 7) * 2 ^ 8 + min 4096 (fld value 16 13) * 2 ^ 16) |||
    keepBits value 32 32

/-- REGISTER_WRITE (R5): a 64-bit write of a register of a function's page (`fn` below 256), of the physical function's
space (`fn` 256), or of a function's quotas. A register with an event of its own has that event's effect. -/
def execRegisterWrite (fn ofs : Nat) (value : DWord) : State → Host.Outcome State Fault Refusal := hostEvent fun s =>
  if fn < 256 then s.pageWrite fn ofs value
  else if fn = pfn then s.pfWrite ofs value
  else if 1024 ≤ fn ∧ fn ≤ 1280 then s.setVr (fn - 1024) 0x100 (quotaWord value)
  else s

/-! ## Reads in halves (R430, R445) -/

/-- DBGSTAT (R446): DSTATE, RES, and the focus of the group of the last command; 0 before the first one. -/
def State.dbgStat (s : State) (vf : Nat) : DWord :=
  let v := s.vf vf
  let (d, f) := match s.target vf v.dbgGid with
    | none => (if v.dbgSeen then 2 else 0, none)
    | some (_, _, g) => (if g.dstop then 1 else 0, g.focus)
  BitVec.ofNat 64 (d + v.dbgRes % 16 * 2 ^ 4 + (match f with
    | some l => l % 128 * 2 ^ 8 + 2 ^ 15
    | none => 0))

/-- BUSYMS has no offset among those of R453; the model numbers it past the page (DESIGN CHOICE, assumption 24). -/
def busyOfs : Nat := 0x10000

/-- The 64-bit registers of a page that only the device writes (R430). -/
def wide64 (o : Nat) : Bool :=
  (decide (0x1000 ≤ o) && decide (o < 0x1200) && o % 0x20 == 0x18) ||
  (decide (0x2000 ≤ o) && decide (o < 0x2800) && (o % 0x20 == 0x10 || o % 0x20 == 0x18)) ||
  o == 0x6100 || o == busyOfs || (decide (0x7000 ≤ o) && decide (o < 0x8000)) ||
  (decide (0xA000 ≤ o) && decide (o < 0xA100) && o % 0x10 == 0)

/-- Two neighbouring latency buckets as they lie: bucket b of the start latencies, or 32 + b of the completions (R436). -/
def State.bucketPair (s : State) (vf q b : Nat) : DWord :=
  let l := nget {} (s.vf vf).lat q
  let at' (i : Nat) : Nat := if i < 32 then (nget 0 l.start i).toNat else (nget 0 l.done (i - 32)).toNat
  BitVec.ofNat 64 (at' b + at' (b + 1) * 2 ^ 32)

/-- The sum, half by half, of two words of two 32-bit registers. -/
def addPair (a b : DWord) : DWord :=
  BitVec.ofNat 64 ((fld a 0 32 + fld b 0 32) % 2 ^ 32 + (fld a 32 32 + fld b 32 32) % 2 ^ 32 * 2 ^ 32)

/-- A register of queues or counters (R98, R431, R436, R438), as the tenant reads it. -/
def State.pageQueue (s : State) (vf o : Nat) : DWord :=
  if o < 0x1200 then
    let q := (o - 0x1000) / 0x20
    if s.jqn vf ≤ q then 0 else if o % 0x20 = 0x18 then (s.jq vf q).done else s.vr vf o
  else if 0x2000 ≤ o ∧ o < 0x2800 then
    let d := (o - 0x2000) / 0x20
    if s.dqn vf ≤ d then 0
    else if o % 0x20 = 0x10 then (s.dq vf d).prod else if o % 0x20 = 0x18 then (s.dq vf d).cons else s.vr vf o
  else if o = 0x3008 then BitVec.ofNat 64 (s.vf vf).joins.length
  else s.vr vf o

/-- A register of the page at an 8-byte boundary (R453), as the tenant reads it; counters apart. -/
def State.pageRead (s : State) (vf o : Nat) : DWord :=
  let v := s.vf vf
  if 0x1000 ≤ o ∧ o < 0x4000 then s.pageQueue vf o
  else if 0x9000 ≤ o ∧ o < 0xA000 then s.bucketPair vf ((o - 0x9000) / 0x100) (o % 0x100 / 4)
  else if 0xA000 ≤ o ∧ o < 0xA100 then (if o % 0x10 = 0 then (nget {} v.lat ((o - 0xA000) / 0x10)).pct else 0)
  else if vf = pfn ∧ 0xC000 ≤ o ∧ o < 0xD020 then 0
  else match o with
    | 0x4018 => if v.invs.isEmpty then 0 else 1
    | 0x5008 => v.fqProd.setWidth 64
    | 0x6008 => BitVec.ofNat 64 ((if v.flip.isSome then 1 else 0) + v.flipResult % 4 * 2)
    | 0x6100 => s.vtime vf
    | 0x8010 => s.dbgStat vf
    | 0xB008 => v.eqProd.setWidth 64
    | 0xB018 => v.eqLost.setWidth 64
    | 0x10000 => v.busyMs
    | _ => if o < 0x10000 then s.vr vf o else 0

/-- What the operator reads of latencies (class LAT): buckets sum over the partition, a percentile word has no sum. -/
def State.latSeen (s : State) (vf o : Nat) : DWord :=
  let full := s.pageRead vf o
  if 0xA000 ≤ o then s.filtered vf 6 (latDatum vf ((o - 0xA000) / 0x10) 64) full fun _ => 0
  else
    let q := (o - 0x9000) / 0x100
    let b := o % 0x100 / 4
    let sum (s : State) : DWord :=
      (s.boundTo (s.partOf vf)).foldl (fun (a : DWord) v => addPair a (s.bucketPair v q b)) 0
    let half (i : Nat) : Nat := fld (s.filtered vf 6 (latDatum vf q (b + i)) 0 fun _ => 0) 0 32
    if s.level vf 6 = 1 then BitVec.ofNat 64 (half 0 + half 1 * 2 ^ 32) else s.filtered vf 6 0 full sum

/-- A read of a page's register by a path: the tenant's at FULL, the operator's through the filter (R440, R445). Registers
of no class pass as they are. -/
def State.pageSeen (s : State) (path : HostPath) (vf o : Nat) : DWord :=
  let core := (o - 0x7000) / 0x40
  let i := o % 0x40 / 8
  match path with
  | .tenant => if 0x7000 ≤ o ∧ o < 0x8000 then (s.ctr core vf i).count else s.pageRead vf o
  | .operator =>
    if 0x7000 ≤ o ∧ o < 0x8000 then s.ctrSeen core vf i
    else if 0x9000 ≤ o ∧ o < 0xA100 then s.latSeen vf o
    else if 0x8000 ≤ o ∧ o < 0x9000 then s.filtered vf 3 (dbgDatum vf (o % 256)) (s.pageRead vf o) fun _ => 0
    else s.pageRead vf o

/-- Every datum of the classes that has a number, where it is not 0. -/
def State.dataNow (s : State) : NMap DWord :=
  let vfs := (List.range 256).filter fun v => (s.bound v).isSome
  let ctrs := s.coreList.flatMap fun k => k.2.ctrs.map fun p => (4096 * k.1 + p.1, p.2.count)
  let lats := s.vfs.flatMap fun v => v.2.lat.flatMap fun q =>
    (q.2.start.map fun p => (latDatum v.1 q.1 p.1, p.2.setWidth 64)) ++
      (q.2.done.map fun p => (latDatum v.1 q.1 (32 + p.1), p.2.setWidth 64)) ++ [(latDatum v.1 q.1 64, q.2.pct)]
  let occs := s.slices.flatMap fun p => ((p.2.lines.map (·.ctx)) ++ p.2.evict.map (·.1)).eraseDups.flatMap fun v =>
    [(occDatum p.1 v, BitVec.ofNat 64 (s.occ p.1 v)), (occDatum p.1 v + 1, BitVec.ofNat 64 (s.evicted p.1 v))]
  let dbgs := vfs.flatMap fun v => (List.range 12).map fun i => (dbgDatum v (8 * i), s.pageRead v (0x8000 + 8 * i))
  let dies := (List.range 4).map (fun d => (dieDatum d, s.softCount d)) ++
    (List.range 4).map fun d => (dieDatum (4 + d), BitVec.ofNat 64 (s.die d).tenths)
  (ctrs ++ lats ++ occs ++ dbgs ++ dies).filter fun p => p.2 != 0

/-- The sample of a multiple of 2^t µs (R440). -/
def State.sampleAt (s : State) (t : Nat) : State := { s with snap := nins s.snap t s.dataNow }

/-- The shadow of a path (R427, R430): HSHADOW, OSHADOW. -/
def shadowLo (path : HostPath) : Nat := match path with
  | .tenant => 0
  | .operator => 32

/-! ## The physical function's space (R130 to R134, R167, R288, R293, R414, R424 to R443, R456 to R468) -/

/-- The word of registers that a byte list holds. -/
def byteWord (l : List Byte) (i : Nat) : DWord := BitVec.ofNat 64 (leNat ((l.drop (8 * i)).take 8))

/-- A partition's filter block (R443). -/
def State.filterBlock (s : State) (p o : Nat) : DWord :=
  let k := s.part p
  if o = 0 then BitVec.ofNat 64 (k.shown + k.reason % 256 * 2 ^ 8)
  else if o = 8 then s.nonce p
  else if o < 0x48 then nget 0 k.classes ((o - 0x10) / 8)
  else if 0x50 ≤ o ∧ o < 0x70 then byteWord k.keyhash ((o - 0x50) / 8)
  else if 0x80 ≤ o ∧ o < 0xB8 then BitVec.ofNat 64 (nget 0 k.owed ((o - 0x80) / 8))
  else 0

/-- A slice's registers (R288), unfiltered. -/
def State.sliceRead (s : State) (i o : Nat) : DWord :=
  if o ≤ 0x800 then s.pr (0x600000 + 0x40000 * (i / 24) + 0x2000 * (i % 24) + o)
  else if 0x1000 ≤ o ∧ o ≤ 0x1800 then
    BitVec.ofNat 64 (s.occ i ((o - 0x1000) / 8) % 2 ^ 16 + s.evicted i ((o - 0x1000) / 8) * 2 ^ 32)
  else if o = 0x1E00 then BitVec.ofNat 64 ((s.slice i).fwd.length + (s.slice i).migr.toNat * 2 ^ 32)
  else 0

/-- The blocks of 0x580000 to 0x5DFFFF and of 0x740000: gating (R167), pre-emption (R414), slicing (R424), shares (R426), dirty
log (R433), time (R427), monitors (R437). -/
def State.blockRead (s : State) (o : Nat) : DWord :=
  if o < 0x584000 then
    let g := (s.core (16 * ((o - 0x580000) / 0x1000) + o % 0x1000 / 0x40)).gate
    if 0x400 ≤ o % 0x1000 then 0
    else match o % 0x40 with
      | 0x00 => s.pr o
      | 0x08 => BitVec.ofNat 64 (g.entries.toNat + g.aborts.toNat * 2 ^ 32)
      | 0x10 => if g.gated then 1 else 0
      | _ => 0
  else if 0x5A0000 ≤ o ∧ o < 0x5A2000 then
    let v := (o - 0x5A0000) / 0x20
    match o % 0x20 with
    | 0x08 => BitVec.ofNat 64 ((match (s.vf v).pstate with
        | .running => 0
        | .stopping => 1
        | .halted => 2
        | .resuming => 3) + ((s.groupsOf v).filter fun p => p.2.2.gstate == .halted).length * 2 ^ 16)
    | 0x10 => (s.vf v).touts.setWidth 64
    | _ => 0
  else if 0x5B0000 ≤ o ∧ o < 0x5B1000 ∧ o % 0x40 = 0x18 then
    let k := s.part ((o - 0x5B0000) / 0x40)
    BitVec.ofNat 64 (k.cur % 8 + k.switches.toNat * 2 ^ 32)
  else if 0x5D0000 ≤ o ∧ o < 0x5D2000 then
    let v := (o - 0x5D0000) / 0x20
    match o % 0x20 with
    | 0x00 => s.pr o
    | 0x08 => putFld (s.pr o) 0 32 (s.vf v).dlProd.toNat
    | 0x10 => putFld (s.pr o) 1 1 (if s.vfIdle v then 1 else 0)
    | _ => 0
  else if 0x740000 ≤ o ∧ o < 0x760000 ∧ o % 0x20 = 8 then
    let l := nget {} (s.vf ((o - 0x740000) / 0x200)).lat (o % 0x200 / 0x20)
    BitVec.ofNat 64 (l.breaches.toNat + l.windows.toNat * 2 ^ 32)
  else s.pr o

/-- A register of the physical function's space at an 8-byte boundary; write-only registers and unlisted offsets read
zero. -/
def State.spaceRead (s : State) (o : Nat) : DWord :=
  match o with
  | 0x000 => 0x3438334D2D395854
  | 0x008 => BitVec.ofNat 64 (Config.stepping.toNat + Config.fwver.toNat * 2 ^ 16)
  | 0x010 => Config.serial
  | 0x100 => BitVec.ofNat 64 (s.sys.bstage % 16 + s.sys.berr % 256 * 2 ^ 8)
  | 0x210 => BitVec.ofNat 64 ((if s.sys.quoteBusy.isSome then 1 else 0) + s.sys.quoteReason % 256 * 2 ^ 8)
  | 0x518000 | 0x518008 | 0x200 | 0x300 => 0
  | 0x900010 => BitVec.ofNat 64 s.sys.power
  | _ =>
    if 0x510000 ≤ o ∧ o < 0x514000 then s.filterBlock ((o - 0x510000) / 0x100) (o % 0x100)
    else if (0x580000 ≤ o ∧ o < 0x5E0000) ∨ (0x740000 ≤ o ∧ o < 0x760000) then s.blockRead o
    else if 0x5F0000 ≤ o ∧ o < 0x600000 then s.pageRead ((o - 0x5F0000) / 0x100) (0x8000 + o % 0x100)
    else if 0x600000 ≤ o ∧ o < 0x700000 then
      (if o % 0x40000 < 0x30000 then s.sliceRead (24 * ((o - 0x600000) / 0x40000) + o % 0x40000 / 0x2000) (o % 0x2000)
       else 0)
    else if 0x700000 ≤ o ∧ o < 0x701000 then (if o % 0x10 = 0 then s.pr o else 0)
    else if 0x800008 ≤ o ∧ o < 0x800038 then
      putFld (s.pr o) 1 2 (match s.ports[(o - 0x800008) / 8]? with
        | some p => p.pstate
        | none => 0)
    else if 0xF00000 ≤ o ∧ o < 0xF10000 then s.pageSeen .tenant pfn (o - 0xF00000)
    else s.pr o

/-- The telemetry of the partitions has no offset in the spec; the model numbers it past the operator windows, 0x40 to a
partition (DESIGN CHOICE, assumption 24). -/
def telemOfs : Nat := 0x2000000

/-- A read of the physical function's space: what is a tenant's passes the filter on every path (R439, R440, R444). -/
def State.spaceSeen (s : State) (o : Nat) : DWord :=
  let i := 24 * ((o - 0x600000) / 0x40000) + o % 0x40000 / 0x2000
  if 0x600000 ≤ o ∧ o < 0x700000 ∧ o % 0x40000 < 0x30000 ∧ 0x1000 ≤ o % 0x2000 then
    if o % 0x2000 ≤ 0x1800 then s.occSeen i ((o % 0x2000 - 0x1000) / 8)
    else if o % 0x2000 = 0x1E00 then s.fwdSeen i else 0
  else if 0x5F0000 ≤ o ∧ o < 0x600000 then s.pageSeen .operator ((o - 0x5F0000) / 0x100) (0x8000 + o % 0x100)
  else if telemOfs ≤ o ∧ o < telemOfs + 0x1000 then s.telemSeen ((o - telemOfs) / 0x40) (o % 0x40 / 8)
  else s.spaceRead o

/-- What a read names: the path, the function and the offset. An operator window in the physical function's space stands for
its function's page on the operator's path (R445). -/
def readTarget (path : HostPath) (fn o : Nat) : HostPath × Nat × Nat :=
  if fn = pfn ∧ 0x1000000 ≤ o ∧ o < 0x2000000 then (.operator, (o - 0x1000000) / 0x10000, o % 0x10000) else (path, fn, o)

/-- OCC and EVICT of a function's own context, which its driver reads at FULL at the place of R288 (R440, R484; DESIGN CHOICE,
assumption 24). -/
def State.occOwn (s : State) (fn o : Nat) : DWord :=
  if o % 0x40000 < 0x30000 ∧ o % 0x2000 = 0x1000 + 8 * fn then
    s.sliceRead (24 * ((o - 0x600000) / 0x40000) + o % 0x40000 / 0x2000) (o % 0x2000) else 0

/-- A 64-bit register as a path reads it: of a function's page, or for function 256 of the physical function's space (its own
page lies at 0xF00000 there). Module power is every function's to read (R468). -/
def State.hostSeen (s : State) (path : HostPath) (fn o : Nat) : DWord :=
  if fn = pfn then s.spaceSeen o
  else if o = 0x900010 then BitVec.ofNat 64 s.sys.power
  else if path = .tenant ∧ 0x600000 ≤ o ∧ o < 0x700000 then s.occOwn fn o
  else s.pageSeen path fn o

/-- The host reads a register; a module that presents its identity alone shows nothing else (R456, R466). A read that passes
the filter is noted (R444). -/
def readEvent (path : HostPath) (fn ofs : Nat) (f : HostPath → Nat → Nat → State → State) :
    State → Host.Outcome State Fault Refusal :=
  event fun s =>
    if s.sys.identityOnly && !(fn % 2048 == pfn && decide (ofs < 0x108)) then s
    else
      let (p, v, o) := readTarget path (fn % 2048) (ofs / 8 * 8)
      f p v o (if p = .operator ∨ v = pfn then s.noteRead else s)

/-- The shadow of a path keeps the high half of a register read low (R430). -/
def State.latchHigh (s : State) (path : HostPath) (vf : Nat) (v : DWord) : State :=
  s.setPr (vtOfs vf 0x18) (putFld (s.pr (vtOfs vf 0x18)) (shadowLo path) 32 (fld v 32 32))

/-- HALF_READ_LOW (R430): a read of bits [31:0]; a 64-bit register's high half goes to the path's shadow. A function's number
with 2048 added makes it a read of all 64 bits, which latches nothing (DESIGN CHOICE, assumption 24). -/
def execHalfReadLow (path : HostPath) (vf ofs : Nat) : State → Host.Outcome State Fault Refusal :=
  readEvent path vf ofs fun path fn o s =>
    let v := s.hostSeen path fn o
    if 2048 ≤ vf then { s with hostRead := v }
    else
      let s := { s with hostRead := BitVec.ofNat 64 (fld v 0 32) }
      if fn ≠ pfn ∧ wide64 o then s.latchHigh path fn v else s

/-- HALF_READ_HIGH (R430): a read of bits [63:32]; of a 64-bit register, the shadow. -/
def execHalfReadHigh (path : HostPath) (vf ofs : Nat) : State → Host.Outcome State Fault Refusal :=
  readEvent path vf ofs fun path fn o s =>
    { s with hostRead := if fn ≠ pfn ∧ wide64 o then BitVec.ofNat 64 (fld (s.pr (vtOfs fn 0x18)) (shadowLo path) 32)
        else BitVec.ofNat 64 (fld (s.hostSeen path fn o) 32 32) }

end Sys2Proof.Machine
end

