-- ==== Sys2Proof/Machine/Retire.lean ====
section
/-! DEFINITION. The end of a group (R404, R405, R422, R423): delivery of engine faults, retirement, termination, the end of
a workgroup. -/

namespace Sys2Proof.Machine

/-- Workgroups of a cluster set that started no group, once every other one has retired (R105). -/
def State.settleSet (s : State) (set : Nat) : State :=
  match nfind s.clsets set with
  | none => s
  | some cs =>
    if cs.members.any fun p => match s.wg? p.1 p.2 with
      | some w => w.started != 0
      | none => false
    then s
    else
      let s := cs.members.foldl (fun s p => (s.modCore p.1 fun k => { k with wgs := ndel k.wgs p.2 }).settleSplit p.1) s
      { s with clsets := ndel s.clsets set }

/-- Poison in a workgroup's scratchpad goes with its rows: rows granted again read zero (R137). -/
def State.forgetSpad (s : State) (core n : Nat) : State := s.clearPoison (.spad core n 0) (2 ^ 24)

/-- A workgroup retires when its last started group has (R423): its scratchpad rows are free. -/
def State.settleWg (s : State) (core n : Nat) : State :=
  match s.wg? core n with
  | none => s
  | some w =>
    if (s.core core).groups.any fun p => p.2.wg == n then s
    else
      let s := (s.forgetSpad core n).modCore core fun k => { k with wgs := ndel k.wgs n }
      let s := match nfind s.clsets w.clset with
        | none => s
        | some cs => { s with clsets := nins s.clsets w.clset { cs with members := cs.members.filter (· != (core, n)) } }
      s.settleSet w.clset

/-- Steps 4 to 6 of R422: what a leaving group still holds is given up. -/
def State.releaseGroup (s : State) (core slot : Nat) (g : Group) : State :=
  let s := g.csr.epend.foldl eventFault s
  let s := (List.range 4).foldl (fun s t =>
    if (s.tile core t).owner = some slot then s.modEng core fun e => e.release t else s) s
  let s := (s.leaveActive core slot).modCore core fun k =>
    { k with groups := ndel k.groups slot
             ctxOwner := k.ctxOwner.map fun o => if o = some slot then none else o
             eng := { k.eng with saved := ndel k.eng.saved slot } }
  (((s.settleWg core g.wg).settleSplit core).settleHalt g.vf).settleResume g.vf

/-- Step 3 of R422: the store queue has drained and K = C on both timelines. -/
def Group.drained (g : Group) : Bool := g.sq.isEmpty && g.t0.idle && g.t1.idle

/-- GROUP_RETIRE (R422). -/
def execGroupRetire (core slot : Nat) : State → Host.Outcome State Fault Refusal := coreEvent fun s =>
  match s.group? core slot with
  | none => s
  | some g => if g.gstate = .retiring ∧ g.term = none ∧ g.drained then s.releaseGroup core slot g else s

/-- GROUP_TERMINATE (R405): a terminated group leaves by the same steps. -/
def execGroupTerminate (core slot : Nat) : State → Host.Outcome State Fault Refusal := coreEvent fun s =>
  match s.group? core slot with
  | none => s
  | some g => if g.gstate = .retiring ∧ g.term ≠ none ∧ g.drained then s.releaseGroup core slot g else s

/-- ENGINE_FAULT_DELIVERY (R404): at an instruction boundary outside a handler, one fault of the queue, once a pending write of
the mask words is there (R156, R237). -/
def execEngineFaultDelivery (core slot : Nat) : State → Host.Outcome State Fault Refusal := coreEvent fun s =>
  match s.ctxOf core slot with
  | none => s
  | some c =>
    let g := c.g
    if !s.mayIssue core slot g || s.awaitsBaton core slot g || !g.faultDue || g.landed || !c.maskWait.isOk then s
    else match g.csr.epend with
      | [] => s
      | r :: rest =>
        (s.setGroup core slot { g with csr := { g.csr with epend := rest } }).deliver core slot r g.pc

end Sys2Proof.Machine
end

