-- ==== Sys2Proof/Machine/System.lean ====
section
/-! DEFINITION. The system instructions (R407 to R413): TRAP, BPT, TRET, the control registers, flags, time and counters. -/

namespace Sys2Proof.Machine

/-- TRAP (R408). -/
def execTrap (f : TOps) : State → Host.Outcome State Fault Refusal := jumpInstr (.t 0x1A0 f) fun c s => do
  c.maskReady
  let E := c.g.exec f.g1 f.g2
  if E = 0 then c.step s c.g
  else return s.deliver c.core c.slot (c.record s 0x50 f.imm.toNat 0 E) (c.g.pc.after c.g.sv)

/-- BPT (R408): with BPSTOP set the group stops for the debugger at the slot after it (R447). -/
def execBpt (f : TOps) : State → Host.Outcome State Fault Refusal := jumpInstr (.t 0x1A1 f) fun c s => do
  c.maskReady
  let E := c.g.exec f.g1 f.g2
  if E = 0 then c.step s c.g
  else if bit (s.vr c.g.vf 0x8000) 0 then
    return (← c.step s c.g).debugStop c.core c.slot
  else return s.deliver c.core c.slot (c.record s 0x51 f.imm.toNat 0 E) (c.g.pc.after c.g.sv)

/-- A PC from its word (R400). -/
def pcOf (w : DWord) : PC := ⟨w &&& ~~~(63#64), w.toNat % 8⟩

/-- Where TRET resumes (R409): HRPC, or with .skip the slot after it, which stands for the next bundle where it turns out
invalid (R49; DEDUCED, assumption 66). Whatever the fetch there meets is the resumed program's. -/
def resumePc (hrpc : DWord) (skip : Bool) : PC × Bool :=
  let pc := pcOf hrpc
  if !skip then (pc, false)
  else if pc.slot < 7 then ({ pc with slot := pc.slot + 1 }, true)
  else (⟨pc.bundle + 64, 1⟩, false)

/-- TRET (R409), which acts even when E is empty. -/
def execTret (f : TOps) : State → Host.Outcome State Fault Refusal := jumpInstr (.t 0x1A2 f) fun c s => do
  c.maskReady
  let E := c.g.exec f.g1 f.g2
  let k := c.g.csr
  if !k.inHandler then raise 0x53 1 0 E
  if c.g.stack.length ≠ k.mark ∨ c.g.depth ≠ k.hdepth then raise 0x53 2 0 E
  if fld k.hrpc 3 3 ≠ 0 ∨ fld k.hrpc 0 3 = 0 then raise 0x53 3 0 E
  if f.op.getLsbD 1 then return s.terminate c.core c.slot k.fault
  else
    let (pc, landed) := resumePc k.hrpc (f.op.getLsbD 0)
    return s.withGroup c fun g => { g.leaveHandler pc with landed := landed }

/-! ## Control registers (R406, R410) -/

/-- CSRs 0x00 to 0x06: the fault being handled. -/
def FaultRec.csr (r : FaultRec) (n : Nat) : DWord :=
  match n with
  | 0 => BitVec.ofNat 64 (r.code + r.sub * 2 ^ 8 + if r.imp then 2 ^ 16 else 0)
  | 1 => r.pc
  | 2 => r.cmd
  | 3 => r.addr
  | 4 => (maskWord r.lanes 0).setWidth 64
  | 5 => (maskWord r.lanes 1).setWidth 64
  | _ => (maskWord r.lanes 2).setWidth 64

/-- The value of a control register. -/
def Csrs.read (k : Csrs) (n : Nat) : DWord :=
  if n ≤ 6 then (if k.inHandler then k.fault.csr n else 0)
  else match n with
    | 0x07 => k.hrpc
    | 0x08 => k.hvec
    | 0x09 => k.hmask.setWidth 64
    | 0x0A => k.engflags.setWidth 64
    | 0x0B => k.engrep.setWidth 64
    | 0x0C => BitVec.ofNat 64 ((if k.inHandler then 1 else 0) + k.mark % 64 * 2 + k.hdepth % 64 * 2 ^ 7)
    | 0x0D => BitVec.ofNat 64 (k.epend.length % 8 + k.elost.toNat * 2 ^ 32)
    | 0x0E => k.trapen.setWidth 64
    | _ => 0

/-- A write of the RW fields of a control register. -/
def Csrs.write (k : Csrs) (n : Nat) (v : DWord) : Csrs :=
  match n with
  | 0x07 => { k with hrpc := v }
  | 0x08 => { k with hvec := v }
  | 0x09 => { k with hmask := v.setWidth 7 }
  | 0x0A => { k with engflags := v.setWidth 6 }
  | 0x0B => { k with engrep := v.setWidth 6 }
  | _ => k

/-- CSRR (R410). -/
def execCsrr (f : TOps) : State → Host.Outcome State Fault Refusal := instr (.t 0x1A3 f) fun c s => do
  c.maskReady
  if c.g.exec f.g1 f.g2 = 0 then return s
  c.freeS f.d.val
  c.allDone
  return s.putS c f.d.val (c.g.csr.read f.imm.toNat)

/-- CSRW (R410); HRPC outside a handler is refused with the causes of R65, before E or any operand is looked at. -/
def execCsrw (f : TOps) : State → Host.Outcome State Fault Refusal := instr (.t 0x1A4 f) fun c s => do
  c.maskWait
  let E := c.g.exec f.g1 f.g2
  if f.imm.toNat = 7 ∧ !c.g.csr.inHandler then raise fcIllegal 7 (wordT 0x1A4 f) E
  c.maskSound
  if E = 0 then return s
  let v ← c.readS f.a.val
  c.allDone
  return s.withGroup c fun g => { g with csr := g.csr.write f.imm.toNat v }

/-! ## Flags (R411) -/

/-- FLAGS. -/
def execFlags (f : VOps) : State → Host.Outcome State Fault Refusal := localInstr (.v 0x1A5 f) fun c => do
  c.maskReady
  let E := c.g.exec f.g1 f.g2
  if E = 0 then return c.g
  c.allDone
  return c.g.modLanes E fun _ l => l.pushAll c.g.coilD [.word l.flagWord]

/-- FLCLR. -/
def execFlclr (f : VOps) : State → Host.Outcome State Fault Refusal := localInstr (.v 0x1A6 f) fun c => do
  c.maskReady
  let E := c.g.exec f.g1 f.g2
  if E = 0 then return c.g
  c.allDone
  return c.g.modLanes E fun _ l => l.clearFlags (f.imm.setWidth 6)

/-! ## Time and counters (R412, R413) -/

/-- TIME. -/
def execTime (f : TOps) : State → Host.Outcome State Fault Refusal := instr (.t 0x1A7 f) fun c s => do
  c.maskReady
  if c.g.exec f.g1 f.g2 = 0 then return s
  c.freeS f.d.val
  return s.putS c f.d.val (s.vtime c.g.vf)

/-- The function and counter that CTRRD's operand names, where a group of a function may name them. -/
def ctrOperand (own : Nat) (v : DWord) : Option (Nat × Nat) :=
  let vf := fld v 16 9
  if v.toNat ≠ fld v 0 3 + vf * 2 ^ 16 then none
  else if own = pfn then (if vf ≤ 256 then some (vf, fld v 0 3) else none)
  else if vf = 0 then some (own, fld v 0 3) else none

/-- CTRRD. -/
def execCtrrd (f : TOps) : State → Host.Outcome State Fault Refusal := instr (.t 0x1A8 f) fun c s => do
  c.maskReady
  let E := c.g.exec f.g1 f.g2
  if E = 0 then return s
  c.freeS f.d.val
  let v ← c.readS f.a.val
  match ctrOperand c.g.vf v with
  | none => raise fcIllegal 0x0B (wordT 0x1A8 f) E
  | some (vf, i) =>
    if vf = c.g.vf then return s.putS c f.d.val (s.ctr c.core vf i).count
    else return s.noteRead.putS c f.d.val (s.ctrSeen c.core vf i)

/-- CTRCFG. Its own issue is counted under the configuration it finds (R413: it applies to events after its issue). -/
def execCtrcfg (f : TOps) : State → Host.Outcome State Fault Refusal := instr (.t 0x1A9 f) fun c s => do
  c.maskReady
  let E := c.g.exec f.g1 f.g2
  if E = 0 then return s
  let n ← c.readS f.a.val
  let v ← c.readS f.b.val
  if 8 ≤ n.toNat ∨ 2 ^ 10 ≤ v.toNat ∨ 0x10 ≤ fld v 0 8 then raise fcIllegal 0x0B (wordT 0x1A9 f) E
  let pc ← c.nextPc
  let s := (s.withGroup c fun g => { g with pc := pc, completing := false }).issued c (.t 0x1A9 f)
  let old := s.ctr c.core c.g.vf n.toNat
  let new : Counter := { event := fld v 0 8, en := bit v 8, count := if bit v 9 then 0 else old.count }
  .error (.out (s.modCore c.core fun k => { k with ctrs := nset {} k.ctrs (ctrKey c.g.vf n.toNat) new }))

end Sys2Proof.Machine
end

