-- ==== Sys2Proof/Machine/Dispatch.lean ====
section
/-! DEFINITION. One arm for each instruction and event of the opcode table: the meaning it calls. -/

namespace Sys2Proof.Machine

def exec (i : Instr) (s : State) : Host.Outcome State Fault Refusal :=
  match i with
  | .nop f => Sys2Proof.Machine.execNop f s
  | .br f => Sys2Proof.Machine.execBr f s
  | .brc f => Sys2Proof.Machine.execBrc f s
  | .jmpi f => Sys2Proof.Machine.execJmpi f s
  | .brk f => Sys2Proof.Machine.execBrk f s
  | .yldp f => Sys2Proof.Machine.execYldp f s
  | .exit f => Sys2Proof.Machine.execExit f s
  | .call f => Sys2Proof.Machine.execCall f s
  | .calli f => Sys2Proof.Machine.execCalli f s
  | .ret f => Sys2Proof.Machine.execRet f s
  | .pick f => Sys2Proof.Machine.execPick f s
  | .pick2 f => Sys2Proof.Machine.execPick2 f s
  | .save f => Sys2Proof.Machine.execSave f s
  | .savem f => Sys2Proof.Machine.execSavem f s
  | .frame f => Sys2Proof.Machine.execFrame f s
  | .rjn f => Sys2Proof.Machine.execRjn f s
  | .setp f => Sys2Proof.Machine.execSetp f s
  | .plop f => Sys2Proof.Machine.execPlop f s
  | .p2v f => Sys2Proof.Machine.execP2v f s
  | .iadd f => Sys2Proof.Machine.execIadd f s
  | .isub f => Sys2Proof.Machine.execIsub f s
  | .imul f => Sys2Proof.Machine.execImul f s
  | .imulh f => Sys2Proof.Machine.execImulh f s
  | .imad f => Sys2Proof.Machine.execImad f s
  | .imadw f => Sys2Proof.Machine.execImadw f s
  | .idivm f => Sys2Proof.Machine.execIdivm f s
  | .imin f => Sys2Proof.Machine.execImin f s
  | .imax f => Sys2Proof.Machine.execImax f s
  | .iabs f => Sys2Proof.Machine.execIabs f s
  | .ineg f => Sys2Proof.Machine.execIneg f s
  | .iadds f => Sys2Proof.Machine.execIadds f s
  | .isubs f => Sys2Proof.Machine.execIsubs f s
  | .and f => Sys2Proof.Machine.execAnd f s
  | .or f => Sys2Proof.Machine.execOr f s
  | .xor f => Sys2Proof.Machine.execXor f s
  | .andn f => Sys2Proof.Machine.execAndn f s
  | .not f => Sys2Proof.Machine.execNot f s
  | .shl f => Sys2Proof.Machine.execShl f s
  | .shr f => Sys2Proof.Machine.execShr f s
  | .sar f => Sys2Proof.Machine.execSar f s
  | .funsh f => Sys2Proof.Machine.execFunsh f s
  | .bfx f => Sys2Proof.Machine.execBfx f s
  | .bfi f => Sys2Proof.Machine.execBfi f s
  | .popc f => Sys2Proof.Machine.execPopc f s
  | .clz f => Sys2Proof.Machine.execClz f s
  | .ctz f => Sys2Proof.Machine.execCtz f s
  | .brev f => Sys2Proof.Machine.execBrev f s
  | .prmb f => Sys2Proof.Machine.execPrmb f s
  | .icmp f => Sys2Proof.Machine.execIcmp f s
  | .isel f => Sys2Proof.Machine.execIsel f s
  | .iaddc f => Sys2Proof.Machine.execIaddc f s
  | .agen f => Sys2Proof.Machine.execAgen f s
  | .iadd64 f => Sys2Proof.Machine.execIadd64 f s
  | .iext f => Sys2Proof.Machine.execIext f s
  | .idot4 f => Sys2Proof.Machine.execIdot4 f s
  | .fadd f => Sys2Proof.Machine.execFadd f s
  | .fsub f => Sys2Proof.Machine.execFsub f s
  | .fmul f => Sys2Proof.Machine.execFmul f s
  | .ffma f => Sys2Proof.Machine.execFfma f s
  | .fmin f => Sys2Proof.Machine.execFmin f s
  | .fmax f => Sys2Proof.Machine.execFmax f s
  | .fcmp f => Sys2Proof.Machine.execFcmp f s
  | .fclass f => Sys2Proof.Machine.execFclass f s
  | .frnd f => Sys2Proof.Machine.execFrnd f s
  | .fscale f => Sys2Proof.Machine.execFscale f s
  | .frcp f => Sys2Proof.Machine.execFrcp f s
  | .frsq f => Sys2Proof.Machine.execFrsq f s
  | .fsqrt f => Sys2Proof.Machine.execFsqrt f s
  | .fdiv f => Sys2Proof.Machine.execFdiv f s
  | .fex2 f => Sys2Proof.Machine.execFex2 f s
  | .flg2 f => Sys2Proof.Machine.execFlg2 f s
  | .fsin f => Sys2Proof.Machine.execFsin f s
  | .fcos f => Sys2Proof.Machine.execFcos f s
  | .ftanh f => Sys2Proof.Machine.execFtanh f s
  | .fcvt f => Sys2Proof.Machine.execFcvt f s
  | .fcvti f => Sys2Proof.Machine.execFcvti f s
  | .icvtf f => Sys2Proof.Machine.execIcvtf f s
  | .hadd2 f => Sys2Proof.Machine.execHadd2 f s
  | .hmul2 f => Sys2Proof.Machine.execHmul2 f s
  | .hfma2 f => Sys2Proof.Machine.execHfma2 f s
  | .hmin2 f => Sys2Proof.Machine.execHmin2 f s
  | .hmax2 f => Sys2Proof.Machine.execHmax2 f s
  | .qscl f => Sys2Proof.Machine.execQscl f s
  | .fpack f => Sys2Proof.Machine.execFpack f s
  | .funpk f => Sys2Proof.Machine.execFunpk f s
  | .qswp f => Sys2Proof.Machine.execQswp f s
  | .qbc f => Sys2Proof.Machine.execQbc f s
  | .shfl f => Sys2Proof.Machine.execShfl f s
  | .vote f => Sys2Proof.Machine.execVote f s
  | .redv f => Sys2Proof.Machine.execRedv f s
  | .scan f => Sys2Proof.Machine.execScan f s
  | .matchLanes f => Sys2Proof.Machine.execMatchLanes f s
  | .xsend f => Sys2Proof.Machine.execXsend f s
  | .xrecv f => Sys2Proof.Machine.execXrecv f s
  | .rdlane f => Sys2Proof.Machine.execRdlane f s
  | .wrlane f => Sys2Proof.Machine.execWrlane f s
  | .sadd f => Sys2Proof.Machine.execSadd f s
  | .ssub f => Sys2Proof.Machine.execSsub f s
  | .smul f => Sys2Proof.Machine.execSmul f s
  | .sand f => Sys2Proof.Machine.execSand f s
  | .sor f => Sys2Proof.Machine.execSor f s
  | .sxor f => Sys2Proof.Machine.execSxor f s
  | .sshl f => Sys2Proof.Machine.execSshl f s
  | .sshr f => Sys2Proof.Machine.execSshr f s
  | .ssar f => Sys2Proof.Machine.execSsar f s
  | .smin f => Sys2Proof.Machine.execSmin f s
  | .smax f => Sys2Proof.Machine.execSmax f s
  | .scmp f => Sys2Proof.Machine.execScmp f s
  | .ssel f => Sys2Proof.Machine.execSsel f s
  | .smovk f => Sys2Proof.Machine.execSmovk f s
  | .smovi f => Sys2Proof.Machine.execSmovi f s
  | .sld f => Sys2Proof.Machine.execSld f s
  | .sst f => Sys2Proof.Machine.execSst f s
  | .spopc f => Sys2Proof.Machine.execSpopc f s
  | .sclz f => Sys2Proof.Machine.execSclz f s
  | .smovs f => Sys2Proof.Machine.execSmovs f s
  | .sbfx f => Sys2Proof.Machine.execSbfx f s
  | .ld f => Sys2Proof.Machine.execLd f s
  | .st f => Sys2Proof.Machine.execSt f s
  | .ldl f => Sys2Proof.Machine.execLdl f s
  | .stl f => Sys2Proof.Machine.execStl f s
  | .atom f => Sys2Proof.Machine.execAtom f s
  | .acas f => Sys2Proof.Machine.execAcas f s
  | .fence f => Sys2Proof.Machine.execFence f s
  | .pref f => Sys2Proof.Machine.execPref f s
  | .spres f => Sys2Proof.Machine.execSpres f s
  | .invl f => Sys2Proof.Machine.execInvl f s
  | .cpy f => Sys2Proof.Machine.execCpy f s
  | .cpyg f => Sys2Proof.Machine.execCpyg f s
  | .cpys f => Sys2Proof.Machine.execCpys f s
  | .cmt f => Sys2Proof.Machine.execCmt f s
  | .waitt f => Sys2Proof.Machine.execWaitt f s
  | .tlrd f => Sys2Proof.Machine.execTlrd f s
  | .bar f => Sys2Proof.Machine.execBar f s
  | .barc f => Sys2Proof.Machine.execBarc f s
  | .arv f => Sys2Proof.Machine.execArv f s
  | .wph f => Sys2Proof.Machine.execWph f s
  | .yield f => Sys2Proof.Machine.execYield f s
  | .btake f => Sys2Proof.Machine.execBtake f s
  | .bpass f => Sys2Proof.Machine.execBpass f s
  | .mms f => Sys2Proof.Machine.execMms f s
  | .mml f => Sys2Proof.Machine.execMml f s
  | .aclr f => Sys2Proof.Machine.execAclr f s
  | .ald f => Sys2Proof.Machine.execAld f s
  | .adrn f => Sys2Proof.Machine.execAdrn f s
  | .adrv f => Sys2Proof.Machine.execAdrv f s
  | .talloc f => Sys2Proof.Machine.execTalloc f s
  | .tfree f => Sys2Proof.Machine.execTfree f s
  | .mcnt f => Sys2Proof.Machine.execMcnt f s
  | .mcntl f => Sys2Proof.Machine.execMcntl f s
  | .mmrg f => Sys2Proof.Machine.execMmrg f s
  | .cntz f => Sys2Proof.Machine.execCntz f s
  | .bfly f => Sys2Proof.Machine.execBfly f s
  | .bflyp f => Sys2Proof.Machine.execBflyp f s
  | .twg f => Sys2Proof.Machine.execTwg f s
  | .enq f => Sys2Proof.Machine.execEnq f s
  | .enqd f => Sys2Proof.Machine.execEnqd f s
  | .deq f => Sys2Proof.Machine.execDeq f s
  | .dcadd f => Sys2Proof.Machine.execDcadd f s
  | .dcrd f => Sys2Proof.Machine.execDcrd f s
  | .fres f => Sys2Proof.Machine.execFres f s
  | .fjoin f => Sys2Proof.Machine.execFjoin f s
  | .fget f => Sys2Proof.Machine.execFget f s
  | .nextch f => Sys2Proof.Machine.execNextch f s
  | .tinfo f => Sys2Proof.Machine.execTinfo f s
  | .trap f => Sys2Proof.Machine.execTrap f s
  | .bpt f => Sys2Proof.Machine.execBpt f s
  | .tret f => Sys2Proof.Machine.execTret f s
  | .csrr f => Sys2Proof.Machine.execCsrr f s
  | .csrw f => Sys2Proof.Machine.execCsrw f s
  | .time f => Sys2Proof.Machine.execTime f s
  | .ctrrd f => Sys2Proof.Machine.execCtrrd f s
  | .ctrcfg f => Sys2Proof.Machine.execCtrcfg f s
  | .flags f => Sys2Proof.Machine.execFlags f s
  | .flclr f => Sys2Proof.Machine.execFlclr f s
  | .missDataReturn core slot id => Sys2Proof.Machine.execMissDataReturn core slot id s
  | .storeQueueDrain core slot => Sys2Proof.Machine.execStoreQueueDrain core slot s
  | .pageWalk part die => Sys2Proof.Machine.execPageWalk part die s
  | .accessReplay core slot => Sys2Proof.Machine.execAccessReplay core slot s
  | .icacheFill core slot bundle => Sys2Proof.Machine.execIcacheFill core slot bundle s
  | .bundleRefetch core slot => Sys2Proof.Machine.execBundleRefetch core slot s
  | .cardParse vf q => Sys2Proof.Machine.execCardParse vf q s
  | .fenceConditionMet vf q => Sys2Proof.Machine.execFenceConditionMet vf q s
  | .dealChunk part => Sys2Proof.Machine.execDealChunk part s
  | .stealChunk core => Sys2Proof.Machine.execStealChunk core s
  | .workgroupStart core => Sys2Proof.Machine.execWorkgroupStart core s
  | .jobComplete job => Sys2Proof.Machine.execJobComplete job s
  | .copyPiece core cmd write row ofs => Sys2Proof.Machine.execCopyPiece core cmd write row ofs s
  | .copyComplete core cmd => Sys2Proof.Machine.execCopyComplete core cmd s
  | .engineCommandStart core cmd early => Sys2Proof.Machine.execEngineCommandStart core cmd early s
  | .engineCommandComplete core cmd => Sys2Proof.Machine.execEngineCommandComplete core cmd s
  | .adrvDrain core cmd => Sys2Proof.Machine.execAdrvDrain core cmd s
  | .schedulerSwap core act => Sys2Proof.Machine.execSchedulerSwap core act s
  | .forcedSwap core => Sys2Proof.Machine.execForcedSwap core s
  | .freeSlotFill core => Sys2Proof.Machine.execFreeSlotFill core s
  | .gatingEntry core => Sys2Proof.Machine.execGatingEntry core s
  | .gatingHoldoffExpire core => Sys2Proof.Machine.execGatingHoldoffExpire core s
  | .gatingExitDone core => Sys2Proof.Machine.execGatingExitDone core s
  | .preemptReq vf => Sys2Proof.Machine.execPreemptReq vf s
  | .groupPreemptStop core slot => Sys2Proof.Machine.execGroupPreemptStop core slot s
  | .preemptTimeout core slot => Sys2Proof.Machine.execPreemptTimeout core slot s
  | .preemptResume vf => Sys2Proof.Machine.execPreemptResume vf s
  | .groupResume core slot => Sys2Proof.Machine.execGroupResume core slot s
  | .rowClaimComplete core => Sys2Proof.Machine.execRowClaimComplete core s
  | .tileSpill core tile => Sys2Proof.Machine.execTileSpill core tile s
  | .quantumExpire part => Sys2Proof.Machine.execQuantumExpire part s
  | .groupRetire core slot => Sys2Proof.Machine.execGroupRetire core slot s
  | .groupTerminate core slot => Sys2Proof.Machine.execGroupTerminate core slot s
  | .engineFaultDelivery core slot => Sys2Proof.Machine.execEngineFaultDelivery core slot s
  | .debugHalt vf gid => Sys2Proof.Machine.execDebugHalt vf gid s
  | .debugStep vf gid => Sys2Proof.Machine.execDebugStep vf gid s
  | .debugFocus vf gid lane => Sys2Proof.Machine.execDebugFocus vf gid lane s
  | .debugUnfocus vf gid => Sys2Proof.Machine.execDebugUnfocus vf gid s
  | .debugRun vf gid => Sys2Proof.Machine.execDebugRun vf gid s
  | .debugDump vf gid => Sys2Proof.Machine.execDebugDump vf gid s
  | .instructionSample core act => Sys2Proof.Machine.execInstructionSample core act s
  | .jobQueueDoorbell vf q p => Sys2Proof.Machine.execJobQueueDoorbell vf q p s
  | .queueEnWrite vf data q value => Sys2Proof.Machine.execQueueEnWrite vf data q value s
  | .faultResume fn seq => Sys2Proof.Machine.execFaultResume fn seq s
  | .fqconsWrite fn value => Sys2Proof.Machine.execFqconsWrite fn value s
  | .biasFlipToDevice vf page => Sys2Proof.Machine.execBiasFlipToDevice vf page s
  | .biasFlipToHost vf page => Sys2Proof.Machine.execBiasFlipToHost vf page s
  | .biasFlipComplete vf => Sys2Proof.Machine.execBiasFlipComplete vf s
  | .tlbInvalidateRange vf va => Sys2Proof.Machine.execTlbInvalidateRange vf va s
  | .tlbInvalidateAll vf => Sys2Proof.Machine.execTlbInvalidateAll vf s
  | .stage2Invalidate vf => Sys2Proof.Machine.execStage2Invalidate vf s
  | .invalidationComplete vf stage2 => Sys2Proof.Machine.execInvalidationComplete vf stage2 s
  | .placementWrite die ofs value => Sys2Proof.Machine.execPlacementWrite die ofs value s
  | .vfbindWrite vf value => Sys2Proof.Machine.execVfbindWrite vf value s
  | .policySubmit value => Sys2Proof.Machine.execPolicySubmit value s
  | .policyVerifyDone part => Sys2Proof.Machine.execPolicyVerifyDone part s
  | .policyTeardown part => Sys2Proof.Machine.execPolicyTeardown part s
  | .quoteRequest value => Sys2Proof.Machine.execQuoteRequest value s
  | .quoteComplete => Sys2Proof.Machine.execQuoteComplete s
  | .latencyMonitorConfig vf q value => Sys2Proof.Machine.execLatencyMonitorConfig vf q value s
  | .logOvfClear vf => Sys2Proof.Machine.execLogOvfClear vf s
  | .halfReadLow path vf ofs => Sys2Proof.Machine.execHalfReadLow path vf ofs s
  | .halfReadHigh path vf ofs => Sys2Proof.Machine.execHalfReadHigh path vf ofs s
  | .warmStart => Sys2Proof.Machine.execWarmStart s
  | .registerWrite fn ofs value => Sys2Proof.Machine.execRegisterWrite fn ofs value s
  | .coldStart => Sys2Proof.Machine.execColdStart s
  | .pcieReset => Sys2Proof.Machine.execPcieReset s
  | .softError die correctable pa => Sys2Proof.Machine.execSoftError die correctable pa s
  | .hostMemAccess write pa bytes => Sys2Proof.Machine.execHostMemAccess write pa bytes s
  | .remoteFrameReceive frame => Sys2Proof.Machine.execRemoteFrameReceive frame s
  | .osierRetransmit frame => Sys2Proof.Machine.execOsierRetransmit frame s
  | .osierPortFail port => Sys2Proof.Machine.execOsierPortFail port s
  | .droopDetect core => Sys2Proof.Machine.execDroopDetect core s
  | .clockReturnStep core => Sys2Proof.Machine.execClockReturnStep core s
  | .powerCapStep watts => Sys2Proof.Machine.execPowerCapStep watts s
  | .thermalThrottle die tenths => Sys2Proof.Machine.execThermalThrottle die tenths s
  | .thermalShutdown die tenths => Sys2Proof.Machine.execThermalShutdown die tenths s
  | .sagEnd core => Sys2Proof.Machine.execSagEnd core s
  | .powerLoss => Sys2Proof.Machine.execPowerLoss s
  | .osierPortEnable port enable => Sys2Proof.Machine.execOsierPortEnable port enable s
  | .osierPortUp port => Sys2Proof.Machine.execOsierPortUp port s
  | .spilledLineArrival core wg line => Sys2Proof.Machine.execSpilledLineArrival core wg line s

end Sys2Proof.Machine
end

