-- ==== Sys2Proof/Machine/Late.lean ====
section
/-! DEFINITION. What the device does for functions once flips of bias are over (R292). -/

namespace Sys2Proof.Machine

/-- One thing that waited is done, or waits on. -/
def State.redo (s : State) (fn : Nat) : Late → State
  | .event words => s.eqWrite fn words
  | .faults => s.retryWithheld fn
  | .zeros q slot => s.publishZero fn q slot 1
  | .pool va words => if (s.vf fn).late.any Late.isPool || s.fnHeld fn va then s.delay fn (.pool va words) else (s.fnWrite fn va (wordBytes words)).getD s
  | .sample words => s.putSample fn words
  | .command value => s.dbgCommand fn value
  | .card part q addr seq order at_ held => s.readCont fn part q addr ⟨seq, order, at_⟩ held

/-- What waited for a function is tried again, in order. -/
def State.redoAll (s : State) (fn : Nat) : State :=
  (s.vf fn).late.foldl (fun s x => s.redo fn x) (s.modVf fn fun v => { v with late := [] })

/-- What waited is tried again for every function; conditions that a flip kept from being read are read (R102). -/
def State.settleLate (s : State) : State :=
  ((s.vfs.filter fun p => !p.2.late.isEmpty).foldl (fun s p => s.redoAll p.1) s).noteFences

end Sys2Proof.Machine
end

