-- ==== Sys2Proof/Machine/Turn.lean ====
section
/-! DEFINITION. One turn of the machine: the schedule's head, or with nothing scheduled the turn of the group that
`State.cur` names, or the passing of one clock; and how an instruction word is placed for the next step. -/

namespace Sys2Proof.Machine

/-- One decision of a shared port that is free, among the groups that ask now: the winner issues (R147, R153; DESIGN CHOICE,
assumption 90). -/
def State.decidePort (s : State) (core port : Nat) : Host.Outcome State Fault Refusal :=
  let rs := s.requesters core port
  match (if (s.core core).portFree.toList.getD port 0 ≤ s.clock then s.winner core port rs else none) with
  | none => .next s
  | some w => match (s.settlePort core port w rs).nextAct core w with
    | .run i s => exec i s
    | _ => .next s

/-- A group issues its instruction, where no port has to be won; of the groups at one rendezvous slot the lowest goes first, and
one that has something to do before it comes there does that (R268). -/
def State.issueTurn (s : State) (core slot : Nat) (i : Instr) (t : State) : Host.Outcome State Fault Refusal :=
  let n := s.slotFirst core slot i
  if n = slot then exec i t
  else match s.nextAct core n with
    | .run j u => exec j u
    | .ev j => exec j s
    | .other u => .next u
    | .idle => .next s

/-- A group's turn: an instruction that needs a shared port issues by a decision of that port alone. One held for an operand
parks (R149), and one that has issued and was held by a page fault is made again (R478), without a port; while a bank or its
pipe holds it nothing happens. -/
def State.take (s : State) (core slot : Nat) : Host.Outcome State Fault Refusal :=
  match s.nextAct core slot, s.ctxOf core slot with
  | .other s, _ => .next s
  | .ev i, _ => exec i s
  | .run i t, some c =>
    if c.g.counted || s.opHeld c i.form then exec i t
    else if s.heldBack c i.form then .next s
    else match portOf i.form c.g.mask with
      | some p => s.decidePort core p
      | none => s.issueTurn core slot i t
  | _, _ => .next s

/-- Functions with a group in an active slot. -/
def State.activeVfs (s : State) : List Nat :=
  ((s.groupList.filter fun x => ((s.core x.1).activeOf x.2.1).isSome).map fun x => x.2.2.vf).eraseDups

/-- BUSYMS counts the milliseconds that some time in which a group was active touches, each once (R432, R441). -/
def Vf.busy (v : Vf) (start ns : Nat) : Vf :=
  let lo := max v.busyAt (start / 1000000)
  let hi := (start + ns - 1) / 1000000 + 1
  if ns = 0 ∨ hi ≤ lo then v else { v with busyMs := v.busyMs + BitVec.ofNat 64 (hi - lo), busyAt := hi }

/-- Time moves on to a clock and a reference instant: clocks are counted (R413), and active functions are busy (R441). -/
def State.passTo (s : State) (clock ref : Nat) : State :=
  let t := s.coreList.foldl (fun t p => t.countClocks p.1 (clock - s.clock)) s
  let t := s.activeVfs.foldl (fun t v => t.modVf v fun v => v.busy s.ref (ref - s.ref)) t
  { t with clock := clock, ref := ref }

/-- The latest multiple of 2^t µs, for each t, that lies after an instant and not after another; the earliest first. -/
def gridMarks (start stop : Nat) : List (Nat × Nat) :=
  ((List.range 32).map fun i => (31 - i, stop / (1000 * 2 ^ (31 - i)) * (1000 * 2 ^ (31 - i)))).filter fun p =>
    decide (start < p.2)

/-- Clocks and reference nanoseconds pass (R15): cores notice idleness and readiness (R150, R167), sources ask their banks
(R159), what waited for a flip is tried (R292), and samples are taken where a grid instant passes (R440). -/
def State.tick (s : State) (clocks ns : Nat) : State :=
  let t := ((List.range 64).foldl (fun t c => (t.settleCore c).settleBanks c) s).settleLate
  let t := (gridMarks s.ref (s.ref + ns)).foldl (fun (t : State) p =>
    (t.passTo (s.clock + clocks * (p.2 - s.ref) / ns) p.2).sampleAt p.1) t
  t.passTo (s.clock + clocks) (s.ref + ns)

/-- A turn of the schedule. -/
def State.turn (s : State) : Turn → Host.Outcome State Fault Refusal
  | .issue core slot => s.take core slot
  | .decide core port => s.decidePort core port
  | .event i => exec i s
  | .tick clocks ns => .next (s.tick clocks ns)

/-- Nothing can happen at a group's turn in this clock: it has nothing to do, or a miss slot, a tile, a bank, its pipe or the port
that it needs is taken. -/
def State.waits (s : State) (core slot : Nat) : Bool :=
  match s.nextAct core slot, s.ctxOf core slot with
  | .idle, _ => true
  | .run i _, some c =>
    if c.g.counted then false
    else if s.opHeld c i.form then
      (c.heldBy i.form (s.enqdWords c i.form)).any fun id => c.g.pends.any fun q => q.id == id && (!q.slot || q.dest == .tile)
    else s.heldBack c i.form || (portOf i.form c.g.mask).any fun p => decide (s.clock < (s.core core).portFree.toList.getD p 0)
  | _, _ => false

/-- One step of the machine. -/
def State.stepOn (s : State) : Host.Outcome State Fault Refusal :=
  match s.agenda with
  | t :: rest => { s with agenda := rest }.turn t
  | [] => if s.waits s.cur.1 s.cur.2 then .next (s.tick 1 1) else s.take s.cur.1 s.cur.2

/-! ## Placing an instruction word -/

/-- A group as a job's start leaves it (R60), with all 96 lanes, coil depth 64, 704 frame slots and the largest
allotment, at slot 1 of bundle 0x1000. -/
def Group.loaded : Group :=
  { vf := pfn, part := 0, job := 0, wg := 0, gid := 0, wgn := 0, start := 0, gstate := .running, pc := ⟨0x1000, 1⟩,
    sv := 1, rjt := false, members := BitVec.allOnes 96, helper := 0,
    lanes := Vector.replicate 96 { act := LaneAct.fresh, preds := 0, flags := 0, rep := 0 },
    s := (((Vector.replicate 64 0).set 61 0xFFFFFFFF).set 62 0xFFFFFFFF).set 63 0xFFFFFFFF,
    spend := [], spoison := [], coilD := 64, fslots := 704, cap := 43680, cdepth := 63, base := 0, entryB := 0x1000, frameSize := 704,
    depth := 0, stack := [], rets := [], completing := false, t0 := {}, t1 := {}, wait := {}, waitPC := 0,
    resume := .none, waitDone := false, sq := [], pends := [], csr := {}, progress := 0,
    loss := Vector.replicate 4 0, boost := Vector.replicate 4 0, latestFirst := 0, latestCount := 0, copyCtx := none,
    swapHint := false, live := {}, haltSeq := 0, claimed := [], rejoin := false, entered := true, dstop := false,
    dstep := false, bpPass := none, focus := none, term := none, readySince := none,
    miss := none }

/-- The bundle that holds one word in a slot and nothing else. -/
def oneWord (slot : Nat) (w : DWord) : List DWord :=
  let slots := (List.range 7).map fun i => if i + 1 = slot then w else 0
  let rjt := fld w 55 9 == 0x025 && slot == 1
  mkHeader (BitVec.ofNat 7 (2 ^ (slot - 1))) rjt false slots :: slots

/-- The issuing group made ready: it waits for nothing, nothing else is due before its instruction. -/
def Group.ready (g : Group) : Group :=
  { g with gstate := .running, wait := {}, resume := .none, waitDone := false, entered := true, dstop := false,
           bpPass := some g.pc, completing := g.completing || g.atArrival, rejoin := false, swapHint := false,
           busy := 0, landed := false, counted := false, bankAt := some (g.pc, 0), csr := { g.csr with epend := [] } }

/-- The state whose next step issues a word: the group that `State.cur` names (a freshly started one where there is
none) is ready in the one active slot held, its port free, and its bundle, in the instruction cache, holds the word. -/
def State.placeWord (s : State) (w : DWord) : State :=
  let (c, n) := if s.cur.1 < 64 then s.cur else (0, 0)
  let g := (s.group? c n).getD Group.loaded
  let slot := if g.pc.slot = 0 ∨ 7 < g.pc.slot then 1 else g.pc.slot
  let g := Group.ready { g with pc := ⟨g.pc.bundle, slot⟩ }
  let l : IcLine := { vf := g.vf, job := g.job, va := g.pc.bundle, words := oneWord slot w }
  let s := s.modCore c fun k =>
    { k with groups := nins k.groups n g
             active := (Vector.replicate 8 none).set 0 (some n)
             swaps := []
             portFree := Vector.replicate 4 0
             pipeFree := Vector.replicate 8 0
             gate := { k.gate with gated := false, exitDone := none }
             icache := icFill k.icache l }
  { (s.modVf g.vf fun v => if v.pstate = .stopping then { v with pstate := .running } else v) with
      agenda := [], cur := (c, n), sys := { s.sys with stopped := false, off := false } }

end Sys2Proof.Machine
end

