-- ==== Sys2Proof/Machine/Step.lean ====
section
/-! DEFINITION. The one step function, and placing an instruction where the next step issues it. -/

namespace Sys2Proof.Machine

/-- One step: the next turn of the schedule (Machine/Turn.lean). -/
def step (s : State) : Host.Outcome State Fault Refusal := s.stepOn

/-- The word whose bits are w, in the bundle that the next step issues from. -/
def State.withFetchWord (s : State) (nbits w : Nat) : State := s.placeWord (BitVec.ofNat 64 (w % 2 ^ nbits))

end Sys2Proof.Machine
end

