-- ==== Sys2Proof/Safety.lean ====
section
/-! DEFINITION. The terms in which claims speak of a step: when an instruction issues, the state after an instruction
that made some change, and the tables of instructions that share one shape. -/

namespace Sys2Proof.Machine

/-- The context c issues an instruction with guards g1 and g2: the module runs, `State.cur` names c's group, its mask
words are at hand (R156), E is its executing mask (R63), and pc is the next slot (R49). -/
structure Issues (s : State) (c : Ctx) (g1 g2 : Guard) (E : LaneMask) (pc : PC) : Prop where
  running : s.sys.stopped = false
  group : s.ctx? = some c
  mask : c.maskReady = .ok ()
  exec : c.g.exec g1 g2 = E
  next : c.g.pc.next c.g.sv = some pc

/-- The state after the issuing group's change: it stands at pc, at which nothing completes (R196), and the issue of the form i is
counted (R49, R152, R413). -/
def State.goes (s : State) (c : Ctx) (i : Form) (pc : PC) : State :=
  (s.modGroup c.core c.slot fun g => { g with pc := pc, completing := false }).issued c i

/-- The same where the change is to the issuing group alone. -/
def State.goesAs (s : State) (c : Ctx) (i : Form) (g : Group) (pc : PC) : State := (s.setGroup c.core c.slot g).goes c i pc

/-- An instruction of format V that works lane by lane: opcode, constructor, what a lane does. -/
structure VecRow where
  op : Nat
  ctor : VOps → Instr
  fn : VOps → LaneIn → LaneOut

/-- The vector instructions whose lanes are independent (R182, R187, R212 to R227, R241 to R255, R391). -/
def vecRows : List VecRow := [
  ⟨0x020, .pick, opPick⟩, ⟨0x021, .pick2, opPick2⟩, ⟨0x026, .setp, opSetp⟩,
  ⟨0x040, .iadd, opIadd⟩, ⟨0x041, .isub, opIsub⟩, ⟨0x042, .imul, opImul⟩, ⟨0x043, .imulh, opImulh⟩,
  ⟨0x044, .imad, opImad⟩, ⟨0x045, .imadw, opImadw⟩, ⟨0x046, .idivm, opIdivm⟩, ⟨0x047, .imin, opImin⟩,
  ⟨0x048, .imax, opImax⟩, ⟨0x049, .iabs, opIabs⟩, ⟨0x04A, .ineg, opIneg⟩, ⟨0x04B, .iadds, opIadds⟩,
  ⟨0x04C, .isubs, opIsubs⟩, ⟨0x04D, .and, opAnd⟩, ⟨0x04E, .or, opOr⟩, ⟨0x04F, .xor, opXor⟩,
  ⟨0x050, .andn, opAndn⟩, ⟨0x051, .not, opNot⟩, ⟨0x052, .shl, opShl⟩, ⟨0x053, .shr, opShr⟩,
  ⟨0x054, .sar, opSar⟩, ⟨0x055, .funsh, opFunsh⟩, ⟨0x056, .bfx, opBfx⟩, ⟨0x057, .bfi, opBfi⟩,
  ⟨0x058, .popc, opPopc⟩, ⟨0x059, .clz, opClz⟩, ⟨0x05A, .ctz, opCtz⟩, ⟨0x05B, .brev, opBrev⟩,
  ⟨0x05C, .prmb, opPrmb⟩, ⟨0x05D, .icmp, opIcmp⟩, ⟨0x05E, .isel, opIsel⟩, ⟨0x05F, .iaddc, opIaddc⟩,
  ⟨0x060, .agen, opAgen⟩, ⟨0x061, .iadd64, opIadd64⟩, ⟨0x062, .iext, opIext⟩, ⟨0x063, .idot4, opIdot4⟩] ++ [
  ⟨0x080, .fadd, opFadd⟩, ⟨0x081, .fsub, opFsub⟩, ⟨0x082, .fmul, opFmul⟩, ⟨0x083, .ffma, opFfma⟩,
  ⟨0x084, .fmin, opFmin⟩, ⟨0x085, .fmax, opFmax⟩, ⟨0x086, .fcmp, opFcmp⟩, ⟨0x087, .fclass, opFclass⟩,
  ⟨0x088, .frnd, opFrnd⟩, ⟨0x089, .fscale, opFscale⟩, ⟨0x08A, .frcp, opFrcp⟩, ⟨0x08B, .frsq, opFrsq⟩,
  ⟨0x08C, .fsqrt, opFsqrt⟩, ⟨0x08D, .fdiv, opFdiv⟩, ⟨0x08E, .fex2, opFex2⟩, ⟨0x08F, .flg2, opFlg2⟩,
  ⟨0x090, .fsin, opFsin⟩, ⟨0x091, .fcos, opFcos⟩, ⟨0x092, .ftanh, opFtanh⟩, ⟨0x093, .fcvt, opFcvt⟩,
  ⟨0x094, .fcvti, opFcvti⟩, ⟨0x095, .icvtf, opIcvtf⟩, ⟨0x096, .hadd2, opFadd⟩, ⟨0x097, .hmul2, opFmul⟩,
  ⟨0x098, .hfma2, opFfma⟩, ⟨0x099, .hmin2, opFmin⟩, ⟨0x09A, .hmax2, opFmax⟩, ⟨0x09B, .qscl, opQscl⟩,
  ⟨0x09C, .fpack, opFpack⟩, ⟨0x09D, .funpk, opFunpk⟩, ⟨0x166, .twg, opTwg⟩]

/-- An instruction of format V that reads other lanes of its group. -/
structure ExchRow where
  op : Nat
  ctor : VOps → Instr
  fn : VOps → Ctx → LaneMask → Vector DWord 96 → Vector DWord 96 → Fin 96 → LaneOut

/-- The exchange instructions that change lanes of the group alone (R261 to R267). -/
def exchRows : List ExchRow := [
  ⟨0x0C0, .qswp, xQswp⟩, ⟨0x0C1, .qbc, xQbc⟩, ⟨0x0C2, .shfl, xShfl⟩, ⟨0x0C3, .vote, xVote⟩,
  ⟨0x0C4, .redv, xRedv⟩, ⟨0x0C5, .scan, xScan⟩, ⟨0x0C6, .matchLanes, xMatch⟩, ⟨0x0C9, .rdlane, xRdlane⟩]

/-- A scalar instruction that touches no memory. -/
structure ScalarRow where
  op : Nat
  ctor : SOps → Instr
  fn : SOps → Ctx → DWord → DWord → DWord → DWord

/-- The scalar instructions with one result from their sources (R230, R232, R236). -/
def scalarRows : List ScalarRow := [
  ⟨0x0E0, .sadd, fun f _ a b _ => sAddV f.ty a b⟩, ⟨0x0E1, .ssub, fun f _ a b _ => sSubV f.ty a b⟩,
  ⟨0x0E2, .smul, fun f _ a b _ => sMulV f.ty a b⟩, ⟨0x0E3, .sand, fun f _ a b _ => sAndV f.ty a b⟩,
  ⟨0x0E4, .sor, fun f _ a b _ => sOrV f.ty a b⟩, ⟨0x0E5, .sxor, fun f _ a b _ => sXorV f.ty a b⟩,
  ⟨0x0E6, .sshl, fun f _ a b _ => sShlV f.ty a b⟩, ⟨0x0E7, .sshr, fun f _ a b _ => sShrV f.ty a b⟩,
  ⟨0x0E8, .ssar, fun f _ a b _ => sSarV f.ty a b⟩, ⟨0x0E9, .smin, fun f _ a b _ => sMinV f.ty a b⟩,
  ⟨0x0EA, .smax, fun f _ a b _ => sMaxV f.ty a b⟩, ⟨0x0F1, .spopc, fun f _ a b _ => sPopcV f.ty a b⟩,
  ⟨0x0F2, .sclz, fun f _ a b _ => sClzV f.ty a b⟩, ⟨0x0F4, .sbfx, fun f _ a b _ => sBfxV f.ty a b⟩,
  ⟨0x0EC, .ssel, fun _ _ a b t => if t ≠ 0 then a else b⟩,
  ⟨0x0ED, .smovk, fun f c a _ _ =>
    if (a + f.imm.setWidth 64).toNat < 128 then c.kreg (a + f.imm.setWidth 64).toNat else 0⟩,
  ⟨0x0F3, .smovs, fun f c a _ _ =>
    match f.mod.toNat with
    | 0 => a
    | 1 => a &&& (maskWord c.g.members (f.d.val - 61)).setWidth 64
    | _ => (maskWord c.g.members (f.imm.toNat % 4)).setWidth 64⟩]

/-- The guards of an instruction that does nothing but move on where no lane executes (R64); a CSRW that names HRPC is
checked first (R410). -/
def skips : Instr → Option (Guard × Guard)
  | .sld f | .sst f => some (f.g1, f.g2)
  | .fence f => some (f.g1, f.g2)
  | .cpy f => some (f.g1, f.g2)
  | .cmt f | .waitt f | .tlrd f | .arv f | .wph f | .yield f | .btake f | .bpass f => some (f.g1, f.g2)
  | .enq f | .enqd f | .deq f | .dcadd f | .dcrd f | .fres f | .fjoin f | .fget f | .nextch f | .tinfo f => some (f.g1, f.g2)
  | .csrr f | .time f | .ctrrd f | .ctrcfg f => some (f.g1, f.g2)
  | .csrw f => if f.imm.toNat = 7 then none else some (f.g1, f.g2)
  | .talloc f | .tfree f | .mml f | .aclr f | .ald f | .adrn f | .mcntl f | .mmrg f | .cntz f | .bfly f | .bflyp f =>
    some (f.g1, f.g2)
  | _ => none

end Sys2Proof.Machine
end

