-- ==== Sys2Proof/Certificates/Slice0/Obligations.lean ====
section
/-! DEFINITION. The statements: what instructions and events complete with and what they leave alone, what an exception
does, what reset leaves, and how words decode. -/

open Sys2Proof Sys2Proof.Machine

/-! ## Vector and scalar instructions -/

/-- COMPLETION AND RESULT of every lane-by-lane vector instruction (`vecRows`: PICK, PICK2, SETP, the integer and the
floating instructions): with its names in range and live and their values at hand, it applies its function to each
lane of E and goes on; every other lane stays as it is. When the sources of a vector instruction are at hand (R66,
R80, R172): each name it uses is in range and, if a coil age, live in every lane of E, and every word it names there
has arrived. Then each lane of E reads what R79 says. A vector instruction whose sources are not at hand takes the
trap they give, a precise fault or a hold until the value arrives, and has issued only if a page fault of its own access
holds it (R66, R156, R302, R478). -/
def Obligations.VectorInstructionsComplete : Prop :=
  (∀ r ∈ vecRows, ∀ (f : VOps) (s : State) (c : Ctx) (E : LaneMask) (pc : PC) (a b t : Vector DWord 96),
    Issues s c f.g1 f.g2 E pc →
    c.sources (s.wgidOf c) E f ((vrule r.op).uses f) = .ok (a, b, t) →
    exec (r.ctor f) s = .next (s.goesAs c (.v r.op f)
      (c.g.modLanes E fun l ln => ln.apply c.g.coilD (f.imm.toNat % 8) (r.fn f ⟨a[l], b[l], t[l]⟩)) pc)) ∧
  (∀ (c : Ctx) (wgid : Nat) (E : LaneMask) (f : VOps) (u : Use × Use × Use),
    (∀ p ∈ usedNames f u, (∀ n : Fin 64, p.1 = .age n → n.val + p.2 ≤ c.g.coilD ∧
        ∀ l : Fin 96, inMask E l.val = true → (c.g.lane l).act.live (n.val + p.2) = true) ∧
      (∀ n : Fin 704, p.1 = .frame n → n.val + p.2 ≤ c.g.frameSize)) →
    (∀ q ∈ [(u.1, f.a), (u.2.1, f.b), (u.2.2, f.c)], ∀ l : Fin 96, useReads q.1 = true → inMask E l.val = true →
      ∃ v, c.vsrc wgid f.ty f.imm (q.1 == .pair) q.2 l = .val v) →
    ∃ a b t, c.sources wgid E f u = .ok (a, b, t) ∧
      ∀ l : Fin 96, inMask E l.val = true →
        (useReads u.1 = true → c.vsrc wgid f.ty f.imm (u.1 == .pair) f.a l = .val a[l]) ∧
        (useReads u.2.1 = true → c.vsrc wgid f.ty f.imm (u.2.1 == .pair) f.b l = .val b[l]) ∧
        (useReads u.2.2 = true → c.vsrc wgid f.ty f.imm (u.2.2 == .pair) f.c l = .val t[l])) ∧
  (∀ r ∈ vecRows, ∀ (f : VOps) (s : State) (c : Ctx) (t : Trap),
    s.sys.stopped = false → s.ctx? = some c → c.maskWait = .ok () →
    c.sources (s.wgidOf c) (c.g.exec f.g1 f.g2) f ((vrule r.op).uses f) = .error t →
    exec (r.ctor f) s = .next ((s.trap c t).heldIssue c (.v r.op f)))

/-- COMPLETION AND RESULT of the exchange instructions that stay in their group (`exchRows`: QSWP, QBC, SHFL, VOTE,
REDV, SCAN, MATCH, RDLANE) and of WRLANE. -/
def Obligations.ExchangeInstructionsComplete : Prop :=
  (∀ r ∈ exchRows, ∀ (f : VOps) (s : State) (c : Ctx) (E : LaneMask) (pc : PC) (a b t : Vector DWord 96),
    Issues s c f.g1 f.g2 E pc →
    c.sources (s.wgidOf c) E f ((vrule r.op).uses f) = .ok (a, b, t) →
    exec (r.ctor f) s = .next (s.goesAs c (.v r.op f)
      (c.g.modLanes E fun l ln => ln.apply c.g.coilD (f.imm.toNat % 8) (r.fn f c E a b l)) pc)) ∧
  (∀ (f : VOps) (s : State) (c : Ctx) (E : LaneMask) (pc : PC) (a b t : Vector DWord 96) (n : Fin 704),
    Issues s c f.g1 f.g2 E pc → f.a = .frame n →
    c.sources (s.wgidOf c) E f ((vrule 0x0CA).uses f) = .ok (a, b, t) →
    c.framePending (maskOf fun l => l == f.imm.toNat && inMask E l) n.val = .ok () →
    exec (.wrlane f) s = .next (s.goesAs c (.v 0x0CA f)
      (c.g.modLanes (maskOf fun l => l == f.imm.toNat && inMask E l) fun l ln =>
        { ln with act := ln.act.setFr n.val (.word (lowWord b[l])) }) pc))

/-- COMPLETION AND RESULT of the scalar instructions (`scalarRows`, SCMP and SMOVI): where a lane executes and the
sources and s[SD] are free, the result goes to s[SD] (SCMP: also to predicate pd of every lane of E). What a write of
a scalar does (R193, R235): below s61 it stores the value; a mask word keeps bits 63 to 32 zero and takes only lanes
of the current path, and any other lane makes it the precise fault MASK_WRITE (code 0x0B, subcode 1) that names the
register and the offending lanes. SMOVI.hi leaves the poison of s[SD] as it is. -/
def Obligations.ScalarInstructionsComplete : Prop :=
  ((∀ r ∈ scalarRows, ∀ (f : SOps) (s : State) (c : Ctx) (E : LaneMask) (pc : PC) (a b t : DWord) (g : Group),
    Issues s c f.g1 f.g2 E pc → E ≠ 0 → c.ssources (s.wgidOf c) r.op f = .ok (a, b, t) →
    c.freeS f.d.val = .ok () → writeS c.g f.d.val (r.fn f c a b t) = .ok g →
    exec (r.ctor f) s = .next (s.goesAs c (.s r.op f) g pc)) ∧
  (∀ (f : SOps) (s : State) (c : Ctx) (E : LaneMask) (pc : PC) (a b t : DWord) (g : Group),
    Issues s c f.g1 f.g2 E pc → E ≠ 0 → c.ssources (s.wgidOf c) 0x0EB f = .ok (a, b, t) →
    c.freeS f.d.val = .ok () →
    writeS (c.g.modLanes E fun _ ln =>
        ln.setP (f.imm.toNat % 8) (intCond (f.mod.toNat % 8) (sInt f.ty a) (sInt f.ty b))) f.d.val
      (if intCond (f.mod.toNat % 8) (sInt f.ty a) (sInt f.ty b) then 1 else 0) = .ok g →
    exec (.scmp f) s = .next (s.goesAs c (.s 0x0EB f) g pc)) ∧
  (∀ (f : SmoviOps) (s : State) (c : Ctx) (E : LaneMask) (pc : PC) (g : Group),
    Issues s c f.g1 f.g2 E pc → E ≠ 0 → c.freeS f.d.val = .ok () →
    writeS c.g f.d.val (if f.hi then f.lit ++ lowWord (c.g.sreg f.d.val)
      else if f.ty = .i32 then f.lit.signExtend 64 else f.lit.setWidth 64) = .ok g →
    exec (.smovi f) s = .next (s.goesAs c (.smovi f) (if f.hi then { g with spoison := c.g.spoison } else g) pc))) ∧
  ((∀ (g : Group) (d : Nat) (v : DWord), d < 61 → writeS g d v = .ok (g.setS d v)) ∧
  (∀ (g : Group) (d : Nat) (v : DWord), 61 ≤ d → d < 64 →
    lowWord v &&& ~~~(maskWord g.members (d - 61)) = 0 → writeS g d v = .ok (g.setS d ((lowWord v).setWidth 64))) ∧
  (∀ (g : Group) (d : Nat) (v : DWord), 61 ≤ d → d < 64 →
    lowWord v &&& ~~~(maskWord g.members (d - 61)) ≠ 0 →
    ∃ m : LaneMask, writeS g d v = .error (.fault 0x0B 1 (BitVec.ofNat 64 d) m) ∧
      ∀ l : Nat, l < 96 → inMask m l = (decide (l / 32 = d - 61) && v.getLsbD (l % 32) && !inMask g.members l)))

/-- COMPLETION AND RESULT of SAVE, SAVEM, FRAME, PLOP and P2V. COMPLETION AND RESULT of RJN (R186): at slot 1 of a
completing entry whose lanes' coils agree with the descriptor, every lane keeps its marked coil and the selected
values, and the entry leaves the stack. That RJN keeps the floor at or below P is the model's reading (log 12). -/
def Obligations.OperandClassComplete : Prop :=
  ((∀ (f : VOps) (s : State) (c : Ctx) (E : LaneMask) (pc : PC) (a b t : Vector DWord 96) (n : Fin 704),
    Issues s c f.g1 f.g2 E pc → f.a = .frame n →
    c.sources (s.wgidOf c) E f ((vrule 0x022).uses f) = .ok (a, b, t) →
    (∀ i : Nat, i < (if tyPair f.ty then 2 else 1) → c.framePending E (n.val + i) = .ok ()) →
    exec (.save f) s = .next (s.goesAs c (.v 0x022 f) (c.g.modLanes E fun l ln =>
      { ln with act := if tyPair f.ty
          then (ln.act.setFr n.val (.word (lowWord b[l]))).setFr (n.val + 1) (.word (highWord b[l]))
          else ln.act.setFr n.val (.word (lowWord b[l])) }) pc)) ∧
  (∀ (f : VOps) (s : State) (c : Ctx) (E : LaneMask) (pc : PC) (n : Fin 704) (a : Fin 64)
      (vs : List (Vector DWord 96)),
    Issues s c f.g1 f.g2 E pc → f.a = .frame n → f.b = .age a →
    c.checkNames E [(f.a, f.imm.toNat), (f.b, f.imm.toNat)] = .ok () →
    (∀ i : Nat, i < f.imm.toNat → c.framePending E (n.val + i) = .ok ()) →
    ((List.range f.imm.toNat).mapM fun i => c.readLanes E fun l =>
      ((c.g.lane l).act.age c.g.coilD (a.val + f.imm.toNat - i)).opnd) = .ok vs →
    exec (.savem f) s = .next (s.goesAs c (.v 0x023 f) (c.g.modLanes E fun l ln =>
      { ln with act := (List.range f.imm.toNat).foldl (fun act i =>
          act.setFr (n.val + i) (.word (lowWord (vs.getD i (Vector.replicate 96 0))[l]))) ln.act }) pc)) ∧
  (∀ (f : VOps) (s : State) (c : Ctx) (E : LaneMask) (pc : PC) (v : DWord),
    Issues s c f.g1 f.g2 E pc → E ≠ 0 → c.need E (c.vsrc 0 f.ty f.imm false f.a 0) = .ok v →
    (lowWord v).toNat ≤ 704 → (c.g.rets = [] → (lowWord v).toNat ≤ c.g.fslots) →
    c.g.base + c.g.coilD + (lowWord v).toNat ≤ c.g.cap →
    exec (.frame f) s = .next (s.goesAs c (.v 0x024 f) (c.g.sizeFrame (lowWord v).toNat) pc)) ∧
  (∀ (f : PlopOps) (s : State) (c : Ctx) (E : LaneMask) (pc : PC), Issues s c f.g1 f.g2 E pc →
    exec (.plop f) s = .next (s.goesAs c (.plop f) (c.g.modLanes E fun _ ln =>
      ln.setP f.pd.val (f.table.getLsbD (2 * (ln.p f.pa.val).toNat + (ln.p f.pb.val).toNat))) pc)) ∧
  (∀ (f : VOps) (s : State) (c : Ctx) (E : LaneMask) (pc : PC), Issues s c f.g1 f.g2 E pc →
    exec (.p2v f) s = .next (s.goesAs c (.v 0x028 f) (c.g.modLanes E fun _ ln =>
      ln.pushAll c.g.coilD [.word (p2vWord f ln)]) pc))) ∧
  (∀ (f : VOps) (s : State) (c : Ctx) (E : LaneMask) (pc : PC) (b : DWord) (dp : Nat) (mem arr by' : LaneMask)
      (sd : NMap Nat) (mk : NMap (BitVec 32)) (rest : List Entry) (vs : List (Vector DWord 96)) (d : Nat),
    Issues s c f.g1 f.g2 E pc → c.g.pc.slot = 1 → c.g.rjt = true → c.g.completing = true →
    c.g.stack = .rcv b dp mem arr by' sd mk :: rest →
    d = (c.kreg (f.imm.toNat + 1)).toNat * 2 ^ 64 + (c.kreg f.imm.toNat).toNat → d / 2 ^ 125 ≤ 4 →
    (∀ l : Fin 96, inMask E l.val = true →
      rjCheck c.g.coilD d (d / 2 ^ 125) (c.g.lane l).act (nget 0 sd l.val) (nget 0 mk l.val) = none) →
    ((List.range (d / 2 ^ 125)).mapM fun i => c.readLanes E fun l =>
      ((c.g.lane l).act.age c.g.coilD ((rjSide d (nget 0 sd l.val) (d / 2 ^ 125)).2.getD i 1)).opnd) = .ok vs →
    exec (.rjn f) s = .next (s.goesAs c (.v 0x025 f)
      { (c.g.modLanes E fun l ln =>
          { ln with act := rjApply c.g.coilD (rjSide d (nget 0 sd l.val) (d / 2 ^ 125)).1 ln.act
                             (rjSide d (nget 0 sd l.val) (d / 2 ^ 125)).2 (vs.map fun v => lowWord v[l]) }) with
        stack := rest, completing := false } pc))

/-! ## Control flow -/

/-- COMPLETION AND RESULT of NOP, BR and JMPI. A BR whose condition differs among the lanes of E is the precise fault
UNIFORM_BREACH, with the lanes whose condition is true as its lane mask (R203). With E empty BR, BRC, JMPI, BRK, YLDP,
EXIT, CALL and CALLI go on at the next slot (R64). -/
def Obligations.BranchesComplete : Prop :=
  ((∀ (f : BOps) (s : State) (c : Ctx) (E : LaneMask) (pc : PC), Issues s c f.g1 f.g2 E pc →
    exec (.nop f) s = .next (s.goesAs c (.b 0x000 f) c.g pc)) ∧
  (∀ (f : BOps) (s : State) (c : Ctx) (E : LaneMask) (pc : PC), Issues s c f.g1 f.g2 E pc → E ≠ 0 →
    (∀ l : Fin 96, inMask E l.val = true → (c.g.lane l).guard f.cond = false) →
    exec (.br f) s =
      .next ((s.setGroup c.core c.slot { c.g with pc := pc, completing := false }).issued c (.b 0x001 f))) ∧
  (∀ (f : BOps) (s : State) (c : Ctx) (E : LaneMask) (pc : PC), Issues s c f.g1 f.g2 E pc → E ≠ 0 →
    (∀ l : Fin 96, inMask E l.val = true → (c.g.lane l).guard f.cond = true) →
    (branchTo c.g.pc.bundle f.disp).extractLsb' 56 8 = 0 →
    exec (.br f) s = .next ((s.setGroup c.core c.slot
      { c.g with pc := ⟨branchTo c.g.pc.bundle f.disp, 1⟩, completing := false }).issued c (.b 0x001 f))) ∧
  (∀ (f : BIOps) (s : State) (c : Ctx) (E : LaneMask) (pc : PC) (a : DWord) (ws : List DWord) (u : State),
    Issues s c f.g1 f.g2 E pc → E ≠ 0 → c.readS f.t.val = .ok a → a.extractLsb' 56 8 = 0 → a.toNat % 64 = 0 →
    s.fetchBundle c.core c.g a = .words ws u → hdrEntry (ws.headD 0) = true →
    exec (.jmpi f) s = .next ((u.modGroup c.core c.slot fun g =>
      { g with pc := ⟨a, 1⟩, completing := false }).issued c (.bi 0x003 f)))) ∧
  (∀ (f : BOps) (s : State) (c : Ctx) (E T : LaneMask) (pc : PC), Issues s c f.g1 f.g2 E pc →
    T = lanesWhere E (fun l => (c.g.lane l).guard f.cond) → T ≠ 0 → T ≠ E →
    exec (.br f) s = .next (s.preciseOpen c 0x04 1 T)) ∧
  (∀ (s : State) (c : Ctx) (pc : PC),
    (∀ f : BOps, Issues s c f.g1 f.g2 0 pc →
      ∀ p ∈ [(0x001, Instr.br f), (0x002, .brc f), (0x004, .brk f), (0x005, .yldp f), (0x006, .exit f), (0x007, .call f)],
        exec p.2 s =
          .next ((s.setGroup c.core c.slot { c.g with pc := pc, completing := false }).issued c (.b p.1 f))) ∧
    (∀ f : BIOps, Issues s c f.g1 f.g2 0 pc → ∀ p ∈ [(0x003, Instr.jmpi f), (0x008, .calli f)],
      exec p.2 s =
        .next ((s.setGroup c.core c.slot { c.g with pc := pc, completing := false }).issued c (.bi p.1 f))))

/-- COMPLETION AND RESULT of BRC (R204), new or refreshing, for every split of E: no lane's values change; the taken
lanes run at the target if there are any, else the not-taken lanes run on; with both, the not-taken lanes are a
pending path. -/
def Obligations.DivergentBranchCompletes : Prop :=
  ∀ (f : BOps) (s : State) (c : Ctx) (E T : LaneMask) (pc : PC), Issues s c f.g1 f.g2 E pc → E ≠ 0 →
    T = lanesWhere E (fun l => (c.g.lane l).guard f.cond) → c.g.stack.length + 2 ≤ 32 →
    (branchTo c.g.pc.bundle f.disp).extractLsb' 56 8 = 0 →
    ∃ g : Group, exec (.brc f) s = .next ((s.setGroup c.core c.slot g).issued c (.b 0x002 f)) ∧ g.lanes = c.g.lanes ∧
      (T ≠ 0 → g.pc = ⟨branchTo c.g.pc.bundle f.disp, 1⟩ ∧ g.mask = T) ∧
      (T = 0 → g.pc = pc ∧ g.mask &&& E = E) ∧
      (T ≠ 0 → T ≠ E → ∃ m k, Entry.pnd pc c.g.depth m k ∈ g.stack ∧ k &&& (E &&& ~~~T) = E &&& ~~~T)

/-- COMPLETION AND RESULT of BRK (R206): the lanes of E arrive at the innermost reconvergence point with side code
AUX; the rest of the path goes on, or another path runs. COMPLETION AND RESULT of YLDP (R207): the topmost sibling
runs and the yielding path is the lowest sibling; with no sibling the path goes on. COMPLETION AND RESULT of EXIT
(R208): outside a handler, with no flag to report, the lanes of E leave every path and entry; the group goes on with
its other lanes, another path, or leaves. -/
def Obligations.PathsEndAndYield : Prop :=
  (∀ (f : BOps) (s : State) (c : Ctx) (E : LaneMask) (pc : PC) (i : Nat) (g : Group),
    Issues s c f.g1 f.g2 E pc → E ≠ 0 → c.g.inner = some i →
    g = { ((c.g.modEntry i fun e => match e with
        | .rcv b d m a y sd mks =>
          .rcv b d m (a ||| E) y ((lanesOf E).foldl (fun t l => nset 0 t l.val f.aux.toNat) sd) mks
        | e => e).setMask (c.g.mask &&& ~~~E)) with members := c.g.members &&& ~~~E } →
    exec (.brk f) s = .next ((if c.g.members &&& ~~~E = 0 then s.goOn c g
      else s.setGroup c.core c.slot { g with pc := pc, completing := false }).issued c (.b 0x004 f))) ∧
  ((∀ (f : BOps) (s : State) (c : Ctx) (E : LaneMask) (pc : PC), Issues s c f.g1 f.g2 E pc →
    c.g.siblingTop = 0 → exec (.yldp f) s =
      .next ((s.setGroup c.core c.slot { c.g with pc := pc, completing := false }).issued c (.b 0x005 f))) ∧
  (∀ (f : BOps) (s : State) (c : Ctx) (E : LaneMask) (pc p : PC) (d : Nat) (m k : LaneMask) (rest : List Entry),
    Issues s c f.g1 f.g2 E pc → E ≠ 0 → c.g.stack = .pnd p d m k :: rest → 0 < c.g.siblingTop →
    (c.g.inner.isSome = true ∨ d = c.g.depth) →
    exec (.yldp f) s = .next ((s.setGroup c.core c.slot
      ({ c.g with
         stack := rest.take (c.g.siblingTop - 1) ++
           Entry.pnd pc c.g.depth c.g.members c.g.mask :: rest.drop (c.g.siblingTop - 1)
         members := m, pc := p, completing := false }.setMask k)).issued c (.b 0x005 f)))) ∧
  (∀ (f : BOps) (s : State) (c : Ctx) (E : LaneMask) (pc : PC), Issues s c f.g1 f.g2 E pc → E ≠ 0 →
    c.g.csr.inHandler = false → c.flagsIn = .ok () → c.g.newFlagsOr E = 0 → c.g.newEngine = 0 →
    exec (.exit f) s = .next ((if (c.g.removeLanes E).members = 0 then s.goOn c (c.g.removeLanes E)
      else s.setGroup c.core c.slot { (c.g.removeLanes E) with pc := pc, completing := false }).issued c (.b 0x006 f)))

/-- COMPLETION AND RESULT of CALL, CALLI and RET (R190, R191). The recorded return PC is the slot after the call, or
the next bundle where that slot is invalid (R49). A call and its return leave the caller's activation as it was: base,
frame size and depth come back, and each lane finds its caller's frame (R177, R190, R191). -/
def Obligations.CallsComplete : Prop :=
  ((∀ (f : BOps) (s : State) (c : Ctx) (E : LaneMask) (pc ret : PC) (vs : List (Vector DWord 96)),
    Issues s c f.g1 f.g2 E pc → E ≠ 0 → c.floorN E f.aux.toNat = .ok () → c.readAges E f.aux.toNat = .ok vs →
    c.g.depth ≠ c.g.cdepth → c.g.base + c.g.coilD + c.g.frameSize + c.g.coilD ≤ c.g.cap →
    (branchTo c.g.pc.bundle f.disp).extractLsb' 56 8 = 0 → ret = c.g.pc.after c.g.sv →
    exec (.call f) s = .next ((s.setGroup c.core c.slot
      (c.g.enter E ret f.aux.toNat vs (branchTo c.g.pc.bundle f.disp))).issued c (.b 0x007 f))) ∧
  (∀ (f : BIOps) (s u : State) (c : Ctx) (E : LaneMask) (pc ret : PC) (vs : List (Vector DWord 96)) (a : DWord)
      (ws : List DWord),
    Issues s c f.g1 f.g2 E pc → E ≠ 0 → c.floorN E f.aux.toNat = .ok () → c.readAges E f.aux.toNat = .ok vs →
    c.readS f.t.val = .ok a → a.extractLsb' 56 8 = 0 → a.toNat % 64 = 0 →
    s.fetchBundle c.core c.g a = .words ws u → hdrEntry (ws.headD 0) = true →
    c.g.depth ≠ c.g.cdepth → c.g.base + c.g.coilD + c.g.frameSize + c.g.coilD ≤ c.g.cap → ret = c.g.pc.after c.g.sv →
    exec (.calli f) s = .next ((u.setGroup c.core c.slot (c.g.enter E ret f.aux.toNat vs a)).issued c (.bi 0x008 f))) ∧
  (∀ (f : BOps) (s : State) (c : Ctx) (E : LaneMask) (pc ret : PC) (vs : List (Vector DWord 96)) (eb : DWord)
      (bs fs n : Nat) (cm ms : LaneMask) (acts : Vector LaneAct 96) (rest : List RetRec) (back : Group),
    Issues s c f.g1 f.g2 E pc → c.floorN E f.aux.toNat = .ok () → c.readAges E f.aux.toNat = .ok vs →
    c.g.rets = .call ret eb bs fs n cm ms c.g.stack.length acts :: rest →
    back = c.g.popCall.modLanes E (fun _ ln => { ln with act := { ln.act with P := ln.act.P - BitVec.ofNat 32 n } }) →
    exec (.ret f) s = .next ((s.setGroup c.core c.slot
      { ((back.modLanes E fun l ln => { ln with act := pushWords c.g.coilD ln.act l vs }).stamp
          fun l => (back.lane l).act.P) with
        members := ms, pc := ret, completing := false }).issued c (.b 0x009 f)))) ∧
  (∀ (pc : PC) (sv : BitVec 7),
    pc.after sv = if pc.slot < 7 ∧ sv.getLsbD pc.slot = true then ⟨pc.bundle, pc.slot + 1⟩ else ⟨pc.bundle + 64, 1⟩) ∧
  (∀ (g : Group) (E : LaneMask) (ret : PC) (n : Nat) (vs : List (Vector DWord 96)) (t : DWord),
    ((g.enter E ret n vs t).popCall).base = g.base ∧ ((g.enter E ret n vs t).popCall).frameSize = g.frameSize ∧
    ((g.enter E ret n vs t).popCall).depth = g.depth ∧ ((g.enter E ret n vs t).popCall).rets = g.rets ∧
    ∀ l : Fin 96, (((g.enter E ret n vs t).popCall).lane l).act = (g.lane l).act)

/-! ## Rendezvous and memory -/

/-- COMPLETION AND RESULT of XSEND and XRECV (R269): at a slot where the partner waits with the same executing set,
the sender's words are pushed in the receiver's lanes of E, the slot is empty again and both go on. XSEND is a
release: its clauses are for a sender with no queued store and no pending load. At an empty slot XSEND and XRECV park
with wait kinds 0x0C and 0x0D; a slot whose waiting party has the same direction is the precise fault RENDEZVOUS 1,
and unequal executing sets fault both parties with subcode 2 (R269). A parked
partner whose function is being pre-empted stops first (`State.stopParked`, R415). That the waiting group stands at
its own instruction (log 35), and that of two groups that fault the waiting one does so first (log 92), are the model's
choices. -/
def Obligations.RendezvousCompletes : Prop :=
  ((∀ (f : VOps) (s : State) (c : Ctx) (E : LaneMask) (pc : PC) (a b t : Vector DWord 96) (p : Nat) (h : Group) (w : Nat),
    Issues s c f.g1 f.g2 E pc → c.g.csr.inHandler = false → s.hasPartner c.core c.slot c.g.wg = true →
    c.sources (s.wgidOf c) E f ((vrule 0x0C7).uses f) = .ok (a, b, t) → c.g.sq = [] → c.g.loads = [] →
    s.xslot c.core c.g.wg (f.imm.toNat % 16) = .receiving p → s.group? c.core p = some h →
    h.resume = .recv (f.imm.toNat % 16) E w →
    exec (.xsend f) s = .next ((((s.setXslot c.core c.g.wg (f.imm.toNat % 16) .empty).stopParked c.core p h).goNextWith c.core p
      fun g => g.receive E (a.toList.map lowWord)).goes c (.v 0x0C7 f) pc)) ∧
  (∀ (f : VOps) (s : State) (c : Ctx) (E : LaneMask) (pc : PC) (p : Nat) (h : Group) (vs : List Word),
    Issues s c f.g1 f.g2 E pc → c.g.csr.inHandler = false → s.hasPartner c.core c.slot c.g.wg = true →
    s.xslot c.core c.g.wg (f.imm.toNat % 16) = .sending p → s.group? c.core p = some h →
    h.resume = .send (f.imm.toNat % 16) E vs →
    exec (.xrecv f) s = .next (((((s.setXslot c.core c.g.wg (f.imm.toNat % 16) .empty).stopParked c.core p h).goNextWith c.core p id).modGroup
      c.core c.slot fun g => g.receive E vs).goes c (.v 0x0C8 f) pc))) ∧
  ((∀ (f : VOps) (s : State) (c : Ctx) (E : LaneMask) (pc : PC) (a b t : Vector DWord 96),
    Issues s c f.g1 f.g2 E pc → c.g.csr.inHandler = false → s.hasPartner c.core c.slot c.g.wg = true →
    c.sources (s.wgidOf c) E f ((vrule 0x0C7).uses f) = .ok (a, b, t) →
    (s.xslot c.core c.g.wg (f.imm.toNat % 16) = .empty → c.g.sq = [] → c.g.loads = [] →
      exec (.xsend f) s = .next (s.waitSlot c (.v 0x0C7 f) (f.imm.toNat % 16) 0x0C (.sending c.slot)
        (.send (f.imm.toNat % 16) E (a.toList.map lowWord)))) ∧
    (∀ p : Nat, s.xslot c.core c.g.wg (f.imm.toNat % 16) = .sending p →
      exec (.xsend f) s = .next (s.precise c fcXchg 1 (BitVec.ofNat 64 (f.imm.toNat % 16)) E)) ∧
    (∀ (p : Nat) (h : Group) (E' : LaneMask) (w : Nat) (d : Ctx), c.g.sq = [] → c.g.loads = [] →
      s.xslot c.core c.g.wg (f.imm.toNat % 16) = .receiving p → s.group? c.core p = some h →
      h.resume = .recv (f.imm.toNat % 16) E' w → E' ≠ E →
      ((s.setXslot c.core c.g.wg (f.imm.toNat % 16) .empty).stopParked c.core p h).ctxOf c.core p = some d →
      exec (.xsend f) s = .next ((((s.setXslot c.core c.g.wg (f.imm.toNat % 16) .empty).stopParked c.core p h).precise d fcXchg 2
          (BitVec.ofNat 64 (f.imm.toNat % 16 + c.g.wgn * 2 ^ 8)) E').precise c fcXchg 2
          (BitVec.ofNat 64 (f.imm.toNat % 16 + h.wgn * 2 ^ 8)) E))) ∧
  (∀ (f : VOps) (s : State) (c : Ctx) (E : LaneMask) (pc : PC),
    Issues s c f.g1 f.g2 E pc → c.g.csr.inHandler = false → s.hasPartner c.core c.slot c.g.wg = true →
    (s.xslot c.core c.g.wg (f.imm.toNat % 16) = .empty →
      exec (.xrecv f) s = .next (s.waitSlot c (.v 0x0C8 f) (f.imm.toNat % 16) 0x0D (.receiving c.slot)
        (.recv (f.imm.toNat % 16) E 0))) ∧
    (∀ p : Nat, s.xslot c.core c.g.wg (f.imm.toNat % 16) = .receiving p →
      exec (.xrecv f) s = .next (s.precise c fcXchg 1 (BitVec.ofNat 64 (f.imm.toNat % 16)) E)) ∧
    (∀ (p : Nat) (h : Group) (E' : LaneMask) (vs : List Word) (d : Ctx),
      s.xslot c.core c.g.wg (f.imm.toNat % 16) = .sending p → s.group? c.core p = some h →
      h.resume = .send (f.imm.toNat % 16) E' vs → E' ≠ E →
      ((s.setXslot c.core c.g.wg (f.imm.toNat % 16) .empty).stopParked c.core p h).ctxOf c.core p = some d →
      exec (.xrecv f) s = .next ((((s.setXslot c.core c.g.wg (f.imm.toNat % 16) .empty).stopParked c.core p h).precise d fcXchg 2
          (BitVec.ofNat 64 (f.imm.toNat % 16 + c.g.wgn * 2 ^ 8)) E').precise c fcXchg 2
          (BitVec.ofNat 64 (f.imm.toNat % 16 + h.wgn * 2 ^ 8)) E))))

/-- The checks of an access (R302): with every lane's check passed the instruction goes on; otherwise the first check
of the order that fails in any lane decides, and if it is not the translation, its fault is precise, with the lanes
that fail it and the address of the lowest. -/
def Obligations.AccessChecksDecide : Prop :=
  (∀ (s : State) (c : Ctx) (write : Bool) (cs : List (Nat × DWord × Chk)),
    (∀ p ∈ cs, ∃ loc ty, p.2.2 = .ok loc ty) → s.judge c write cs = .ok ()) ∧
  (∀ (s : State) (c : Ctx) (write : Bool) (pre post : List (Nat × DWord × Chk)) (l : Nat) (a : DWord) (r code sub : Nat),
    r < 6 → (∀ p ∈ pre, r < p.2.2.rank) → (∀ p ∈ post, r ≤ p.2.2.rank) →
    s.judge c write (pre ++ (l, a, .bad r code sub) :: post) = .error (.fault code sub a
      (maskOf fun x => ((l, a, Chk.bad r code sub) :: post).any fun p => p.2.2.rank == r && p.1 == x)))

/-- COMPLETION AND RESULT of the loads LD, LDL and SPRES (R304, R307, R312): once the checks pass, the accesses issue
(`State.issueLoad`), and each lane of E gets its value or the slot its value will land in; SPRES pushes the presence
bit of each line. COMPLETION AND RESULT of SLD (R234, R235): data at hand goes to s[SD] at once, poisoned data marking
it; otherwise a pending request awaits it, and s[SD] with it. When a load's data counts as at hand is the model's own
schedule (log 14). -/
def Obligations.LoadsComplete : Prop :=
  ((∀ (f : MOps) (s : State) (c : Ctx) (E : LaneMask) (pc : PC) (a pv : Vector DWord 96) (ls : List LaneAt)
      (r : State × List (Nat × Val)),
    Issues s c f.g1 f.g2 E pc →
    c.addresses (s.wgidOf c) E f (2 ^ f.scale.toNat) (sizeBytes f.size.toNat) 0 = .ok a →
    s.judge c false (s.checks c (E &&& ~~~c.g.helper)
      { priv := true, size := sizeBytes f.size.toNat, write := false, uncached := true } a) = .ok () →
    ls = placed (s.checks c E { priv := true, size := sizeBytes f.size.toNat, write := false, uncached := true } a) →
    (∀ p ∈ ls, s.flipping p.loc = false ∧ c.g.behindAtomic p.loc (sizeBytes f.size.toNat) = false) →
    c.readLanes (privLanes ls) (fun l => match (c.g.lane l).act.fr (privOfs ls l.val / 4) with
      | .poison q => if inMask c.g.helper l.val then .val 0 else .bad q
      | v => v.opnd) = .ok pv →
    r = (s.count c.core c.g.vf 4 ((lanesOf (privLanes ls)).filter fun l =>
        (c.g.lane l).act.fr (privOfs ls l.val / 4) == .word 0).length).issueLoad c (sizeBytes f.size.toNat)
      (f.size.getLsbD 0) false (loadAcq E f) f.hint.toNat (ls.filter fun p => (privSlot p.loc).isNone) →
    exec (.ld f) s = .next ((r.1.pushVals c E fun l =>
      if inMask (privLanes ls) l.val then
        [.word (lowWord (extend (f.size.getLsbD 0) (sizeBytes f.size.toNat)
          (pv[l].toNat / 2 ^ (8 * (privOfs ls l.val % 4)) % 2 ^ (8 * sizeBytes f.size.toNat))))]
      else [valIn r.2 l.val]).goes c (.m 0x100 f) pc)) ∧
  (∀ (f : MOps) (s : State) (c : Ctx) (E : LaneMask) (pc : PC) (a : Vector DWord 96) (ls : List LaneAt)
      (r : State × List (Nat × Val)),
    Issues s c f.g1 f.g2 E pc → c.addresses (s.wgidOf c) E f 1 128 0 = .ok a →
    s.judge c false (needed c.g.helper (s.lineChecks c E false a)) = .ok () →
    ls = lineLanes (s.lineChecks c E false a) →
    (∀ p ∈ ls, s.flipping p.loc = false ∧ c.g.behindAtomic p.loc 4 = false) →
    r = s.issueLoad c 4 false true (loadAcq E f) f.hint.toNat ls →
    exec (.ldl f) s = .next ((r.1.pushVals c E fun l => [valIn r.2 l.val]).goes c (.m 0x102 f) pc)) ∧
  (∀ (f : MOps) (s : State) (c : Ctx) (E : LaneMask) (pc : PC) (a : Vector DWord 96) (ls : List LaneAt),
    Issues s c f.g1 f.g2 E pc → c.addresses (s.wgidOf c) E f 1 128 0 = .ok a →
    s.judge c false (s.checks c (E &&& ~~~c.g.helper) { global := false, dscr := false, size := 1, write := false } a)
      = .ok () →
    ls = placed (s.checks c E { global := false, dscr := false, size := 1, write := false } a) →
    exec (.spres f) s = .next ((s.pushVals c E fun l => match ls.find? fun p => p.lane == l.val with
      | some p => [.word (if s.absentLine p.loc then 0 else 1)]
      | none => [.word 0]).goes c (.m 0x108 f) pc))) ∧
  (∀ (f : SOps) (s u : State) (c : Ctx) (E : LaneMask) (pc : PC) (b x y a : DWord) (loc : Loc) (ty size : Nat) (h : Bool)
      (via : Via) (part : LoadPart),
    Issues s c f.g1 f.g2 E pc → E ≠ 0 → c.ssources (s.wgidOf c) 0x0EF f = .ok (b, x, y) →
    c.freeS f.d.val = .ok () → size = 2 ^ (f.mod.toNat % 4) → a = sAddr b f.imm size →
    s.check c.req { size := size, write := false, uncached := true } a = .ok loc ty →
    s.flipping loc = false → c.g.behindAtomic loc size = false → via = s.viaOf false loc ty →
    h = s.atHand c.core c.g.vf via loc → part = ⟨0, loc, size, f.ty == .i32, false⟩ →
    u = (s.touchAll c false [⟨0, loc, ty, a⟩]).lookup c via loc h →
    (h = true → c.g.loads = [] → ∀ (v : Option DWord) (g : Group),
      u.partValue c.core c.g.vf via c.g.sq u.nextId part = v → writeS c.g f.d.val (v.getD 0) = .ok g →
      exec (.sld f) s = .next (State.goes (
        let w := (u.loadLine c.core c.g.part c.g.vf via hintScalar loc).setGroup c.core c.slot
          (if v.isSome then g else { g with spoison := (f.d.val, c.g.pc.word) :: g.spoison })
        if f.mod.getLsbD 2 then w.acquire c.core c.g.vf .device else w) c (.s 0x0EF f) pc)) ∧
    (h = false ∨ c.g.loads ≠ [] →
      exec (.sld f) s = .next (((u.newId.2.sendReq c.core c.slot
        { id := u.newId.1, kind := if u.absentLine loc then 1 else 2, obj := DWord.line a, pc := c.g.pc.word,
          stamp := u.newId.1, hint := hintScalar, via := via, acq := if f.mod.getLsbD 2 then some .device else none,
          dest := .scalar f.d.val part, hit := h }).modGroup c.core c.slot fun g =>
            { g with spend := g.spend ++ [(f.d.val, u.newId.1)] }).goes c (.s 0x0EF f) pc)))

/-- COMPLETION AND RESULT of the stores ST, STL and SST (R234, R305 to R307): once the checks pass and the queue has
room, each lane that writes puts its address, width and data in the group's store queue; lane-private bytes are
written at once. No byte of memory changes at issue but what a table walk notes. -/
def Obligations.StoresComplete : Prop :=
  (∀ (f : MOps) (s : State) (c : Ctx) (E : LaneMask) (pc : PC) (a d : Vector DWord 96) (ls : List LaneAt)
      (bs : List Beat) (g : Group),
    Issues s c f.g1 f.g2 E pc →
    c.addresses (s.wgidOf c) E f (2 ^ f.scale.toNat) (sizeBytes f.size.toNat) (if f.size == 5 then 2 else 1) = .ok a →
    c.readLanes E (c.vsrc (s.wgidOf c) (if f.size == 5 then .n64 else .n32) 0 (f.size == 5) f.data) = .ok d →
    s.judge c true (s.checks c (E &&& ~~~c.g.helper)
      { priv := true, size := sizeBytes f.size.toNat, write := true, uncached := true } a) = .ok () →
    ls = placed (s.checks c (E &&& ~~~c.g.helper)
      { priv := true, size := sizeBytes f.size.toNat, write := true, uncached := true } a) →
    (∀ p ∈ ls, s.flipping p.loc = false) →
    bs = beatsFrom .store f.order.toNat f.scope f.hint.toNat s.nextId c.g.pc.word
      ((ls.filter fun p => (privSlot p.loc).isNone).map fun p =>
        { lane := p.lane, loc := p.loc, size := sizeBytes f.size.toNat, data := if h : p.lane < 96 then d[p.lane] else 0,
          cached := s.l2At p.loc p.ty }) →
    c.g.sq.length + bs.length ≤ 32 →
    (∀ l ∈ lanesOf (privLanes ls), ∀ id part, (c.g.lane l).act.fr (privOfs ls l.val / 4) ≠ .pend id part) →
    g = (c.g.modLanes (privLanes ls) fun l ln =>
        { ln with act := ln.act.setFr (privOfs ls l.val / 4) (privPut (ln.act.fr (privOfs ls l.val / 4))
            (privOfs ls l.val) (sizeBytes f.size.toNat) (d[l].toNat)) }) →
    exec (.st f) s = .next (((((s.newId.2.touchAll c true ls).enqueue c bs).modGroup c.core c.slot fun h =>
      { h with lanes := g.lanes }).count c.core c.g.vf 5 ((lanesOf (privLanes ls)).filter fun l =>
        (g.lane l).act.fr (privOfs ls l.val / 4) == .word 0).length).goes c (.m 0x101 f) pc)) ∧
  (∀ (f : MOps) (s : State) (c : Ctx) (E : LaneMask) (pc : PC) (a d : Vector DWord 96) (ls : List LaneAt)
      (bs : List Beat),
    Issues s c f.g1 f.g2 E pc → c.addresses (s.wgidOf c) E f 1 128 1 = .ok a →
    c.readLanes E (c.vsrc (s.wgidOf c) .n32 0 false f.data) = .ok d →
    s.judge c true (needed c.g.helper (s.lineChecks c E true a)) = .ok () →
    ls = lineLanes (needed c.g.helper (s.lineChecks c E true a)) →
    (∀ p ∈ ls, s.flipping p.loc = false) →
    bs = beatsFrom .store f.order.toNat f.scope f.hint.toNat s.nextId c.g.pc.word (ls.map fun p =>
      { lane := p.lane, loc := p.loc, size := 4, data := if h : p.lane < 96 then d[p.lane] else 0,
        cached := s.l2At p.loc p.ty }) →
    c.g.sq.length + bs.length ≤ 32 →
    exec (.stl f) s = .next (((s.newId.2.touchAll c true ls).enqueue c bs).goes c (.m 0x103 f) pc)) ∧
  (∀ (f : SOps) (s : State) (c : Ctx) (E : LaneMask) (pc : PC) (b d x : DWord) (loc : Loc) (ty size : Nat),
    Issues s c f.g1 f.g2 E pc → E ≠ 0 → c.ssources (s.wgidOf c) 0x0F0 f = .ok (b, d, x) →
    size = 2 ^ (f.mod.toNat % 4) →
    s.check c.req { size := size, write := true, uncached := true } (sAddr b f.imm size) = .ok loc ty →
    s.flipping loc = false → c.g.sq.length < 32 →
    exec (.sst f) s = .next (((s.newId.2.touchAll c true [⟨0, loc, ty, sAddr b f.imm size⟩]).enqueue c
      [⟨.store, [{ lane := 0, loc := loc, size := size, data := d, cached := s.l2At loc ty }],
        if f.mod.getLsbD 2 then 2 else 0, .device, 0, s.nextId, c.g.pc.word⟩]).goes c (.s 0x0F0 f) pc))

/-- A store that leaves its queue writes exactly its bytes (R2, R305, R306): no byte outside its elements' places
changes, a single element's bytes are its data's, least significant first, and the group's queue loses that beat. The
store queue is in program order: a beat leaves only as the group's oldest, after every earlier load has its value, not
while a line it names is absent, and not before its requests find their miss slots (R281, R306, R316, R426). -/
def Obligations.DrainWritesTheStoredBytes : Prop :=
  (∀ (s : State) (core slot : Nat) (g : Group) (b : Beat), s.sys.off = false → s.sys.stopped = false → s.group? core slot = some g →
    s.drainable core g = some b → b.op = .store →
    ∃ t, exec (.storeQueueDrain core slot) s = .next t ∧
      (∀ x : Nat, (∀ e ∈ b.elems, ∀ pa : Nat, e.loc = .phys pa → x < pa ∨ pa + e.size ≤ x) → t.mem.get x = s.mem.get x) ∧
      (∀ x : Nat, (∀ e ∈ b.elems, ∀ d o : Nat, e.loc = .dscr d o → x < d * 2 ^ 25 + o ∨ d * 2 ^ 25 + o + e.size ≤ x) →
        t.dscr.get x = s.dscr.get x) ∧
      (∀ (e : SqElem) (pa i : Nat), b.elems = [e] → e.loc = .phys pa → s.mem.wf = true → i < e.size →
        t.mem.get (pa + i) = BitVec.ofNat 8 (e.data.toNat / 256 ^ i)) ∧
      (∀ (e : SqElem) (d o i : Nat), b.elems = [e] → e.loc = .dscr d o → s.dscr.wf = true → i < e.size →
        t.dscr.get (d * 2 ^ 25 + o + i) = BitVec.ofNat 8 (e.data.toNat / 256 ^ i)) ∧
      (t.group? core slot).map (·.sq) = some g.sq.tail) ∧
  (∀ (s : State) (core slot : Nat) (g : Group), s.sys.off = false → s.sys.stopped = false → s.group? core slot = some g →
    (∀ b : Beat, s.drainable core g = some b ↔ g.sq.head? = some b ∧ (∀ p ∈ g.loads, b.stamp ≤ p.stamp) ∧
      (∀ e ∈ b.elems, s.absentLine e.loc = false) ∧
      s.beatSlots core g b = true) ∧
    (s.drainable core g = none → exec (.storeQueueDrain core slot) s = .next s))

/-- MISS_DATA_RETURN (R281, R304, R316): the oldest load, its request sent and its lines present, takes its value and
lands; the event does nothing for any other. The value of a load that no cached line and no queued byte covers is its
bytes in the single copy, low byte first, sign- or zero-extended. That loads land in program order is the model's
choice (log 14). -/
def Obligations.PendingLoadsLand : Prop :=
  (∀ (s : State) (core slot id : Nat) (g : Group) (q : PendReq), s.sys.off = false → s.sys.stopped = false → s.group? core slot = some g →
    s.landable g = some q →
    (q.id = id → exec (.missDataReturn core slot id) s = .next (s.landLoad core slot g q)) ∧
    (q.id ≠ id → exec (.missDataReturn core slot id) s = .next s)) ∧
  (∀ (s : State) (core ctx stamp : Nat) (sq : List Beat) (p : LoadPart) (pa : Nat) (via : Via), p.loc = .phys pa →
    sq = [] → s.poison = [] → ((∃ l2, via = .l1 l2) → (s.core core).l1Find ctx pa = none) →
    s.partValue core ctx via sq stamp p =
      some (extend p.sext p.size (leNat (s.mem.bytes pa p.size)))) ∧
  (∀ (id : Nat) (v : Nat → Val) (x : Val), landVal id v x = match x with
    | .pend i p => if i = id then v p else .pend i p
    | y => y)

/-- COMPLETION AND RESULT of ATOM and ACAS at issue (R308, R309): one beat for each mask word that holds a lane goes
to the store queue, and each lane of E gets the slot its old value will land in, or zero where it is a helper. What an
atomic does at the single copy, in one lane and with no other agent between (R308, R309, R316): it takes the old value
and writes f(old, v), or, for a compare-and-swap, the new value where the old one is the expected; other bytes stay.
-/
def Obligations.AtomicsComplete : Prop :=
  ((∀ (f : MOps) (s : State) (c : Ctx) (E : LaneMask) (pc : PC) (a d : Vector DWord 96) (wide : Bool) (size : Nat)
      (ls : List LaneAt) (es : List SqElem) (r : State × (Nat → Option Nat)),
    Issues s c f.g1 f.g2 E pc → wide = f.scale.getLsbD 1 → size = (if wide then 8 else 4) →
    c.addresses (s.wgidOf c) E f size size (if wide then 2 else 1) = .ok a →
    c.readLanes E (c.vsrc (s.wgidOf c) (if wide then .n64 else .n32) 0 wide f.data) = .ok d →
    s.judge c true (s.checks c (E &&& ~~~c.g.helper) { size := size, write := true } a) = .ok () →
    ls = placed (s.checks c (E &&& ~~~c.g.helper) { size := size, write := true } a) →
    (∀ p ∈ ls, s.flipping p.loc = false) →
    es = (ls.map fun p => { lane := p.lane, loc := p.loc, size := size, data := if h : p.lane < 96 then d[p.lane] else 0,
                            cached := s.l2At p.loc p.ty }) →
    c.g.sq.length + (beatsFrom .store 0 .group 0 0 0 es).length ≤ 32 →
    r = (s.touchAll c true ls).queueAtomic c (fun id => .atom f.size.toNat wide id) f.order f.scope es
      (fun l => if h : l < 96 then a[l] else 0) →
    exec (.atom f) s = .next ((r.1.pushVals c E fun l =>
      atomPush wide (if inMask (E &&& ~~~c.g.helper) l.val then r.2 l.val else none) l.val).goes c (.m 0x104 f) pc)) ∧
  (∀ (f : MOps) (s : State) (c : Ctx) (E : LaneMask) (pc : PC) (a e n : Vector DWord 96) (wide : Bool) (size : Nat)
      (own help ls : List LaneAt) (es : List SqElem) (r : State × (Nat → Option Nat)),
    Issues s c f.g1 f.g2 E pc → wide = f.scale.getLsbD 1 → size = (if wide then 8 else 4) →
    c.addresses (s.wgidOf c) E f size size (if wide then 4 else 2) = .ok a →
    c.casData (s.wgidOf c) E f wide = .ok (e, n) →
    s.judge c true (s.checks c (E &&& ~~~c.g.helper) { size := size, write := true } a) = .ok () →
    own = placed (s.checks c (E &&& ~~~c.g.helper) { size := size, write := true } a) →
    help = placed (s.checks c (E &&& c.g.helper) { size := size, write := false } a) →
    ls = ((lanesOf E).filterMap fun l => (own ++ help).find? fun p => p.lane == l.val) →
    (∀ p ∈ ls, s.flipping p.loc = false) →
    es = (ls.map fun p =>
      { lane := p.lane, loc := p.loc, size := size, data := if h : p.lane < 96 then n[p.lane] else 0,
        expect := if h : p.lane < 96 then e[p.lane] else 0, writes := !inMask c.g.helper p.lane,
        cached := s.l2At p.loc p.ty }) →
    c.g.sq.length + (beatsFrom .store 0 .group 0 0 0 es).length ≤ 32 →
    r = ((s.touchAll c true own).touchAll c false help).queueAtomic c (fun id => .acas wide id) f.order f.scope es
      (fun l => if h : l < 96 then a[l] else 0) →
    exec (.acas f) s = .next ((r.1.pushVals c E fun l =>
      atomPush wide (if inMask (lanesAt ls) l.val then r.2 l.val else none) l.val).goes c (.m 0x105 f) pc))) ∧
  ((∀ (s : State) (o id pa : Nat) (wide : Bool) (e : SqElem), e.loc = .phys pa → s.poisoned e.loc e.size = false →
    (s.atomElem (.atom o wide id) e).2 = some (leNat (s.mem.bytes pa e.size)) ∧
    (s.atomElem (.atom o wide id) e).1.mem = s.mem.put pa (leBytes e.size
      (atomFn o (8 * e.size) (leNat (s.mem.bytes pa e.size)) (e.data.toNat % 2 ^ (8 * e.size))))) ∧
  (∀ (s : State) (id pa : Nat) (wide : Bool) (e : SqElem), e.loc = .phys pa → s.poisoned e.loc e.size = false →
    (s.atomElem (.acas wide id) e).2 = some (leNat (s.mem.bytes pa e.size)) ∧
    (s.atomElem (.acas wide id) e).1.mem =
      if leNat (s.mem.bytes pa e.size) = e.expect.toNat % 2 ^ (8 * e.size) ∧ e.writes = true
      then s.mem.put pa (leBytes e.size (e.data.toNat % 2 ^ (8 * e.size))) else s.mem))

/-- COMPLETION AND RESULT of FENCE, PREF and INVL (R310, R311, R313): with a lane executing, a fence that acquires
holds its issue while an earlier load has no value, an acquire-release one while the store queue holds a beat, and
then drops the L1 lines of its context where the acquire is at cluster scope or wider; with none it goes on. A
prefetch fills the lines whose translations a TLB holds and queues walks for the others. INVL at cluster scope or
wider drops the context's L1 lines that its addresses name, at a narrower scope nothing. -/
def Obligations.CacheControlsComplete : Prop :=
  (∀ (f : MOps) (s : State) (c : Ctx) (E : LaneMask) (pc : PC), Issues s c f.g1 f.g2 E pc → E ≠ 0 →
    ((f.order.getLsbD 0 = true → c.g.loads = []) → (f.order = 3 → c.g.sq = []) →
      exec (.fence f) s =
        .next ((if f.order.getLsbD 0 then s.acquire c.core c.g.vf f.scope else s).goes c (.m 0x106 f) pc)) ∧
    (f.order.getLsbD 0 = true ∧ c.g.loads ≠ [] ∨ f.order = 3 ∧ c.g.sq ≠ [] → exec (.fence f) s = .next s)) ∧
  (∀ (s : State) (core vf : Nat) (sc : Scope), core < 64 →
    (scopeWide sc = true → ∀ l ∈ ((s.acquire core vf sc).core core).l1, l.ctx ≠ vf) ∧
    (scopeWide sc = false → s.acquire core vf sc = s)) ∧
  (∀ (f : MOps) (s : State) (c : Ctx) (pc : PC), Issues s c f.g1 f.g2 0 pc →
    exec (.fence f) s = .next (s.goes c (.m 0x106 f) pc)) ∧
  (∀ (f : MOps) (s : State) (c : Ctx) (E : LaneMask) (pc : PC) (a : Vector DWord 96), Issues s c f.g1 f.g2 E pc →
    c.addresses (s.wgidOf c) E f 1 128 0 = .ok a →
    exec (.pref f) s = .next (((((lanesOf E).map fun l => a[l].toNat).filter fun x => decide (x < 2 ^ 57)).map
      lineOf).eraseDups.foldl (fun s x =>
        if (s.tlbHit c.core c.g.vf x false).isSome then s.prefetch c.core c.g.part c.g.vf f.hint.toNat x
        else s.queueWalk c.core c.g.vf f.hint.toNat x) s |>.goes c (.m 0x107 f) pc)) ∧
  (∀ (f : MOps) (s : State) (c : Ctx) (E : LaneMask) (pc : PC) (a : Vector DWord 96), Issues s c f.g1 f.g2 E pc →
    c.addresses (s.wgidOf c) E f 1 128 0 = .ok a →
    (scopeWide f.scope = false → exec (.invl f) s = .next (s.goes c (.m 0x109 f) pc)) ∧
    (scopeWide f.scope = true → ∃ keys : List Nat,
      (∀ x : Nat, x ∈ keys ↔ ∃ (l : Fin 96) (t : TlbEntry), inMask E l.val = true ∧ a[l].toNat < 2 ^ 57 ∧
        s.xlate c.core c.g.vf a[l].toNat false = .ok t ∧ x = lineOf (Xlat.paOf t a[l].toNat)) ∧
      exec (.invl f) s = .next ((s.modCore c.core fun k =>
        { k with l1 := k.l1.filter fun l => l.ctx != c.g.vf || !keys.contains l.pa }).goes c (.m 0x109 f) pc)))

/-- COMPLETION of XSEND, XRECV, FENCE, PREF, INVL and STORE_QUEUE_DRAIN (R269, R306, R310, R311, R313): XSEND and
XRECV that find their partner waiting with the same executing set answer a state in which both stand at their next
slot and the partner waits no more; FENCE whose waits are over, PREF and INVL with readable addresses answer one in
which the group stands at the next slot; a drain of the oldest beat, whatever the beat does, answers one in which the
queue has lost it. -/
def Obligations.ExchangeAndCacheFormsComplete : Prop :=
  (∀ (f : VOps) (s : State) (c : Ctx) (E : LaneMask) (pc : PC) (a b t : Vector DWord 96) (p : Nat) (h : Group) (w : Nat),
    Issues s c f.g1 f.g2 E pc → c.g.csr.inHandler = false → s.hasPartner c.core c.slot c.g.wg = true →
    c.sources (s.wgidOf c) E f ((vrule 0x0C7).uses f) = .ok (a, b, t) → c.g.sq = [] → c.g.loads = [] → p ≠ c.slot →
    s.xslot c.core c.g.wg (f.imm.toNat % 16) = .receiving p → s.group? c.core p = some h →
    h.resume = .recv (f.imm.toNat % 16) E w →
    ∃ u, exec (.xsend f) s = .next u ∧ (u.group? c.core c.slot).map (·.pc) = some pc ∧
      (u.group? c.core p).map (fun g => (g.pc, g.resume)) =
        some ((h.pc.next h.sv).getD ⟨h.pc.bundle + 64, 1⟩, .none)) ∧
  (∀ (f : VOps) (s : State) (c : Ctx) (E : LaneMask) (pc : PC) (p : Nat) (h : Group) (vs : List Word),
    Issues s c f.g1 f.g2 E pc → c.g.csr.inHandler = false → s.hasPartner c.core c.slot c.g.wg = true → p ≠ c.slot →
    s.xslot c.core c.g.wg (f.imm.toNat % 16) = .sending p → s.group? c.core p = some h →
    h.resume = .send (f.imm.toNat % 16) E vs →
    ∃ u, exec (.xrecv f) s = .next u ∧ (u.group? c.core c.slot).map (·.pc) = some pc ∧
      (u.group? c.core p).map (fun g => (g.pc, g.resume)) =
        some ((h.pc.next h.sv).getD ⟨h.pc.bundle + 64, 1⟩, .none)) ∧
  (∀ (f : MOps) (s : State) (c : Ctx) (E : LaneMask) (pc : PC), Issues s c f.g1 f.g2 E pc →
    ((f.order.getLsbD 0 = true → c.g.loads = []) → (f.order = 3 → c.g.sq = []) →
      ∃ u, exec (.fence f) s = .next u ∧ (u.group? c.core c.slot).map (·.pc) = some pc) ∧
    (∀ a : Vector DWord 96, c.addresses (s.wgidOf c) E f 1 128 0 = .ok a →
      (∃ u, exec (.pref f) s = .next u ∧ (u.group? c.core c.slot).map (·.pc) = some pc) ∧
      ∃ u, exec (.invl f) s = .next u ∧ (u.group? c.core c.slot).map (·.pc) = some pc)) ∧
  (∀ (s : State) (core slot : Nat) (g : Group) (b : Beat), s.sys.off = false → s.sys.stopped = false → s.group? core slot = some g →
    g.sq.head? = some b → (∀ p ∈ g.loads, b.stamp ≤ p.stamp) → (∀ e ∈ b.elems, s.absentLine e.loc = false) →
    s.beatSlots core g b = true →
    ∃ u, exec (.storeQueueDrain core slot) s = .next u ∧ (u.group? core slot).map (·.sq) = some g.sq.tail)

/-! ## Frames -/

/-- FRAME of every instruction that completes with `goesAs`: memory, scratchpads, every register of the part and of
its functions, every other group, and of its own group all that g does not change, stay, but for the numbers of its
pushes (R155); the PC is pc, and the progress count rises unless the instruction has issued before (R152, R478). FRAME of a lane-by-lane change: lanes outside the mask keep everything, scalars and the
group's other fields stay; a lane that a result is applied to keeps its frame, its activation's floor rule of R171
apart, and every predicate but PD. -/
def Obligations.LocalInstructionsKeepTheRest : Prop :=
  (∀ (s t : State) (c : Ctx) (i : Form) (g : Group) (pc : PC), s.ctx? = some c → t = s.goesAs c i g pc →
    t.mem = s.mem ∧ t.dscr = s.dscr ∧ t.poison = s.poison ∧ t.vreg = s.vreg ∧ t.preg = s.preg ∧ t.vfs = s.vfs ∧
    t.jobs = s.jobs ∧ t.parts = s.parts ∧ t.clsets = s.clsets ∧ t.frames = s.frames ∧ t.ports = s.ports ∧ t.sys = s.sys ∧
    t.hostBias = s.hostBias ∧ (∀ k n : Nat, t.wg? k n = s.wg? k n) ∧
    (∀ k n : Nat, (k, n) ≠ (c.core, c.slot) → t.group? k n = s.group? k n) ∧
    ∃ h : Group, t.group? c.core c.slot = some h ∧ h.pc = pc ∧ h.s = g.s ∧
      (∀ l : Fin 96, (h.lane l).preds = (g.lane l).preds ∧ (h.lane l).flags = (g.lane l).flags ∧
        (h.lane l).rep = (g.lane l).rep ∧ (h.lane l).act.P = (g.lane l).act.P ∧ (h.lane l).act.F = (g.lane l).act.F ∧
        (h.lane l).act.coil = (g.lane l).act.coil ∧ (h.lane l).act.frame = (g.lane l).act.frame) ∧
      h.members = g.members ∧ h.stack = g.stack ∧ h.rets = g.rets ∧ h.base = g.base ∧ h.frameSize = g.frameSize ∧
      h.depth = g.depth ∧ h.csr = g.csr ∧ h.t0 = g.t0 ∧ h.t1 = g.t1 ∧ h.sq = g.sq ∧ h.pends = g.pends ∧
      h.spend = g.spend ∧ h.gstate = g.gstate ∧ h.progress = if c.g.counted then g.progress else satInc16 g.progress) ∧
  ((∀ (g : Group) (E : LaneMask) (f : Fin 96 → Lane → Lane) (l : Fin 96),
    (inMask E l.val = true → (g.modLanes E f).lane l = f l (g.lane l)) ∧
    (inMask E l.val = false → (g.modLanes E f).lane l = g.lane l)) ∧
  (∀ (g : Group) (E : LaneMask) (f : Fin 96 → Lane → Lane), (g.modLanes E f).s = g.s ∧ (g.modLanes E f).pc = g.pc ∧
    (g.modLanes E f).stack = g.stack ∧ (g.modLanes E f).csr = g.csr ∧ (g.modLanes E f).sq = g.sq) ∧
  (∀ (D pd n : Nat) (l : Lane) (o : LaneOut),
    (l.apply D pd o).act.frame = l.act.frame ∧ (l.apply D pd o).flags = l.flags ||| o.flags ∧
    ((n ≠ pd ∨ o.pred = none) → n < 8 → (l.apply D pd o).p n = l.p n) ∧
    (∀ b : Bool, o.pred = some b → 0 < pd → pd < 8 → (l.apply D pd o).p pd = b)) ∧
  (∀ (l : Lane) (n : Nat) (b : Bool), l.p 0 = true ∧ (l.setP 0 b) = l ∧ (0 < n → n < 8 → (l.setP n b).p n = b)))

/-- FRAME of the memory instructions at issue: with the lanes' translations in the core's TLB, a load, a store or an
atomic that issues changes no byte of memory, of the die scratchpads or of any workgroup's scratchpad, and no group
but its own; a load may give miss slots to requests of other groups that wait for one (R426). -/
def Obligations.MemoryInstructionsKeepMemoryAtIssue : Prop :=
  ∀ (s : State) (c : Ctx) (ls : List LaneAt) (w : Bool),
    (∀ p ∈ ls, (∃ pa, p.loc = .phys pa) →
      (tlbFind (s.core c.core).tlb c.g.vf (p.va.toNat % 2 ^ 57) w).isSome = true) →
    s.touchAll c w ls = s ∧
    (∀ bs : List Beat, (s.enqueue c bs).mem = s.mem ∧ (s.enqueue c bs).dscr = s.dscr ∧
      (∀ k n : Nat, (s.enqueue c bs).wg? k n = s.wg? k n) ∧
      (∀ k n : Nat, (k, n) ≠ (c.core, c.slot) → (s.enqueue c bs).group? k n = s.group? k n)) ∧
    (w = false → ∀ (t : State) (size hint : Nat) (sext line : Bool) (acq : Option Scope),
      t = (s.issueLoad c size sext line acq hint ls).1 → t.mem = s.mem ∧ t.dscr = s.dscr ∧
      (∀ k n : Nat, t.wg? k n = s.wg? k n) ∧
      (∀ k n : Nat, (k, n) ≠ (c.core, c.slot) →
        (t.group? k n).map (fun g => ({ g with pends := g.pends.map fun p => { p with slot := false } } : Group)) =
          (s.group? k n).map fun g => ({ g with pends := g.pends.map fun p => { p with slot := false } } : Group))) ∧
    (∀ (t : State) (op : Nat → BeatOp) (order : BitVec 2) (sc : Scope) (es : List SqElem) (vas : Nat → DWord),
      t = (s.queueAtomic c op order sc es vas).1 → t.mem = s.mem ∧ t.dscr = s.dscr ∧
      (∀ k n : Nat, t.wg? k n = s.wg? k n) ∧
      (∀ k n : Nat, (k, n) ≠ (c.core, c.slot) → t.group? k n = s.group? k n))

/-- A push (R171): the value gets age 1 and every older value one age more; the floor rises when the window is full,
so at most D values are live. -/
def Obligations.CoilPushes : Prop :=
  (∀ (D : Nat) (a : LaneAct) (v : Val), 0 < D → D ∣ 2 ^ 32 → nsorted none a.coil = true → (a.push D v).age D 1 = v) ∧
  (∀ (D n : Nat) (a : LaneAct) (v : Val), 0 < D → D ∣ 2 ^ 32 → 0 < n → n < D → (a.push D v).age D (n + 1) = a.age D n) ∧
  (∀ (D : Nat) (a : LaneAct) (v : Val), 0 < D → D < 2 ^ 31 → a.count ≤ D →
    (a.push D v).count = min D (a.count + 1) ∧ (a.push D v).frame = a.frame)

/-! ## Group-wide instructions -/

/-- A group-wide instruction with no executing lane has no effect: only the PC advances (R64). A scalar instruction
with no executing lane writes nothing: only the PC advances (R64). So does a CSRW of HRPC in a handler; outside one it
is the fault ILLEGAL_INSTRUCTION 0x07 whatever E is (R65, R410). -/
def Obligations.GroupInstructionsSkip : Prop :=
  (∀ (i : Instr) (g1 g2 : Guard) (s : State) (c : Ctx) (pc : PC), skips i = some (g1, g2) → Issues s c g1 g2 0 pc →
    exec i s = .next (s.goes c i.form pc)) ∧
  (∀ r ∈ scalarRows, ∀ (f : SOps) (s : State) (c : Ctx) (pc : PC), Issues s c f.g1 f.g2 0 pc →
    exec (r.ctor f) s = .next (s.goesAs c (.s r.op f) c.g pc)) ∧
  (∀ (f : TOps) (s : State) (c : Ctx) (E : LaneMask) (pc : PC), Issues s c f.g1 f.g2 E pc → f.imm.toNat = 7 →
    (c.g.csr.inHandler = true → E = 0 → exec (.csrw f) s = .next (s.goes c (.t 0x1A4 f) pc)) ∧
    (c.g.csr.inHandler = false → exec (.csrw f) s = .next (s.precise c 0x01 0x07 (wordT 0x1A4 f) E)))

/-- COMPLETION AND RESULT of the copies CPY, CPYG and CPYS at issue (R330, R332): after the checks of R330, with
earlier accesses done and a context to be had, the command joins its context's queue and timeline t0; the scratchpad
lines it will write become absent; nothing is copied yet. What a copy command holds of its issue is the model's own
form (log 13). -/
def Obligations.CopiesIssue : Prop :=
  ∀ (r : Nat × Nat × (EOps → Instr)) (f : EOps) (s : State) (c : Ctx) (E : LaneMask) (pc : PC) (v : Vector DWord 96)
      (src dst : DWord) (x : Nat) (idxs : List (Nat × Word)) (k : CopyCmd) (lines : List (Nat × Nat × Nat)),
    r ∈ [(0x120, 0, Instr.cpy), (0x121, 1, Instr.cpyg), (0x122, 2, Instr.cpys)] →
    Issues s c f.g1 f.g2 E pc → E ≠ 0 →
    (r.2.1 ≠ 0 → c.checkNames E [(f.an, 1)] = .ok () ∧
      c.readLanes E (c.vsrc (s.wgidOf c) .n32 f.cnt false f.an) = .ok v) →
    c.readS f.p.val = .ok src → c.readS f.q.val = .ok dst →
    cpyBad r.2.1 (c.kreg f.kix.val) f.kix.val f.cnt.toNat dst = false →
    idxs = (if r.2.1 = 0 then [] else (lanesOf (E &&& ~~~c.g.helper)).map fun l => (l.val, lowWord v[l])) →
    s.copyChecks c E r.2.1 f.cnt.toNat idxs.length src dst (c.kreg f.kix.val) (c.kreg (f.kix.val + 1))
      (c.kreg (f.kix.val + 2)) = .ok () →
    c.g.sq = [] → c.g.loads = [] → s.copyContext c = some x →
    k = { id := s.nextId, slot := c.slot, vf := c.g.vf, part := c.g.part, wg := c.g.wg, ctx := x,
          seq := c.g.t0.nextSeq 0, pc := c.g.pc.word, card := c.card, kind := r.2.1, lanes := E, src := src, dst := dst,
          k0 := c.kreg f.kix.val, k1 := c.kreg (f.kix.val + 1), k2 := c.kreg (f.kix.val + 2), cnt := f.cnt.toNat,
          idxs := idxs, entryB := c.g.entryB } →
    lines = s.newId.2.spadLines (k.req c.core) k.dsts →
    exec (r.2.2 f) s = .next ((((lines.foldl (fun s x => s.dueLine x true) s.newId.2).modCore c.core fun q =>
      { q with copies := q.copies ++ [{ k with lines := lines }], ctxOwner := q.ctxOwner.set! x (some c.slot) }).withGroup c
        fun g => { g with t0 := g.t0.issue s.nextId f.commit, copyCtx := some x }).goes c (.e r.1 f) pc)

/-- COMPLETION AND RESULT of CMT, WAITT and TLRD (R337 to R339): CMT closes the open batch and s[SD] takes C; WAITT of
a batch that has completed, or of a memory counter that has reached its value, acquires and goes on; TLRD reads C or
K. A WAITT whose condition does not hold parks, after it has issued: kind 3 for a timeline, kind 4 for a memory
counter (R163, R338). -/
def Obligations.TimelinesComplete : Prop :=
  ((∀ (f : TOps) (s : State) (c : Ctx) (E : LaneMask) (pc : PC), Issues s c f.g1 f.g2 E pc → E ≠ 0 →
    c.freeS f.d.val = .ok () →
    exec (.cmt f) s = .next (s.goesAs c (.t 0x123 f) ((c.g.setTl (f.op.toNat % 2) (c.g.tl (f.op.toNat % 2)).commit).setS f.d.val
      (BitVec.ofNat 64 (c.g.tl (f.op.toNat % 2)).commit.c)) pc)) ∧
  (∀ (f : TOps) (s : State) (c : Ctx) (E : LaneMask) (pc : PC) (v : DWord), Issues s c f.g1 f.g2 E pc → E ≠ 0 →
    f.op.getLsbD 1 = false → (f.op.getLsbD 2 = false → c.readS f.a.val = .ok v) →
    waitBatch (c.g.tl (f.op.toNat % 2)) (f.op.getLsbD 2) f.imm.toNat (if f.op.getLsbD 2 then 0 else v) ≤
      (c.g.tl (f.op.toNat % 2)).k →
    exec (.waitt f) s = .next ((s.acquire c.core c.g.vf .device).goes c (.t 0x124 f) pc)) ∧
  (∀ (f : TOps) (s u : State) (c : Ctx) (E : LaneMask) (pc : PC) (a v : DWord) (loc : Loc), Issues s c f.g1 f.g2 E pc →
    E ≠ 0 → f.op.getLsbD 1 = true → c.readS f.a.val = .ok a → c.readS f.b.val = .ok v →
    s.place c E (globalWant 8 false) a = .ok (loc, u) → c.g.loads = [] → c.noQueued loc 8 = .ok () →
    v.toNat ≤ u.readNat loc 8 →
    exec (.waitt f) s =
      .next ((u.acquire c.core c.g.vf (if f.op.getLsbD 3 then .system else .device)).goes c (.t 0x124 f) pc)) ∧
  (∀ (f : TOps) (s : State) (c : Ctx) (E : LaneMask) (pc : PC), Issues s c f.g1 f.g2 E pc → E ≠ 0 →
    c.freeS f.d.val = .ok () →
    exec (.tlrd f) s = .next ((if f.op.getLsbD 1 then s.putS c f.d.val (BitVec.ofNat 64 (c.g.tl (f.op.toNat % 2)).c)
      else (s.acquire c.core c.g.vf .device).putS c f.d.val (BitVec.ofNat 64 (c.g.tl (f.op.toNat % 2)).k)).goes c
        (.t 0x125 f) pc))) ∧
  ((∀ (f : TOps) (s : State) (c : Ctx) (E : LaneMask) (pc : PC) (v : DWord) (n : Nat), Issues s c f.g1 f.g2 E pc →
    E ≠ 0 → f.op.getLsbD 1 = false → (f.op.getLsbD 2 = false → c.readS f.a.val = .ok v) →
    n = waitBatch (c.g.tl (f.op.toNat % 2)) (f.op.getLsbD 2) f.imm.toNat (if f.op.getLsbD 2 then 0 else v) →
    (c.g.tl (f.op.toNat % 2)).k < n →
    exec (.waitt f) s = .next (s.park c (.t 0x124 f) { kind := 3, sub := f.op.toNat % 2, val := BitVec.ofNat 64 n }
      (.timeline (f.op.toNat % 2) n))) ∧
  (∀ (f : TOps) (s u : State) (c : Ctx) (E : LaneMask) (pc : PC) (a v : DWord) (loc : Loc), Issues s c f.g1 f.g2 E pc →
    E ≠ 0 → f.op.getLsbD 1 = true → c.readS f.a.val = .ok a → c.readS f.b.val = .ok v →
    s.place c E (globalWant 8 false) a = .ok (loc, u) → c.g.loads = [] → c.noQueued loc 8 = .ok () →
    u.readNat loc 8 < v.toNat →
    exec (.waitt f) s =
      .next (u.park c (.t 0x124 f) { kind := 4, obj := a, val := v } (.counter a loc v (f.op.getLsbD 3)))))

/-- COMPLETION AND RESULT of BAR and BARC (R340): the group arrives; the arrival that completes the phase goes on at
once (BARC acquiring), any other parks with wait kind 5 or 6. -/
def Obligations.BarriersComplete : Prop :=
  ∀ (f : TOps) (s u : State) (c : Ctx) (E : LaneMask) (pc : PC) (cl : Bool) (b ph : Nat),
    Issues s c f.g1 f.g2 E pc → c.g.csr.inHandler = false → c.flagsIn = .ok () → c.arith E s = none →
    c.g.sq = [] → c.g.loads = [] → b = f.imm.toNat % (if cl then 4 else 16) →
    ph = s.barPhase c.core c.g.wg cl b →
    u = (if cl then State.settleBarc else State.settleBar) ((s.arriveBar c.core c.slot c.g.wg cl b).park c
      (.t (if cl then 0x127 else 0x126) f) { kind := if cl then 6 else 5, obj := BitVec.ofNat 64 b, val := BitVec.ofNat 64 ph } (.barrier cl b ph)) c.core
      c.g.wg b →
    exec (if cl then .barc f else .bar f) s = .next (if u.barPhase c.core c.g.wg cl b = ph then u
      else (if cl then u.acquire c.core c.g.vf .cluster else u).withGroup c fun g =>
        { g with pc := pc, wait := {}, resume := .none })

/-- COMPLETION AND RESULT of ARV, WPH and YIELD (R343 to R346): ARV takes n from the pending count in the object's
single copy and pushes the phase it found; WPH goes on when the phase is past the awaited one, and parks with kind 7
until then; YIELD leaves its hint. -/
def Obligations.PhaseObjectsComplete : Prop :=
  (∀ (f : TOps) (s u : State) (c : Ctx) (g : Group) (E : LaneMask) (pc : PC) (a : DWord) (loc : Loc),
    Issues s c f.g1 f.g2 E pc → E ≠ 0 → c.freeS f.d.val = .ok () → c.readS f.a.val = .ok a →
    s.place c E (phaseWant true) a = .ok (loc, u) →
    u.absentLine loc = false → u.poisoned loc 16 = false → c.g.sq = [] → c.g.loads = [] →
    f.imm.toNat ≤ u.readNat loc 8 % 2 ^ 32 →
    writeS c.g f.d.val (BitVec.ofNat 64 (u.readNat (loc.add 8) 8)) = .ok g →
    exec (.arv f) s = .next (((u.store c.core c.g.part c.g.vf loc
      (wordBytes (arvWords (u.readNat loc 8) (u.readNat (loc.add 8) 8) f.imm.toNat)) 0).putS c f.d.val
        (BitVec.ofNat 64 (u.readNat (loc.add 8) 8))).goes c (.t 0x128 f) pc)) ∧
  (∀ (f : TOps) (s u : State) (c : Ctx) (E : LaneMask) (pc : PC) (a v : DWord) (loc : Loc), Issues s c f.g1 f.g2 E pc →
    E ≠ 0 → c.readS f.a.val = .ok a → c.readS f.b.val = .ok v → s.place c E (phaseWant false) a = .ok (loc, u) →
    u.absentLine loc = false → c.g.loads = [] → c.noQueued loc 16 = .ok () →
    exec (.wph f) s = .next (if 0 < (BitVec.ofNat 64 (u.readNat (loc.add 8) 8) - v).toInt
      then (u.acquire c.core c.g.vf (phaseScope a)).goes c (.t 0x129 f) pc
      else u.park c (.t 0x129 f) { kind := 7, obj := a, val := v + 1 } (.phase a loc v))) ∧
  (∀ (f : TOps) (s : State) (c : Ctx) (E : LaneMask) (pc : PC), Issues s c f.g1 f.g2 E pc → E ≠ 0 →
    exec (.yield f) s = .next ((s.withGroup c fun g => { g with swapHint := true }).goes c (.t 0x12A f) pc)) ∧
  (∀ w0 phase n : Nat, n < w0 % 2 ^ 32 → arvWords w0 phase n =
    [BitVec.ofNat 64 (w0 / 2 ^ 32 % 2 ^ 32 * 2 ^ 32 + (w0 % 2 ^ 32 - n)), BitVec.ofNat 64 phase]) ∧
  (∀ w0 phase : Nat, arvWords w0 phase (w0 % 2 ^ 32) =
    [BitVec.ofNat 64 (w0 / 2 ^ 32 % 2 ^ 32 * 2 ^ 32 + w0 / 2 ^ 32 % 2 ^ 32), BitVec.ofNat 64 (phase + 1)])

/-- COMPLETION AND RESULT of BTAKE, BPASS, TALLOC and TFREE (R353 to R357): a free baton or tile is the group's at
once and one that it holds stays so; one that another holds is queued for, with wait kinds 8 and 9; BPASS hands the
baton to the head of the FIFO and invalidates the latch; TFREE gives the tile up. The FIFO position that a waiting
BTAKE shows counts from 1 by the model's reading (log 17). -/
def Obligations.BatonAndTilesComplete : Prop :=
  (∀ (f : TOps) (s : State) (c : Ctx) (E : LaneMask) (pc : PC), Issues s c f.g1 f.g2 E pc → E ≠ 0 →
    c.g.csr.inHandler = false →
    ((s.eng c.core).baton = some c.slot → exec (.btake f) s = .next (s.goes c (.t 0x140 f) pc)) ∧
    ((s.eng c.core).baton = none →
      exec (.btake f) s = .next ((s.modEng c.core fun e => { e with baton := some c.slot }).goes c (.t 0x140 f) pc)) ∧
    (∀ n : Nat, (s.eng c.core).baton = some n → n ≠ c.slot →
      exec (.btake f) s = .next ((s.modEng c.core fun e => { e with fifo := e.fifo ++ [c.slot] }).park c (.t 0x140 f)
        { kind := 8, obj := BitVec.ofNat 64 (c.core % 16), val := BitVec.ofNat 64 ((s.eng c.core).fifo.length + 1) }
        .baton))) ∧
  (∀ (f : TOps) (s : State) (c : Ctx) (E : LaneMask) (pc : PC), Issues s c f.g1 f.g2 E pc → E ≠ 0 →
    ((s.eng c.core).baton = some c.slot → exec (.bpass f) s = .next ((s.modEng c.core fun e =>
      { e with baton := e.fifo.head?, fifo := e.fifo.tail, latch := none }).goes c (.t 0x141 f) pc)) ∧
    ((s.eng c.core).baton ≠ some c.slot → exec (.bpass f) s = .next (s.preciseOpen c 0x21 2 E))) ∧
  (∀ (f : EOps) (s : State) (c : Ctx) (E : LaneMask) (pc : PC) (x : Tile), Issues s c f.g1 f.g2 E pc → E ≠ 0 →
    c.g.csr.inHandler = false → x = s.tile c.core f.tile.val →
    (x.owner = some c.slot → exec (.talloc f) s = .next (s.goes c (.e 0x148 f) pc)) ∧
    (x.owner = none → x.freeing = false → exec (.talloc f) s =
      .next ((s.modTile c.core f.tile.val fun x => x.grant c.slot).goes c (.e 0x148 f) pc)) ∧
    ((∃ n, x.owner = some n ∧ n ≠ c.slot) ∨ (x.owner = none ∧ x.freeing = true) → exec (.talloc f) s =
      .next ((s.modTile c.core f.tile.val fun x => { x with waiters := x.waiters ++ [c.slot] }).park c
        (.e 0x148 f) { kind := 9, sub := f.tile.val, obj := BitVec.ofNat 64 (c.core % 16) } (.tile f.tile.val)))) ∧
  (∀ (f : EOps) (s : State) (c : Ctx) (E : LaneMask) (pc : PC), Issues s c f.g1 f.g2 E pc → E ≠ 0 →
    s.owned c E f.tile.val = .ok () → c.closed E f.tile.val = .ok () →
    exec (.tfree f) s = .next ((s.modEng c.core fun e => e.release f.tile.val).goes c (.e 0x149 f) pc))

/-- COMPLETION AND RESULT of MMS and MML at issue (R361 to R365): with the baton, the tile and an admitted format
block, the command joins the engine's queue, of fewer than 64 commands of t1 (`engRoom`), and timeline t1, the tile's
anchor rule settles and κ moves on by the K elements that it covers. -/
def Obligations.MatrixStepsIssue : Prop :=
  (∀ (f : EOps) (s : State) (c : Ctx) (E : LaneMask) (pc : PC) (frag : List Word) (b fb : DWord)
      (ra : ARule × Option Int) (d kappa : Nat),
    Issues s c f.g1 f.g2 E pc → E ≠ 0 →
    (∀ l : Latch, s.latched c f = some l → c.nameRange E f.an 6 = .ok () ∧ frag = l.words) →
    (s.latched c f = none → c.checkNames E [(f.an, 6)] = .ok () ∧ c.fragment E f.an = .ok frag) →
    c.readS f.p.val = .ok b → fb = c.kreg f.kix.val → s.hasBaton c E = .ok () → s.owned c E f.tile.val = .ok () →
    s.inMode c E f.tile.val [.exact] = .ok () → stepFormat false fb = none →
    s.settleTile c E f.tile.val fb (fbElems fb) = .ok ra → s.latchCheck c E f = .ok () →
    d = stepDepth (fmtElem (fbA fb)) → kappa = (s.tile c.core f.tile.val).kappa →
    engSpace E b = .ok () → engAlign E b 128 [] = .ok () →
    s.engRanges c E ((b, 0, 3840) :: scaleStretches false fb kappa d) = .ok () →
    c.g.sq = [] → c.g.loads = [] → s.engRoom c = .ok () →
    exec (.mms f) s = .next ((((((s.modEng c.core fun e =>
        { e with latch := if f.reuse then some { frame0 := (isFrameName f.an).getD 0, words := frag } else none }).modTile
        c.core f.tile.val fun x => { x with rule := ra.1, anchor := ra.2 }).engIssue c E f true []
        (.step false frag fb kappa b)).modTile c.core f.tile.val fun x => { x with kappa := kappa + d })).goes c
        (.e 0x142 f) pc)) ∧
  (∀ (f : EOps) (s : State) (c : Ctx) (E : LaneMask) (pc : PC) (a b fb : DWord) (ra : ARule × Option Int)
      (ai bi : Int) (cnt d kappa : Nat),
    Issues s c f.g1 f.g2 E pc → E ≠ 0 → c.readS f.p.val = .ok a → c.readS f.q.val = .ok b → fb = c.kreg f.kix.val →
    (ai, bi) = incsOf (c.kreg (f.kix.val + 1)) → cnt = cntOf f.cnt → s.hasBaton c E = .ok () →
    s.owned c E f.tile.val = .ok () → s.inMode c E f.tile.val [.exact] = .ok () → stepFormat false fb = none →
    s.settleTile c E f.tile.val fb (fbElems fb) = .ok ra → d = stepDepth (fmtElem (fbA fb)) →
    kappa = (s.tile c.core f.tile.val).kappa → stepSpaces E a b ai bi cnt = .ok () →
    engAlign E a 128 [ai] = .ok () → engAlign E b 128 [bi] = .ok () →
    s.engRanges c E (stepStretches a b ai bi cnt ++ scaleStretches false fb kappa (cnt * d)) = .ok () →
    c.g.sq = [] → c.g.loads = [] → s.engRoom c = .ok () →
    exec (.mml f) s = .next (((((s.modTile c.core f.tile.val fun x => { x with rule := ra.1, anchor := ra.2 }).engIssue c E f
        true [] (.steps false fb kappa cnt a b ai bi)).modTile c.core f.tile.val fun x =>
        { x with kappa := kappa + cnt * d })).goes c (.e 0x143 f) pc))

/-- COMPLETION AND RESULT of ACLR, ALD, ADRN and ADRV at issue (R366 to R371): the tile's registers take their new
values at issue; the command joins the queue (and, but for ADRV, timeline t1 and its 64 places); ADRV's 40 frame slots
await its data. -/
def Obligations.TileCommandsIssue : Prop :=
  (∀ (f : EOps) (s : State) (c : Ctx) (E : LaneMask) (pc : PC) (a : DWord) (m : TMode) (other : Option Nat),
    Issues s c f.g1 f.g2 E pc → E ≠ 0 → (f.mode.getLsbD 2 = true → c.readS f.p.val = .ok a) → s.owned c E f.tile.val = .ok () →
    m = modeOf (f.mode.toNat % 4) →
    other = (match (s.eng c.core).bank with
      | some b => if m = .count ∧ b ≠ f.tile.val then some b else none
      | none => none) →
    (∀ b : Nat, other = some b → (s.tileHalted c.core b).isSome = true) → c.g.loads = [] → s.engRoom c = .ok () →
    exec (.aclr f) s = .next ((((s.modEng c.core fun e =>
        { e with bank := if m = .count then some f.tile.val else if e.bank = some f.tile.val then none else e.bank }).modTile
        c.core f.tile.val fun x =>
          { x with mode := m, kappa := 0, height := 48, width := 80, run := {},
                   rule := if f.mode.getLsbD 2 then .explicit else .unset,
                   anchor := if f.mode.getLsbD 2 then some (codeInt true 10 (a.toNat % 1024)) else none }).engIssue c E f
        false [] (.clear (match other with
          | some b => (s.tileHalted c.core b).map fun n => (b, n)
          | none => none))).goes c (.e 0x144 f) pc)) ∧
  (∀ (f : EOps) (s : State) (c : Ctx) (E : LaneMask) (pc : PC) (a fb rw : DWord) (r : Region) (m : TMode) (el : Elem)
      (ra : ARule × Option Int),
    Issues s c f.g1 f.g2 E pc → E ≠ 0 → c.readS f.p.val = .ok a → fb = c.kreg f.kix.val →
    rw = c.kreg (f.kix.val + 1) → r = regionOf rw → m = modeOf (f.mode.toNat % 4) → el = fmtElem (fbA fb) →
    s.owned c E f.tile.val = .ok () → regionBad rw = false → r.digits = true → loadFormat m fb r = none →
    (m = .exact → settleAnchor .unset none fb [el] = .ok ra) → (m ≠ .exact → ra = (.unset, none)) →
    engSpace E a = .ok () → regionAlign E m el a r = .ok () →
    s.engRanges c E (regionStretches m el r (fbBt fb) a) = .ok () → c.g.sq = [] → c.g.loads = [] →
    s.engRoom c = .ok () →
    exec (.ald f) s = .next ((((s.modEng c.core fun e =>
        { e with bank := if e.bank = some f.tile.val then none else e.bank }).modTile c.core f.tile.val fun x =>
          { x with mode := m, kappa := 0, height := r.h, width := r.w, run := {}, rule := ra.1, anchor := ra.2 }).engIssue
        c E f false [] (.load fb rw a)).goes c (.e 0x145 f) pc)) ∧
  (∀ (f : EOps) (s : State) (c : Ctx) (E : LaneMask) (pc : PC) (a fb rw : DWord) (r : Region) (m : TMode) (el : Elem)
      (st : List Stretch) (u : State),
    Issues s c f.g1 f.g2 E pc → E ≠ 0 → c.readS f.p.val = .ok a → fb = c.kreg f.kix.val →
    rw = c.kreg (f.kix.val + 1) → r = regionOf rw → m = (s.tile c.core f.tile.val).mode → el = fmtElem (fbA fb) →
    s.owned c E f.tile.val = .ok () → regionBad rw = false → r.digits = true →
    (f.mode.getLsbD 2 = true → el = .e4m3) → (f.mode.getLsbD 1 = true → m ≠ .real32 ∧ m ≠ .cplx32) →
    drainFormat m fb r = none → engSpace E a = .ok () → regionAlign E m el a r = .ok () →
    st = regionStretches m el r (fbBt fb) a ++ drainScales fb r → s.engRanges c E st = .ok () → c.g.sq = [] →
    c.g.loads = [] → s.engRoom c = .ok () →
    u = s.engIssue c E f false (s.stretchLines c.core c.g.wg st) (.drain fb rw a f.mode) →
    exec (.adrn f) s = .next ((if f.mode.getLsbD 0 then u.modTile c.core f.tile.val fun x => { x with kappa := 0, run := {} }
      else u).goes c (.e 0x146 f) pc)) ∧
  (∀ (f : EOps) (s : State) (c : Ctx) (E : LaneMask) (pc : PC) (n : Fin 704) (x : Tile), Issues s c f.g1 f.g2 E pc →
    E ≠ 0 → f.an = .frame n → c.nameRange E f.an 40 = .ok () → s.owned c E f.tile.val = .ok () →
    s.inMode c E f.tile.val [.exact, .count, .real32] = .ok () → c.closed E f.tile.val = .ok () →
    ((List.range 40).forM fun j => c.framePending E (n.val + j)) = .ok () →
    x = s.newId.2.tile c.core f.tile.val →
    exec (.adrv f) s = .next (((s.newId.2.modEng c.core fun e => { e with queue := e.queue ++
        [{ id := s.nextId, slot := c.slot, wg := c.g.wg, seq := {}, pc := c.g.pc.word, lanes := E, tile := f.tile.val,
           arrayPath := false, started := false, mode := x.mode, anchor := if x.rule = .auto then none else x.anchor,
           height := x.height, width := x.width, lines := [], due := [],
           op := .drainLanes n.val (f.mode.getLsbD 0), entryB := c.g.entryB }] }).withGroup c fun g =>
        { g.awaitFrame E n.val s.nextId with pends := g.pends ++
          [{ id := s.nextId, kind := 0, obj := 0, pc := c.g.pc.word, stamp := s.nextId, hint := 0, via := .uncached,
             acq := none, dest := .tile }] }).goes c (.e 0x147 f) pc))

/-- COMPLETION AND RESULT of MCNT, MCNTL, MMRG and CNTZ at issue (R384 to R389): the counting commands join the queue
and lengthen the tile's run; a merge or CNTZ ends the run. COMPLETION AND RESULT of BFLY and BFLYP at issue (R393,
R395, R397): one stage, or CNT stages, of an admitted shape join the queue as one command. -/
def Obligations.CountingCommandsIssue : Prop :=
  ((∀ (f : EOps) (s : State) (c : Ctx) (E : LaneMask) (pc : PC) (frag : List Word) (b fb : DWord)
      (ra : ARule × Option Int) (kappa : Nat),
    Issues s c f.g1 f.g2 E pc → E ≠ 0 → c.checkNames E [(f.an, 6)] = .ok () → c.fragment E f.an = .ok frag →
    c.readS f.p.val = .ok b → fb = c.kreg f.kix.val → s.countChecks c E f.tile.val fb 1 = .ok ra →
    kappa = (s.tile c.core f.tile.val).kappa → engSpace E b = .ok () → engAlign E b 128 [] = .ok () →
    s.engRanges c E ((b, 0, 3840) :: scaleStretches true fb kappa 96) = .ok () → c.g.sq = [] → c.g.loads = [] →
    s.engRoom c = .ok () →
    exec (.mcnt f) s = .next ((s.issueCount c E f ra fb 1 (.step true frag fb kappa b)).goes c (.e 0x160 f) pc)) ∧
  (∀ (f : EOps) (s : State) (c : Ctx) (E : LaneMask) (pc : PC) (a b fb : DWord) (ra : ARule × Option Int)
      (ai bi : Int) (cnt kappa : Nat),
    Issues s c f.g1 f.g2 E pc → E ≠ 0 → c.readS f.p.val = .ok a → c.readS f.q.val = .ok b → fb = c.kreg f.kix.val →
    (ai, bi) = incsOf (c.kreg (f.kix.val + 1)) → cnt = cntOf f.cnt →
    s.countChecks c E f.tile.val fb cnt = .ok ra → kappa = (s.tile c.core f.tile.val).kappa →
    stepSpaces E a b ai bi cnt = .ok () → engAlign E a 128 [ai] = .ok () → engAlign E b 128 [bi] = .ok () →
    s.engRanges c E (stepStretches a b ai bi cnt ++ scaleStretches true fb kappa (96 * cnt)) = .ok () →
    c.g.sq = [] → c.g.loads = [] → s.engRoom c = .ok () →
    exec (.mcntl f) s = .next ((s.issueCount c E f ra fb cnt (.steps true fb kappa cnt a b ai bi)).goes c
      (.e 0x161 f) pc)) ∧
  (∀ (f : EOps) (s : State) (c : Ctx) (E : LaneMask) (pc : PC) (run : Run), Issues s c f.g1 f.g2 E pc → E ≠ 0 →
    s.hasBaton c E = .ok () → s.countTile c E f.tile.val = .ok () → run = (s.tile c.core f.tile.val).run →
    s.engRanges c E run.stretches = .ok () → c.g.sq = [] → c.g.loads = [] → s.engRoom c = .ok () →
    exec (.mmrg f) s = .next (((s.engIssue c E f true [] (.merge run)).modTile c.core f.tile.val fun x =>
      { x with run := {} }).goes c (.e 0x162 f) pc)) ∧
  (∀ (f : EOps) (s : State) (c : Ctx) (E : LaneMask) (pc : PC), Issues s c f.g1 f.g2 E pc → E ≠ 0 →
    s.countTile c E f.tile.val = .ok () → c.g.loads = [] → s.engRoom c = .ok () →
    exec (.cntz f) s = .next (((s.engIssue c E f false [] .empty).modTile c.core f.tile.val fun x =>
      { x with run := {} }).goes c (.e 0x163 f) pc))) ∧
  (∀ (f : EOps) (s : State) (c : Ctx) (E : LaneMask) (pc : PC) (plan : Bool) (n : Nat) (ds : List (DWord × Nat)),
    Issues s c f.g1 f.g2 E pc → E ≠ 0 → n = (if plan then f.cnt.toNat else 1) →
    ds = ((List.range n).map fun i =>
      (c.kreg (f.kix.val + i), if plan then stPspan (c.kreg (f.kix.val + i)) else f.cnt.toNat)) →
    f.kix.val + n - 1 ≤ 127 → (∀ p ∈ ds, stageBad plan p.1 = false) → s.hasBaton c E = .ok () →
    s.owned c E f.tile.val = .ok () → s.inMode c E f.tile.val [.real32, .cplx32] = .ok () →
    (∀ p ∈ ds, stageMode (s.tile c.core f.tile.val) p = none) → c.g.loads = [] → s.engRoom c = .ok () →
    exec (if plan then .bflyp f else .bfly f) s = .next ((s.engIssue c E f true [] (.stages ds)).goes c
      (.e (if plan then 0x165 else 0x164) f) pc))

/-- COMPLETION AND RESULT of ENQ, ENQD and DEQ (R111 to R113, R119 to R121): a card enters its queue and s[SD] takes
its sequence number; records go to their reserved slots and are published; a consumer whose slots are ready takes
them, and one whose slots are not waits with kind 0x0A, its slots reserved. That the slots of ENQD are checked before
they are reserved is the model's choice (log 49). -/
def Obligations.QueueInstructionsComplete : Prop :=
  (∀ (f : TOps) (s u : State) (c : Ctx) (E : LaneMask) (pc : PC) (q a : DWord) (loc : Loc), Issues s c f.g1 f.g2 E pc →
    E ≠ 0 → c.freeS f.d.val = .ok () → c.readS f.b.val = .ok q → c.readS f.a.val = .ok a →
    s.jqUsable c.g.vf q.toNat = true → s.place c E (globalWant 64 false) a = .ok (loc, u) → c.g.sq = [] →
    c.g.loads = [] → u.cardRoom c.g.vf q.toNat = true →
    exec (.enq f) s = .next (((u.enterCard c.g.vf c.g.part q.toNat (dwords (u.readLoc loc 64)) a).2.putS c f.d.val
      (BitVec.ofNat 64 (u.enterCard c.g.vf c.g.part q.toNat (dwords (u.readLoc loc 64)) a).1)).goes c (.t 0x180 f) pc)) ∧
  (∀ (f : TOps) (s : State) (c : Ctx) (E M : LaneMask) (pc : PC) (q : DWord) (w n : Nat) (vals : List (Vector DWord 96))
      (recs : List (List Word)) (base : Nat) (cs : List (DWord × Chk)),
    Issues s c f.g1 f.g2 E pc → E ≠ 0 → c.readS f.a.val = .ok q → s.dqUsable c.g.vf q.toNat = true →
    w = s.dqWords c.g.vf q.toNat → w ≤ c.g.coilD → (∀ l : Fin 96, inMask E l.val = true →
      (c.g.lane l).act.live w = true) →
    M = E &&& ~~~c.g.helper → n = (lanesOf M).length → n ≠ 0 →
    ((List.range w).mapM fun j => c.readLanes M fun l => ((c.g.lane l).act.age c.g.coilD (w - j)).opnd) = .ok vals →
    recs = ((lanesOf M).map fun l => vals.map fun v => lowWord v[l]) → base = (s.dq c.g.vf q.toNat).prod.toNat →
    cs = s.slotChecks c.req c.g.vf q.toNat base n true → (∀ p ∈ cs, ∃ loc ty, p.2 = .ok loc ty) →
    c.g.sq = [] → c.g.loads = [] → base - (s.dq c.g.vf q.toNat).freed + n ≤ s.dqSlots c.g.vf q.toNat →
    (∀ p ∈ chkLocs cs, s.flipping p.2 = false) →
    exec (.enqd f) s = .next (((s.modDq c.g.vf q.toNat fun d => { d with prod := d.prod + BitVec.ofNat 64 n }).publish
      c.core c.g q.toNat base recs (chkLocs cs)).goes c (.t 0x181 f) pc)) ∧
  (∀ (f : TOps) (s u : State) (c : Ctx) (E : LaneMask) (pc : PC) (q : DWord) (n w base : Nat), Issues s c f.g1 f.g2 E pc →
    E ≠ 0 → c.readS f.a.val = .ok q → s.dqUsable c.g.vf q.toNat = true → w = s.dqWords c.g.vf q.toNat →
    n = (lanesOf (E &&& ~~~c.g.helper)).length → base = (s.dq c.g.vf q.toNat).cons.toNat →
    (∀ p ∈ s.slotChecks c.req c.g.vf q.toNat base n false, ∃ loc ty, p.2 = .ok loc ty) → c.g.loads = [] →
    u = (s.modDq c.g.vf q.toNat fun d => { d with cons := d.cons + BitVec.ofNat 64 n }) →
    (u.finishDeq c.core c.slot c.g q.toNat base n w E id = none →
      exec (.deq f) s = .next (u.park c (.t 0x182 f) { kind := 0x0A, obj := q, val := BitVec.ofNat 64 base }
        (.deq q.toNat base n w E))) ∧
    (∀ t : State, u.finishDeq c.core c.slot c.g q.toNat base n w E id = some t →
      exec (.deq f) s = .next (t.goes c (.t 0x182 f) pc)))

/-- COMPLETION AND RESULT of DCADD and DCRD (R110, R122, R123): the counter moves by the signed amount and its new
value goes to s[SD]; a sum below zero or of 2^32 and more is the precise fault DC_NEGATIVE or its overflow, and the
counter stays. -/
def Obligations.CountersComplete : Prop :=
  (∀ (f : TOps) (s : State) (c : Ctx) (E : LaneMask) (pc : PC) (i b : DWord) (x : Int), Issues s c f.g1 f.g2 E pc →
    E ≠ 0 → c.freeS f.d.val = .ok () → c.readS f.a.val = .ok i → (f.op.getLsbD 0 = false → c.readS f.b.val = .ok b) →
    i.toNat < s.dcn c.g.vf → c.g.sq = [] → c.g.loads = [] →
    x = (s.dc c.g.vf i.toNat : Int) + (if f.op.getLsbD 0 then f.imm.toInt else b.toInt) →
    (0 ≤ x → x < 2 ^ 32 → exec (.dcadd f) s =
      .next (((s.dcSet c.g.vf i.toNat x.toNat).putS c f.d.val (BitVec.ofInt 64 x)).goes c (.t 0x183 f) pc)) ∧
    (x < 0 → ∃ d : DWord, exec (.dcadd f) s = .next (s.precise c 0x31 1 d E)) ∧
    (2 ^ 32 ≤ x → exec (.dcadd f) s = .next (s.preciseOpen c 0x31 2 E))) ∧
  (∀ (f : TOps) (s : State) (c : Ctx) (E : LaneMask) (pc : PC) (i : DWord), Issues s c f.g1 f.g2 E pc → E ≠ 0 →
    c.freeS f.d.val = .ok () → c.readS f.a.val = .ok i → i.toNat < s.dcn c.g.vf →
    exec (.dcrd f) s = .next (((if s.dc c.g.vf i.toNat = 0 then s.acquire c.core c.g.vf .device else s).putS c f.d.val
      (BitVec.ofNat 64 (s.dc c.g.vf i.toNat))).goes c (.t 0x184 f) pc))

/-- COMPLETION AND RESULT of FRES, FJOIN and FGET (R114 to R116, R124 to R126): a future resolves once, walking its
waiting joins, or is reset; a join takes the lowest free record (log 93) and registers it at each future; FGET reads both words
or, waiting for one that is not resolved, parks with kind 0x0E. -/
def Obligations.FuturesComplete : Prop :=
  (∀ (f : TOps) (s u : State) (c : Ctx) (E : LaneMask) (pc : PC) (a v : DWord) (loc : Loc), Issues s c f.g1 f.g2 E pc →
    E ≠ 0 → c.readS f.a.val = .ok a → (f.op.getLsbD 0 = false → c.readS f.b.val = .ok v) →
    s.place c E (futWant true) a futCode = .ok (loc, u) → u.poisoned loc 16 = false → c.g.sq = [] → c.g.loads = [] →
    (f.op.getLsbD 0 = true → futState (u.futWord0 loc) ≠ 1 → exec (.fres f) s =
      .next ((u.store c.core c.g.part c.g.vf loc (wordBytes [futWord 0 (futGen (u.futWord0 loc) + 1) 0, 0]) 0
        (u.cachedAt c.core c.g.vf (a.toNat % 2 ^ 57) loc)).goes c (.t 0x185 f) pc)) ∧
    (f.op.getLsbD 0 = true → futState (u.futWord0 loc) = 1 → exec (.fres f) s = .next (s.precise c 0x32 2 a E)) ∧
    (f.op.getLsbD 0 = false → futState (u.futWord0 loc) = 0 → exec (.fres f) s =
      .next ((u.store c.core c.g.part c.g.vf loc (wordBytes [futWord 2 (futGen (u.futWord0 loc)) 0, v]) 0
        (u.cachedAt c.core c.g.vf (a.toNat % 2 ^ 57) loc)).goes c (.t 0x185 f) pc)) ∧
    (f.op.getLsbD 0 = false → futState (u.futWord0 loc) = 1 → exec (.fres f) s =
      .next (((u.store c.core c.g.part c.g.vf loc (wordBytes [futWord 2 (futGen (u.futWord0 loc)) 0, v]) 0
        (u.cachedAt c.core c.g.vf (a.toNat % 2 ^ 57) loc)).walkJoins c.g.vf (locKey loc)
          (4 * ((u.store c.core c.g.part c.g.vf loc (wordBytes [futWord 2 (futGen (u.futWord0 loc)) 0, v]) 0
            (u.cachedAt c.core c.g.vf (a.toNat % 2 ^ 57) loc)).vf c.g.vf).joins.length + 4)
          (futHead (u.futWord0 loc))).goes c (.t 0x185 f) pc)) ∧
    (f.op.getLsbD 0 = false → 2 ≤ futState (u.futWord0 loc) → exec (.fres f) s = .next (s.precise c 0x32 1 a E))) ∧
  (∀ (f : TOps) (s u u2 u3 : State) (c : Ctx) (E : LaneMask) (pc : PC) (card list : DWord) (ls fl : List (DWord × Loc))
      (futs : List DWord) (loc : Loc) (h : Nat) (r : JoinRec),
    Issues s c f.g1 f.g2 E pc → E ≠ 0 → c.freeS f.d.val = .ok () → c.readS f.a.val = .ok card →
    c.readS f.b.val = .ok list → s.jqUsable c.g.vf (f.op.toNat % 16) = true →
    s.addrForm c E (globalWant 64 false) card = .ok () →
    (∀ i : Nat, i < joinN f → s.addrForm c E (globalWant 8 false) (list + BitVec.ofNat 64 (8 * i)) = .ok ()) →
    s.placeAll c E (globalWant 8 false) id ((List.range (joinN f)).map fun i => list + BitVec.ofNat 64 (8 * i)) =
      .ok (ls, u) →
    c.g.sq = [] → c.g.loads = [] → futs = (ls.map fun p => BitVec.ofNat 64 (u.readNat p.2 8)) →
    (∀ a ∈ futs, u.addrForm c E (futWant true) a futCode = .ok ()) →
    u.place c E (globalWant 64 false) card id false = .ok (loc, u2) →
    u2.placeAll c E (futWant true) futCode futs = .ok (fl, u3) → (∀ p ∈ fl, u3.poisoned p.2 16 = false) →
    h < u3.jnn c.g.vf → (∀ i : Nat, i < h → (nfind (u3.vf c.g.vf).joins i).isSome = true) →
    nfind (u3.vf c.g.vf).joins h = none →
    r = { card := card, part := c.g.part, q := f.op.toNat % 16, cnt := joinJ f, left := joinN f, futs := futs,
          places := fl.map fun p => locKey p.2, links := List.replicate (joinN f) 0, rep := [] } →
    exec (.fjoin f) s = .next (((fl.zipIdx.foldl (fun s (p : (DWord × Loc) × Nat) =>
      s.register c.core c.g.part c.g.vf p.1.1 p.1.2 h p.2) (u3.joinPut c.g.vf h r)).putS c f.d.val
        (BitVec.ofNat 64 (h + 1))).goes c (.t 0x186 f) pc)) ∧
  (∀ (f : TOps) (s u : State) (c : Ctx) (E : LaneMask) (pc : PC) (a : DWord) (loc : Loc), Issues s c f.g1 f.g2 E pc →
    E ≠ 0 → c.freeS f.d.val = .ok () → c.freeS (f.d.val + 1) = .ok () → c.readS f.a.val = .ok a →
    s.place c E (futWant false) a futCode = .ok (loc, u) → c.g.loads = [] → c.noQueued loc 16 = .ok () →
    (f.op.getLsbD 0 = false ∨ 2 ≤ futState (u.futWord0 loc) →
      exec (.fget f) s = .next ((u.readFuture c.core c.slot c.g.vf loc f.d.val).goes c (.t 0x187 f) pc)) ∧
    (f.op.getLsbD 0 = true → futState (u.futWord0 loc) < 2 → exec (.fget f) s =
      .next (u.park c (.t 0x187 f) { kind := 0x0E, obj := a, val := 2 } (.future a loc f.d.val))))

/-- COMPLETION AND RESULT of NEXTCH and TINFO (R127, R128): NEXTCH takes the job's next chunk, by the rule of R104,
for the group itself and writes its first record's address and its count, or two zeros where none is left. -/
def Obligations.JobFactsComplete : Prop :=
  (∀ (f : TOps) (s : State) (c : Ctx) (E : LaneMask) (pc : PC) (j : Job) (n : Nat), Issues s c f.g1 f.g2 E pc → E ≠ 0 →
    c.freeS f.d.val = .ok () → c.freeS (f.d.val + 1) = .ok () → s.job? c.g.job = some j →
    n = j.chunkSize (s.fittingCores j.part j.lrec).length →
    (j.remaining = 0 → exec (.nextch f) s =
      .next (((s.putS c f.d.val 0).putS c (f.d.val + 1) 0).goes c (.t 0x188 f) pc)) ∧
    (0 < j.remaining → exec (.nextch f) s = .next (((((s.setJob c.g.job (j.deal n)).withGroup c fun g =>
      { g with latestFirst := j.next, latestCount := n }).putS c f.d.val (j.recAddr j.next)).putS c (f.d.val + 1)
      (BitVec.ofNat 64 n)).goes c (.t 0x188 f) pc))) ∧
  (∀ (f : TOps) (s : State) (c : Ctx) (E : LaneMask) (pc : PC), Issues s c f.g1 f.g2 E pc → E ≠ 0 →
    c.freeS f.d.val = .ok () →
    exec (.tinfo f) s = .next ((s.putS c f.d.val (s.fact c f.imm.toNat)).goes c (.t 0x189 f) pc))

/-! ## Traps and control registers -/

/-- COMPLETION AND RESULT of TRAP and BPT (R408, R447): each takes its fault, code 0x50 or 0x51 with its immediate as
the subcode and E as the lanes, resuming at the slot after it; with BPSTOP set, BPT stops the group for the debugger
at the next slot; with E empty each goes on. COMPLETION AND RESULT of TRET (R409): in a handler whose stack and depth
stand as at its entry, the group resumes at HRPC, or with .skip after it, or terminates with the handled fault;
outside one, or with a stack or an HRPC that does not fit, it is the fault TRET_STATE. That .skip goes to the slot after
HRPC's, valid or not, and notes that it has landed there, so that the fetch resolves it, is the model's reading
(log 66). -/
def Obligations.TrapsAndReturns : Prop :=
  ((∀ (f : TOps) (s : State) (c : Ctx) (E : LaneMask) (pc : PC), Issues s c f.g1 f.g2 E pc → E ≠ 0 →
    exec (.trap f) s = .next ((s.deliver c.core c.slot (c.record s 0x50 f.imm.toNat 0 E)
      (c.g.pc.after c.g.sv)).issued c (.t 0x1A0 f))) ∧
  (∀ (f : TOps) (s : State) (c : Ctx) (E : LaneMask) (pc : PC), Issues s c f.g1 f.g2 E pc → E ≠ 0 →
    bit (s.vr c.g.vf 0x8000) 0 = false →
    exec (.bpt f) s = .next ((s.deliver c.core c.slot (c.record s 0x51 f.imm.toNat 0 E)
      (c.g.pc.after c.g.sv)).issued c (.t 0x1A1 f))) ∧
  (∀ (f : TOps) (s : State) (c : Ctx) (E : LaneMask) (pc : PC), Issues s c f.g1 f.g2 E pc → E ≠ 0 →
    bit (s.vr c.g.vf 0x8000) 0 = true →
    exec (.bpt f) s = .next (((s.setGroup c.core c.slot { c.g with pc := pc, completing := false }).debugStop c.core
      c.slot).issued c (.t 0x1A1 f))) ∧
  (∀ (f : TOps) (s : State) (c : Ctx) (pc : PC), Issues s c f.g1 f.g2 0 pc →
    ∀ p ∈ [(0x1A0, Instr.trap f), (0x1A1, .bpt f)],
      exec p.2 s = .next ((s.setGroup c.core c.slot { c.g with pc := pc, completing := false }).issued c (.t p.1 f)))) ∧
  (∀ (f : TOps) (s : State) (c : Ctx) (E : LaneMask) (pc : PC), Issues s c f.g1 f.g2 E pc →
    (c.g.csr.inHandler = true → c.g.stack.length = c.g.csr.mark → c.g.depth = c.g.csr.hdepth →
      Sys2Proof.Machine.fld c.g.csr.hrpc 3 3 = 0 → Sys2Proof.Machine.fld c.g.csr.hrpc 0 3 ≠ 0 →
      (f.op.getLsbD 1 = true →
        exec (.tret f) s = .next ((s.terminate c.core c.slot c.g.csr.fault).issued c (.t 0x1A2 f))) ∧
      (f.op.getLsbD 1 = false → f.op.getLsbD 0 = false → exec (.tret f) s = .next ((s.withGroup c fun g =>
        { g.leaveHandler (pcOf c.g.csr.hrpc) with landed := false }).issued c (.t 0x1A2 f))) ∧
      (f.op.getLsbD 1 = false → f.op.getLsbD 0 = true → exec (.tret f) s = .next ((s.withGroup c fun g =>
        if (pcOf c.g.csr.hrpc).slot < 7 then
          { g.leaveHandler ⟨(pcOf c.g.csr.hrpc).bundle, (pcOf c.g.csr.hrpc).slot + 1⟩ with landed := true }
        else { g.leaveHandler ⟨(pcOf c.g.csr.hrpc).bundle + 64, 1⟩ with landed := false }).issued c (.t 0x1A2 f)))) ∧
    (c.g.csr.inHandler = false → exec (.tret f) s = .next (s.precise c 0x53 1 0 E)) ∧
    (c.g.csr.inHandler = true → c.g.stack.length ≠ c.g.csr.mark ∨ c.g.depth ≠ c.g.csr.hdepth →
      exec (.tret f) s = .next (s.precise c 0x53 2 0 E)) ∧
    (c.g.csr.inHandler = true → c.g.stack.length = c.g.csr.mark → c.g.depth = c.g.csr.hdepth →
      Sys2Proof.Machine.fld c.g.csr.hrpc 3 3 ≠ 0 ∨ Sys2Proof.Machine.fld c.g.csr.hrpc 0 3 = 0 →
      exec (.tret f) s = .next (s.precise c 0x53 3 0 E)))

/-- COMPLETION of FRES, FJOIN, FGET, TRAP, BPT and TRET (R115, R124 to R126, R402, R408, R409): a future that is not
resolved is resolved, one that nothing waits on is reset, a join whose futures and card pass the checks takes a free
record, and FGET reads a resolved future, and in each the group stands at the next slot; TRAP and BPT enter an enabled
handler at its first slot, with their fault, its lanes and the slot to return to in the handler's registers; TRET
leaves the handler for HRPC, and with .skip for the slot after it: that this is the next slot whether or not it is valid,
an invalid one being found by the later fetch, is the model's own choice (log 66). -/
def Obligations.FutureAndTrapFormsComplete : Prop :=
  (∀ (f : TOps) (s u : State) (c : Ctx) (E : LaneMask) (pc : PC) (a v : DWord) (loc : Loc), Issues s c f.g1 f.g2 E pc →
    E ≠ 0 → c.readS f.a.val = .ok a → c.readS f.b.val = .ok v → s.place c E (futWant true) a futCode = .ok (loc, u) →
    u.poisoned loc 16 = false → c.g.sq = [] → c.g.loads = [] →
    (if f.op.getLsbD 0 then futState (u.futWord0 loc) ≠ 1 else futState (u.futWord0 loc) < 2) →
    ∃ t, exec (.fres f) s = .next t ∧ (t.group? c.core c.slot).map (·.pc) = some pc) ∧
  (∀ (f : TOps) (s u u2 u3 : State) (c : Ctx) (E : LaneMask) (pc : PC) (card list : DWord) (ls fl : List (DWord × Loc))
      (futs : List DWord) (loc : Loc) (h : Nat),
    Issues s c f.g1 f.g2 E pc → E ≠ 0 → c.freeS f.d.val = .ok () → c.readS f.a.val = .ok card →
    c.readS f.b.val = .ok list → s.jqUsable c.g.vf (f.op.toNat % 16) = true →
    s.addrForm c E (globalWant 64 false) card = .ok () →
    (∀ i : Nat, i < joinN f → s.addrForm c E (globalWant 8 false) (list + BitVec.ofNat 64 (8 * i)) = .ok ()) →
    s.placeAll c E (globalWant 8 false) id ((List.range (joinN f)).map fun i => list + BitVec.ofNat 64 (8 * i)) =
      .ok (ls, u) →
    c.g.sq = [] → c.g.loads = [] → futs = (ls.map fun p => BitVec.ofNat 64 (u.readNat p.2 8)) →
    (∀ a ∈ futs, u.addrForm c E (futWant true) a futCode = .ok ()) →
    u.place c E (globalWant 64 false) card id false = .ok (loc, u2) →
    u2.placeAll c E (futWant true) futCode futs = .ok (fl, u3) → (∀ p ∈ fl, u3.poisoned p.2 16 = false) →
    h < u3.jnn c.g.vf → nfind (u3.vf c.g.vf).joins h = none →
    ∃ t, exec (.fjoin f) s = .next t ∧ (t.group? c.core c.slot).map (·.pc) = some pc) ∧
  (∀ (f : TOps) (s u : State) (c : Ctx) (E : LaneMask) (pc : PC) (a : DWord) (loc : Loc), Issues s c f.g1 f.g2 E pc →
    E ≠ 0 → c.freeS f.d.val = .ok () → c.freeS (f.d.val + 1) = .ok () → c.readS f.a.val = .ok a →
    s.place c E (futWant false) a futCode = .ok (loc, u) → c.g.loads = [] → c.noQueued loc 16 = .ok () →
    2 ≤ futState (u.futWord0 loc) →
    ∃ t, exec (.fget f) s = .next t ∧ (t.group? c.core c.slot).map (·.pc) = some pc) ∧
  (∀ (f : TOps) (s u : State) (c : Ctx) (E : LaneMask) (pc : PC) (ws : List DWord), Issues s c f.g1 f.g2 E pc → E ≠ 0 →
    c.g.csr.inHandler = false → c.g.csr.hmask.getLsbD 5 = true → c.g.csr.hvec ≠ 0 → c.g.csr.hvec.toNat % 64 = 0 →
    c.g.csr.hvec.toNat < 2 ^ 56 → s.fetchBundle c.core c.g c.g.csr.hvec = .words ws u → hdrEntry (ws.headD 0) = true →
    c.g.base + c.g.coilD + c.g.frameSize + c.g.coilD ≤ c.g.cap →
    (∃ t, exec (.trap f) s = .next t ∧ (t.group? c.core c.slot).map (fun g =>
      (g.pc, g.csr.inHandler, g.csr.hrpc, g.csr.fault.code, g.csr.fault.sub, g.csr.fault.lanes)) =
        some (⟨c.g.csr.hvec, 1⟩, true, (c.g.pc.after c.g.sv).word, 0x50, f.imm.toNat, E)) ∧
    (bit (s.vr c.g.vf 0x8000) 0 = false → ∃ t, exec (.bpt f) s = .next t ∧ (t.group? c.core c.slot).map (fun g =>
      (g.pc, g.csr.inHandler, g.csr.hrpc, g.csr.fault.code, g.csr.fault.sub, g.csr.fault.lanes)) =
        some (⟨c.g.csr.hvec, 1⟩, true, (c.g.pc.after c.g.sv).word, 0x51, f.imm.toNat, E))) ∧
  (∀ (f : TOps) (s : State) (c : Ctx) (E : LaneMask) (pc : PC) (eb : DWord) (b fs d : Nat) (ms m : LaneMask)
      (ps : Vector (BitVec 7) 96) (acts : Vector LaneAct 96) (cm : Bool) (rest : List RetRec),
    Issues s c f.g1 f.g2 E pc → c.g.csr.inHandler = true → c.g.rets = .handler eb b fs d ms m ps acts cm :: rest →
    c.g.stack.length = c.g.csr.mark → c.g.depth = c.g.csr.hdepth → Sys2Proof.Machine.fld c.g.csr.hrpc 3 3 = 0 →
    Sys2Proof.Machine.fld c.g.csr.hrpc 0 3 ≠ 0 → f.op.getLsbD 1 = false →
    ∃ t, exec (.tret f) s = .next t ∧ (t.group? c.core c.slot).map (fun g => (g.pc, g.csr.inHandler, g.depth)) =
      some (if f.op.getLsbD 0 then (if (pcOf c.g.csr.hrpc).slot < 7 then
              ⟨(pcOf c.g.csr.hrpc).bundle, (pcOf c.g.csr.hrpc).slot + 1⟩ else ⟨(pcOf c.g.csr.hrpc).bundle + 64, 1⟩)
            else pcOf c.g.csr.hrpc, false, d))

/-- Taking an exception (R402): a group outside a handler whose vector is valid, whose fault's class is enabled, whose
handler's bundle is an entry and whose pool has room enters the handler: the record and the resume PC are saved, the
handler runs with an empty coil and frame above the interrupted activation, and nothing of it is lost. A fault that no
handler takes (none set, its class not enabled, or raised in a handler) terminates the group (R402, R405); one raised
in a handler is wrapped as HANDLER_FAULT, code 0x52, subcode 3, with the inner code. Leaving a handler undoes its
entry (R402, R409): every lane's activation and predicates, base, frame size, depth, members and return records are
those of the interrupted program, and the mask is its mask. -/
def Obligations.HandlersAndTermination : Prop :=
  ((∀ (s u : State) (core slot : Nat) (g : Group) (r : FaultRec) (resume : PC) (b : Nat) (ws : List DWord),
    s.group? core slot = some g → g.csr.inHandler = false → handlerBit r.code = some b →
    g.csr.hmask.getLsbD b = true → g.csr.hvec ≠ 0 → g.csr.hvec.toNat % 64 = 0 → g.csr.hvec.toNat < 2 ^ 56 →
    s.fetchBundle core g g.csr.hvec = .words ws u → hdrEntry (ws.headD 0) = true →
    g.base + g.coilD + g.frameSize + g.coilD ≤ g.cap →
    s.deliver core slot r resume = (u.count core g.vf 0x0F 1).modGroup core slot fun h =>
      h.enterHandler r resume g.csr.hvec) ∧
  (∀ (g : Group) (r : FaultRec) (resume : PC) (v : DWord),
    (g.enterHandler r resume v).csr.inHandler = true ∧ (g.enterHandler r resume v).csr.fault = r ∧
    (g.enterHandler r resume v).csr.hrpc = resume.word ∧ (g.enterHandler r resume v).pc = ⟨v, 1⟩ ∧
    (g.enterHandler r resume v).frameSize = 0 ∧ (g.enterHandler r resume v).base = g.base + g.coilD + g.frameSize ∧
    (g.enterHandler r resume v).s = g.s ∧ (g.enterHandler r resume v).stack = g.stack ∧
    (g.enterHandler r resume v).members = g.members ∧
    ∀ l : Fin 96, ((g.enterHandler r resume v).lane l).act = LaneAct.fresh ∧
      ((g.enterHandler r resume v).lane l).preds = (g.lane l).preds ∧
      ((g.enterHandler r resume v).lane l).flags = (g.lane l).flags)) ∧
  (∀ (s : State) (core slot : Nat) (g : Group) (r : FaultRec) (resume : PC), s.group? core slot = some g →
    (g.csr.inHandler = false → (g.csr.hvec = 0 ∨ ∀ b : Nat, handlerBit r.code = some b → g.csr.hmask.getLsbD b = false) →
      s.deliver core slot r resume = s.terminate core slot r) ∧
    (g.csr.inHandler = true → r.code ≠ 0x53 → s.deliver core slot r resume = s.terminate core slot
      { r with code := 0x52, sub := 3, inh := true, inner := r.code, isub := r.sub, imp := false })) ∧
  (∀ (g : Group) (r : FaultRec) (resume pc : PC) (v : DWord),
    ((g.enterHandler r resume v).leaveHandler pc).base = g.base ∧
    ((g.enterHandler r resume v).leaveHandler pc).frameSize = g.frameSize ∧
    ((g.enterHandler r resume v).leaveHandler pc).depth = g.depth ∧
    ((g.enterHandler r resume v).leaveHandler pc).rets = g.rets ∧
    ((g.enterHandler r resume v).leaveHandler pc).members = g.members ∧
    ((g.enterHandler r resume v).leaveHandler pc).entryB = g.entryB ∧
    ((g.enterHandler r resume v).leaveHandler pc).pc = pc ∧
    ((g.enterHandler r resume v).leaveHandler pc).mask = g.mask ∧
    ((g.enterHandler r resume v).leaveHandler pc).csr.inHandler = false ∧
    ∀ l : Fin 96, (((g.enterHandler r resume v).leaveHandler pc).lane l).act = (g.lane l).act ∧
      (((g.enterHandler r resume v).leaveHandler pc).lane l).preds = (g.lane l).preds)

/-- COMPLETION AND RESULT of CSRR, CSRW, FLAGS, FLCLR, TIME, CTRRD and CTRCFG (R406, R410 to R413). Control registers
(R406): a value written to a writable one reads back, cut to its width; a write changes no other; registers 0x00 to
0x06 and 0x0C to 0x0E do not change by writing. That CSRR, CSRW, FLAGS and FLCLR wait for pending accesses alone is
the model's choice (log 48). -/
def Obligations.ControlRegistersComplete : Prop :=
  ((∀ (f : TOps) (s : State) (c : Ctx) (E : LaneMask) (pc : PC), Issues s c f.g1 f.g2 E pc → E ≠ 0 →
    c.freeS f.d.val = .ok () → c.g.pends = [] →
    exec (.csrr f) s = .next ((s.putS c f.d.val (c.g.csr.read f.imm.toNat)).goes c (.t 0x1A3 f) pc)) ∧
  (∀ (f : TOps) (s : State) (c : Ctx) (E : LaneMask) (pc : PC) (v : DWord), Issues s c f.g1 f.g2 E pc → E ≠ 0 →
    c.readS f.a.val = .ok v → (f.imm.toNat = 7 → c.g.csr.inHandler = true) → c.g.pends = [] →
    exec (.csrw f) s = .next ((s.withGroup c fun g => { g with csr := g.csr.write f.imm.toNat v }).goes c (.t 0x1A4 f) pc)) ∧
  (∀ (f : VOps) (s : State) (c : Ctx) (E : LaneMask) (pc : PC), Issues s c f.g1 f.g2 E pc → E ≠ 0 → c.g.pends = [] →
    exec (.flags f) s = .next (s.goesAs c (.v 0x1A5 f) (c.g.modLanes E fun _ l => l.pushAll c.g.coilD
      [.word (BitVec.ofNat 32 (l.flags.toNat + l.rep.toNat * 2 ^ 8))]) pc)) ∧
  (∀ (f : VOps) (s : State) (c : Ctx) (E : LaneMask) (pc : PC), Issues s c f.g1 f.g2 E pc → E ≠ 0 → c.g.pends = [] →
    exec (.flclr f) s = .next (s.goesAs c (.v 0x1A6 f) (c.g.modLanes E fun _ l =>
      { l with flags := l.flags &&& ~~~(f.imm.setWidth 6), rep := l.rep &&& ~~~(f.imm.setWidth 6) }) pc)) ∧
  (∀ (f : TOps) (s : State) (c : Ctx) (E : LaneMask) (pc : PC), Issues s c f.g1 f.g2 E pc → E ≠ 0 →
    c.freeS f.d.val = .ok () →
    exec (.time f) s = .next ((s.putS c f.d.val (s.vtime c.g.vf)).goes c (.t 0x1A7 f) pc)) ∧
  (∀ (f : TOps) (s : State) (c : Ctx) (E : LaneMask) (pc : PC) (v : DWord) (i : Nat), Issues s c f.g1 f.g2 E pc →
    E ≠ 0 → c.freeS f.d.val = .ok () → c.readS f.a.val = .ok v → (∀ vf : Nat, ctrOperand c.g.vf v = some (vf, i) →
      exec (.ctrrd f) s = .next ((if vf = c.g.vf then s.putS c f.d.val (s.ctr c.core vf i).count
        else s.noteRead.putS c f.d.val (s.ctrSeen c.core vf i)).goes c (.t 0x1A8 f) pc)) ∧
    (ctrOperand c.g.vf v = none → exec (.ctrrd f) s = .next (s.precise c 0x01 0x0B (wordT 0x1A8 f) E))) ∧
  (∀ (f : TOps) (s : State) (c : Ctx) (E : LaneMask) (pc : PC) (n v : DWord) (u : State) (w : Counter),
    Issues s c f.g1 f.g2 E pc → E ≠ 0 → c.readS f.a.val = .ok n → c.readS f.b.val = .ok v → n.toNat < 8 → v.toNat < 2 ^ 10 →
    Sys2Proof.Machine.fld v 0 8 < 0x10 → u = s.goes c (.t 0x1A9 f) pc →
    w = { event := Sys2Proof.Machine.fld v 0 8, en := bit v 8,
          count := if bit v 9 then 0 else (u.ctr c.core c.g.vf n.toNat).count } →
    exec (.ctrcfg f) s = .next (u.modCore c.core fun k =>
      { k with ctrs := nset {} k.ctrs (ctrKey c.g.vf n.toNat) w }))) ∧
  ((∀ (k : Csrs) (v : DWord), (k.write 0x07 v).read 0x07 = v ∧ (k.write 0x08 v).read 0x08 = v ∧
    (k.write 0x09 v).read 0x09 = v &&& 0x7F ∧ (k.write 0x0A v).read 0x0A = v &&& 0x3F ∧
    (k.write 0x0B v).read 0x0B = v &&& 0x3F) ∧
  (∀ (k : Csrs) (m n : Nat) (v : DWord), m ≠ n → n ≤ 0x0E → (k.write m v).read n = k.read n) ∧
  (∀ (k : Csrs) (n : Nat) (v : DWord), n ≤ 6 ∨ 0x0C ≤ n → k.write n v = k))

/-! ## Events -/

/-- COMPLETION AND RESULT of PAGE_WALK, ACCESS_REPLAY, ICACHE_FILL, BUNDLE_REFETCH and SPILLED_LINE_ARRIVAL (R47,
R144, R295, R299, R415, R420): the oldest queued walk of the partition is taken and its line prefetched; an access
whose record has been resumed is made again, where its function does not stop; a bundle arrives for the oldest group
that waits on a miss, and a prefetched one that passes its check; a refetched bundle that fails its check again faults
with code 2; a line of a returned scratchpad row takes its saved bytes and is present. That the oldest queued walk is
served is the model's choice (log 20), and when a prefetch comes is its own schedule (log 13). -/
def Obligations.FetchAndArrivalEventsComplete : Prop :=
  (∀ (s : State) (part die : Nat) (w : Nat × Nat × Nat), s.sys.off = false →
    ((s.die die).walks.find? fun w => s.corePart w.1 == part) = some w →
    exec (.pageWalk part die) s = .next ((s.modDie die fun d => { d with walks := d.walks.erase w }).prefetch w.1
      (s.corePart w.1) (w.2.1 / 4) (w.2.1 % 4) w.2.2)) ∧
  (∀ (s : State) (core slot : Nat) (g : Group), s.sys.off = false → s.sys.stopped = false → s.group? core slot = some g →
    g.gstate = .running → g.dstop = false → g.wait.kind = 0x0F → g.waitDone = true → g.resume = .replay →
    ((s.vf g.vf).pstate ≠ .stopping → exec (.accessReplay core slot) s = .next (s.setGroup core slot g.again)) ∧
    ((s.vf g.vf).pstate = .stopping → exec (.accessReplay core slot) s = .next s)) ∧
  (∀ (s t : State) (core slot : Nat) (c : Ctx) (ws : List DWord), s.sys.off = false → s.sys.stopped = false →
    s.fetchNext core = some (slot, c) → s.icRead c.core c.g c.g.pc.bundle = .words ws t →
    exec (.icacheFill core slot c.g.pc.bundle) s = .next t) ∧
  (∀ (s t : State) (core slot : Nat) (bundle : DWord) (c : Ctx) (ws : List DWord), s.sys.off = false →
    s.sys.stopped = false → s.fetchNext core = none → s.fetcher core slot = some c →
    (s.core core).icFind c.g.vf c.g.job bundle = none → s.prefetchable c bundle = true →
    bundle.extractLsb' 56 8 = (0 : BitVec 8) → s.icRead core c.g bundle = .words ws t →
    (bundleFault ws = none → exec (.icacheFill core slot bundle) s = .next t) ∧
    (bundleFault ws ≠ none → exec (.icacheFill core slot bundle) s = .next s)) ∧
  (∀ (s u t : State) (core slot : Nat) (c : Ctx) (l : IcLine) (ws : List DWord), s.sys.off = false →
    s.sys.stopped = false → s.decoder core slot = some c →
    (s.core core).icFind c.g.vf c.g.job c.g.pc.bundle = some l → (bundleFault l.words).isSome = true →
    (s.icRead core c.g c.g.pc.bundle).held = false →
    u = (s.modCore core fun k => { k with icache := k.icache.filter fun y => y != l }) →
    u.icRead c.core c.g c.g.pc.bundle = .words ws t →
    (bundleFault ws = none → exec (.bundleRefetch core slot) s = .next t) ∧
    (∀ sub : Nat, bundleFault ws = some sub → exec (.bundleRefetch core slot) s = .next (t.fetchFault c 0x02 sub))) ∧
  (∀ (s t : State) (core wg line pa : Nat) (l2 : Bool) (w : Workgroup), s.sys.off = false → s.sys.stopped = false →
    s.wg? core wg = some w → w.arriving.contains line = true → w.hold = none →
    s.savePage core w.vf w.part (s.spadSave w (line / 32)) false [(128 * (line % 32), 128)] = .at_ pa l2 t →
    exec (.spilledLineArrival core wg line) s = .next (t.modWg core wg fun w =>
      { w with spad := w.spad.put (128 * line) (t.mem.bytes (pa + 128 * (line % 32)) 128),
               arriving := w.arriving.erase line, absent := nset 0 w.absent line (nget 0 w.absent line - 1) }))

/-- COMPLETION AND RESULT of JOB_QUEUE_DOORBELL and QUEUE_EN_WRITE (R98, R99): a doorbell that fits in the ring sets
E, enters its cards with one number each and wakes the partition, any other sets ERR alone; enabling a job queue or a
data queue zeroes its counters (that ring cards which have entered run on, and that a data queue's reservations go
with its counters, are the model's choices, log 76), and while EN is 1 a write changes EN alone. COMPLETION AND RESULT
of LATENCY_MONITOR_CONFIG, LOG_OVF_CLEAR, HALF_READ_LOW, HALF_READ_HIGH and REGISTER_WRITE (R5, R430, R435, R437,
R445): the read of a wide register's low half leaves its high half in the path's shadow, which the read of its high
half shows. That a host read leaves its value in hostRead and that the physical function's reads come as these events
are the model's choices (log 26), and so is that number 2048 + vf makes of the low half's event a read of the whole
register (log 24). -/
def Obligations.RegisterEventsComplete : Prop :=
  ((∀ (s : State) (vf q : Nat) (p : BitVec 32), s.sys.off = false → s.sys.identityOnly = false → q < s.jqn vf →
    (bit (s.jqCfg vf q) 0 = true →
      (p - (s.jq vf q).e).toNat + ((s.jq vf q).e - (s.jq vf q).c).toNat ≤
        2 ^ Sys2Proof.Machine.fld (s.jqCfg vf q) 2 5 →
      (p = (s.jq vf q).e → exec (.jobQueueDoorbell vf q p) s = .next s) ∧
      (∀ (k : Nat) (t : Ticket) (u : State), k = (p - (s.jq vf q).e).toNat → 0 < k → s.takeTickets vf q k = (t, u) →
        t.seq = (s.jq vf q).seq + 1 ∧ t.order = s.cardOrder ∧ t.at_ = s.ref ∧
        exec (.jobQueueDoorbell vf q p) s = .next ((u.modJq vf q fun j =>
          { j with e := p
                   ring := j.ring ++ [{ n := k, base := u.ringBase vf q,
                                        log2n := Sys2Proof.Machine.fld (s.jqCfg vf q) 2 5, idx := (s.jq vf q).e,
                                        seq := t.seq, order := t.order, enteredAt := t.at_, counts := true,
                                        held := s.heldOn vf }] }).wakePart
          (u.partOf vf)))) ∧
    (bit (s.jqCfg vf q) 0 = false ∨ 2 ^ Sys2Proof.Machine.fld (s.jqCfg vf q) 2 5 <
        (p - (s.jq vf q).e).toNat + ((s.jq vf q).e - (s.jq vf q).c).toNat →
      exec (.jobQueueDoorbell vf q p) s = .next (s.setVr vf (jqCfgOfs q) (putFld (s.jqCfg vf q) 7 1 1)))) ∧
  (∀ (s : State) (vf q : Nat) (v : DWord), s.sys.off = false → s.sys.identityOnly = false → q < s.jqn vf →
    bit (s.vr vf (jqCfgOfs q)) 0 = false → bit v 0 = true →
    exec (.queueEnWrite vf false q v) s =
      .next ((s.setVr vf (jqCfgOfs q) (cfgWrite false (s.vr vf (jqCfgOfs q)) v)).modJq vf q fun j =>
        { j with c := 0, e := 0, done := 0, ring := j.ring.map fun r => { r with counts := false } })) ∧
  (∀ (s : State) (vf q : Nat) (v : DWord), s.sys.off = false → s.sys.identityOnly = false → q < s.dqn vf →
    bit (s.vr vf (dqCfgOfs q)) 0 = false → bit v 0 = true →
    exec (.queueEnWrite vf true q v) s =
      .next ((s.setVr vf (dqCfgOfs q) (cfgWrite true (s.vr vf (dqCfgOfs q)) v)).modDq vf q fun _ => {})) ∧
  (∀ (data : Bool) (old v : DWord) (i : Nat), bit old 0 = true → 0 < i → i ≠ 7 →
    bit (cfgWrite data old v) i = bit old i) ∧
  (∀ (data : Bool) (old v : DWord), bit (cfgWrite data old v) 0 = bit v 0)) ∧
  ((∀ (s : State) (vf q : Nat) (v : DWord), s.sys.off = false → s.sys.identityOnly = false → vf < 256 → q < 16 →
    exec (.latencyMonitorConfig vf q v) s = .next (s.latencyConfig vf q v)) ∧
  (∀ (s : State) (vf : Nat), s.sys.off = false → s.sys.identityOnly = false →
    exec (.logOvfClear vf) s = .next (s.setPr (dirtyOfs vf 0x10) (putFld (s.pr (dirtyOfs vf 0x10)) 0 1 0))) ∧
  (∀ (s : State) (vf o : Nat) (v : DWord), s.sys.off = false → s.sys.identityOnly = false →
    nsorted none s.preg = true → vf < 256 → o % 8 = 0 → wide64 o = true → s.hostSeen .tenant vf o = v →
    ∃ t, exec (.halfReadLow .tenant vf o) s = .next t ∧ t.hostRead = BitVec.ofNat 64 (Sys2Proof.Machine.fld v 0 32) ∧
      (t.sys.off = false → t.sys.identityOnly = false →
        ∃ w, exec (.halfReadHigh .tenant vf (o + 4)) t = .next w ∧
          w.hostRead = BitVec.ofNat 64 (Sys2Proof.Machine.fld v 32 32))) ∧
  (∀ (s : State) (vf o : Nat) (v : DWord), s.sys.off = false → s.sys.identityOnly = false →
    nsorted none s.preg = true → vf < 256 → o % 8 = 0 → o < 0x10000 → wide64 o = true →
    s.noteRead.hostSeen .operator vf o = v →
    ∃ t, exec (.halfReadLow .operator pfn (0x1000000 + 0x10000 * vf + o)) s = .next t ∧
      exec (.halfReadLow .operator vf o) s = .next t ∧
      t.hostRead = BitVec.ofNat 64 (Sys2Proof.Machine.fld v 0 32) ∧
      (t.sys.off = false → t.sys.identityOnly = false →
        ∃ w, exec (.halfReadHigh .operator pfn (0x1000000 + 0x10000 * vf + o + 4)) t = .next w ∧
          w.hostRead = BitVec.ofNat 64 (Sys2Proof.Machine.fld v 32 32))) ∧
  (∀ (s : State) (o : Nat), s.sys.off = false → s.sys.identityOnly = false → o % 8 = 0 → o < 0x1000000 →
    exec (.halfReadLow .operator pfn o) s = .next { s.noteRead with
      hostRead := BitVec.ofNat 64 (Sys2Proof.Machine.fld (s.noteRead.hostSeen .operator pfn o) 0 32) } ∧
    exec (.halfReadHigh .operator pfn (o + 4)) s = .next { s.noteRead with
      hostRead := BitVec.ofNat 64 (Sys2Proof.Machine.fld (s.noteRead.hostSeen .operator pfn o) 32 32) }) ∧
  (∀ (s : State) (vf o : Nat), s.sys.off = false → s.sys.identityOnly = false → vf < 256 → o % 8 = 0 →
    exec (.halfReadLow .tenant (2048 + vf) o) s = .next { s with hostRead := s.hostSeen .tenant vf o } ∧
    (wide64 o = false → exec (.halfReadLow .tenant vf o) s = .next { s with
      hostRead := BitVec.ofNat 64 (Sys2Proof.Machine.fld (s.hostSeen .tenant vf o) 0 32) })) ∧
  (∀ (s : State) (fn ofs : Nat) (v : DWord), s.sys.off = false → s.sys.identityOnly = false →
    (fn < 256 → exec (.registerWrite fn ofs v) s = .next (s.pageWrite fn ofs v)) ∧
    (fn = pfn → exec (.registerWrite fn ofs v) s = .next (s.pfWrite ofs v))))

/-- COMPLETION AND RESULT of CARD_PARSE, FENCE_CONDITION_MET and JOB_COMPLETE (R96, R102, R108): the oldest entered
card is parsed, with none the next card of the ring is entered and counted; a FENCE card whose conditions have all
been met completes; a launch card with nothing left completes. COMPLETION AND RESULT of DEAL_CHUNK, STEAL_CHUNK and
WORKGROUP_START (R104, R107, R61): the most urgent card that some core takes is dealt to it; a starved core takes the
largest unstarted chunk, whole where it holds one record and else its upper half; the chunk at the head of a deal
queue starts once its rows are free. That the first of the largest chunks is stolen, and which jobs a core serves, are
the model's choices (log 50). -/
def Obligations.DealerEventsComplete : Prop :=
  ((∀ (s u : State) (vf q : Nat), s.sys.off = false → (s.bound vf).isSome = true → (s.vf vf).pstate ≠ .halted →
    ((s.inQueue vf q).any fun p => p.2.parsed && p.2.kind == 1) = false → (s.vf vf).cardWaits q = false →
    u = s.enterConts vf → u.contsOf vf q = [] →
    (∀ p : Nat × Job, u.unparsed vf q = some p → (∀ r ∈ (u.jq vf q).ring.head?, p.2.seq < r.seq) →
      u.parseHeld p.2 = false →
      exec (.cardParse vf q) s = .next (u.parse p.1 p.2)) ∧
    (∀ (r : RingCards) (p : Nat × Job), (u.jq vf q).ring.head? = some r →
      ((u.unparsed vf q).any fun p => decide (p.2.seq < r.seq)) = false → u.copyRoom vf q = true →
      u.fnHeld vf r.slot = false → (u.copyCard vf q r).unparsed vf q = some p → p.2.seq = r.seq →
      (u.copyCard vf q r).parseHeld p.2 = false →
      exec (.cardParse vf q) s = .next ((u.copyCard vf q r).parse p.1 p.2))) ∧
  (∀ (s t : State) (vf q : Nat), s.sys.off = false → t = s.noteFences → (t.vf vf).pstate ≠ .halted →
    (∀ p : Nat × Job, ((t.inQueue vf q).find? fun p => p.2.parsed && p.2.kind == 1) = some p →
      (p.2.met.length = p.2.conds.length → t.gateOpen p.2 = true → t.inTurn p.2 = true →
        (bit (wordAtD p.2.words 7) 4 = true → ∀ x ∈ t.inQueue vf q, p.2.seq ≤ x.2.seq) → t.futureHeld p.2 = false →
        exec (.fenceConditionMet vf q) s =
          .next ((t.setJob p.1 { p.2 with cstate := .started, startedAt := t.ref }).complete p.1)) ∧
      (p.2.met.length ≠ p.2.conds.length → exec (.fenceConditionMet vf q) s = .next t))) ∧
  (∀ (s : State) (id : Nat) (j : Job), s.sys.off = false → s.job? id = some j → j.kind = 0 → j.remaining = 0 →
    s.mayStart j = true → s.jobIdle id = true →
    s.futureHeld j = false → j.refused = none →
    exec (.jobComplete id) s = .next ((if j.rcount = 0 then s.setJob id { j with cstate := .started, startedAt := s.ref }
      else s).complete id))) ∧
  ((∀ (s t : State) (part : Nat), s.sys.off = false →
    ((s.candidates part).findSome? fun p => s.tryDeal p.1 p.2) = some t →
    exec (.dealChunk part) s = .next ((List.range 64).foldl (fun u c =>
      if (s.core c).dealq.length < (t.core c).dealq.length then u.wakeCore c else u) t)) ∧
  (∀ (s : State) (core v i : Nat) (ch : Chunk), s.sys.off = false → s.sys.stopped = false → s.coreOn core = true →
    (s.core core).clocked = true → s.anyReady core = false → (s.core core).dealq = [] → largest (s.stealable core) = some (v, i, ch) →
    (ch.count ≤ 1 → exec (.stealChunk core) s =
      .next ((s.modCore v fun k => { k with dealq := k.dealq.eraseIdx i }).pushChunk core ch)) ∧
    (∀ j : Job, 1 < ch.count → s.job? ch.job = some j → exec (.stealChunk core) s =
      .next (((s.newId.2.setJob ch.job { j with wgid := j.wgid + 1, chunks := j.chunks + 1 }).modCore v fun k =>
        { k with dealq := k.dealq.set i { ch with count := ch.count - (ch.count + 1) / 2,
                                                  stolen := ch.stolen + (ch.count + 1) / 2 } }).pushChunk core
        { ch with first := ch.first + (ch.count - (ch.count + 1) / 2), count := (ch.count + 1) / 2, wgid := j.wgid,
                  clset := s.nextId, stolen := 0 }))) ∧
  (∀ (s : State) (core : Nat) (ch : Chunk) (rest : List Chunk) (j : Job), s.sys.off = false → s.sys.stopped = false →
    (s.core core).dealq = ch :: rest → s.job? ch.job = some j → ch.setSize ≤ 1 → s.dealt j.vf = true →
    (s.core core).gate.gated = false → s.fitsNow j j.lrec false core = true →
    exec (.workgroupStart core) s =
      .next ((s.modCore core fun k => { k with dealq := k.dealq.tail }).startWg core j ch)))

/-- COMPLETION AND RESULT of COPY_PIECE and COPY_COMPLETE (R322, R333): a read takes its piece's bytes, a write of a
plain copy puts them, through the copy engine's own checks; a command whose pieces are all written, and that has no
notification and no future left, is counted and gives its context up. The order of the pieces is given by the events
themselves (log 13). COMPLETION AND RESULT of ENGINE_COMMAND_START, ENGINE_COMMAND_COMPLETE and ADRV_DRAIN (R351,
R352, R371, R372): a command with no earlier command of its tile and path starts, and reads a line that is present and
whole; a started one that waits for nothing and reads no poison has its effect, counts its clocks on the array (as it
completes: the model's choice, log 77), leaves the queue and counts on timeline t1; an ADRV whose tile has no earlier
command drains to its lanes. That a line is read when its event names it is the model's own schedule (log 13, 46). -/
def Obligations.CopyAndEngineEventsComplete : Prop :=
  ((∀ (s u w : State) (core cmd row ofs : Nat) (k : CopyCmd) (r : Row) (q : Nat × Nat) (pa : Nat) (l2 : Bool),
    s.sys.off = false → s.sys.stopped = false → s.copy? core cmd = some k → k.failed = none → k.hold = none → k.kind ≠ 2 → k.badIndex row = false →
    (k.srcs.find? fun r => r.1 == row) = some r → ((rowPieces r).find? fun q => q.1 == ofs) = some q →
    nfind k.got (pkey row q.1) = none → copyRemote (DWord.up r.2.1 q.1) = false →
    s.pieceAt core k false row (DWord.up r.2.1 q.1) = .at (.phys pa) l2 u → u.poisoned (.phys pa) q.2 = false →
    w = (if l2 then u.l2Access core k.part k.vf pa 0 false else u) →
    exec (.copyPiece core cmd false row ofs) s = .next (w.modCopy core k.id fun p =>
      { p with got := nins p.got (pkey row q.1) (w.readLoc (.phys pa) q.2) })) ∧
  (∀ (s u : State) (core cmd row ofs : Nat) (k : CopyCmd) (r : Row) (q : Nat × Nat) (pa : Nat) (l2 : Bool)
      (data : List Byte),
    s.sys.off = false → s.sys.stopped = false → s.copy? core cmd = some k → k.failed = none → k.hold = none → k.kind ≠ 2 →
    (k.dsts.find? fun r => r.1 == row) = some r → ((rowPieces r).find? fun q => q.1 == ofs) = some q →
    k.put.contains (pkey row q.1) = false → k.pieceData row q.1 q.2 = some data →
    copyRemote (DWord.up r.2.1 q.1) = false → s.pieceAt core k true row (DWord.up r.2.1 q.1) = .at (.phys pa) l2 u →
    exec (.copyPiece core cmd true row ofs) s = .next (((u.store core k.part k.vf (.phys pa) data 0 l2).count core k.vf
      0x0E q.2).pieceDone core k.id (pkey row q.1))) ∧
  (∀ (s : State) (core cmd : Nat) (k : CopyCmd), s.sys.off = false → s.sys.stopped = false → s.copy? core cmd = some k → k.hold = none →
    k.failed = none → k.written = true → k.sent = [] → cpyNote k.kind k.k0 = false → cpyFut k.kind k.k0 = false →
    exec (.copyComplete core cmd) s = .next (s.copyRetire core k))) ∧
  ((∀ (s : State) (core cmd : Nat) (k : ECmd), s.sys.off = false → s.sys.stopped = false → s.ecmd? core cmd = some k →
    (s.eng core).mayStart k = true → k.op.lanesDrain = false → (∀ fb rw a opts, k.op ≠ .drain fb rw a opts) →
    exec (.engineCommandStart core cmd []) s = .next (s.modEcmd core cmd fun k => { k with started := true })) ∧
  (∀ (s : State) (core cmd : Nat) (k : ECmd) (fb rw a : DWord) (opts : BitVec 6), s.sys.off = false → s.sys.stopped = false →
    s.ecmd? core cmd = some k → (s.eng core).mayStart k = true → k.op = .drain fb rw a opts →
    exec (.engineCommandStart core cmd []) s =
      .next ((s.modEcmd core cmd fun k => { k with started := true }).drainLand core cmd
        ((s.modEcmd core cmd fun k => { k with started := true }).drainOut core k fb rw a opts).1 [])) ∧
  (∀ (s : State) (core cmd i : Nat) (k : ECmd) (x : Nat × Nat × Nat), s.sys.off = false → s.sys.stopped = false →
    s.ecmd? core cmd = some k → (s.eng core).mayStart k = false → (s.readLines core k)[i]? = some x →
    s.absentLine (lineLoc x) = false → s.poisoned (lineLoc x) 128 = false → nfind k.lines (spadKey x) = none →
    ((s.modEcmd core k.id fun k => { k with lines := nins k.lines (spadKey x) (s.readLoc (lineLoc x) 128) }).eng
      core).mayStart k = false →
    exec (.engineCommandStart core cmd [i]) s = .next (s.modEcmd core k.id fun k =>
      { k with lines := nins k.lines (spadKey x) (s.readLoc (lineLoc x) 128) })) ∧
  (∀ (s : State) (core cmd : Nat) (k : ECmd), s.sys.off = false → s.sys.stopped = false → s.ecmd? core cmd = some k → k.started = true →
    s.engHeld core k = false → s.engPoison core k = none →
    (∀ g : Group, (s.engRun core k).1.group? core k.slot = some g → exec (.engineCommandComplete core cmd) s =
      .next (((s.engRun core k).1.count core g.vf 0x0D k.op.arrayClocks).engRetire core k (s.engRun core k).2)) ∧
    ((s.engRun core k).1.group? core k.slot = none → exec (.engineCommandComplete core cmd) s =
      .next ((s.engRun core k).1.engRetire core k (s.engRun core k).2))) ∧
  (∀ (s : State) (core cmd slot0 : Nat) (k : ECmd) (sat : Bool), s.sys.off = false → s.sys.stopped = false → s.ecmd? core cmd = some k →
    k.op = .drainLanes slot0 sat → (s.eng core).mayStart k = true →
    exec (.adrvDrain core cmd) s = .next ((s.adrvRun core k sat).engRetire core k 0)))

/-- COMPLETION AND RESULT of FREE_SLOT_FILL, SCHEDULER_SWAP and FORCED_SWAP (R149, R150, R494): a free active slot
takes the best ready pending group, which may issue in the next clock; a swap of the lowest candidate takes 8 clocks;
a forced swap displaces the active group of the highest progress count for one that has been ready for 2048 clocks.
COMPLETION AND RESULT of GATING_ENTRY, GATING_HOLDOFF_EXPIRE and GATING_EXIT_DONE (R167 to R169): at its entry clock
an idle core is gated and counted, one that is not aborts, is counted and held off for 4096 clocks; a wake in the
entry clock aborts, a later one starts an exit; the hold-off and the 1100 clocks of an exit end, and the first group
may issue in the next clock. -/
def Obligations.SchedulerEventsComplete : Prop :=
  ((∀ (s : State) (core a n : Nat) (g : Group), s.sys.off = false → s.sys.stopped = false → (s.core core).clocked = true →
    (s.core core).freeActive = some a → bestGroup (s.readyPending core) = some (n, g) →
    exec (.freeSlotFill core) s = .next ((s.enterActive core a n).modGroup core n fun g =>
      { g with busy := max g.busy (s.clock + 1) })) ∧
  (∀ (s : State) (core a n : Nat) (g : Group), s.sys.off = false → s.sys.stopped = false → (s.core core).clocked = true →
    (s.core core).freeActive = none → ((List.range 8).find? (s.swapCandidate core)) = some a →
    bestGroup (s.readyPending core) = some (n, g) →
    exec (.schedulerSwap core a) s = .next (s.swapIn core a n)) ∧
  (∀ (s : State) (core n a v t : Nat) (g : Group), s.sys.off = false → s.sys.stopped = false → (s.core core).clocked = true →
    (s.core core).freeActive = none → ((List.range 8).any (s.swapCandidate core)) = false →
    (s.core core).forcedAt ≠ some s.clock → s.readyPending core = [(n, g)] → g.readySince = some t →
    t + 2048 ≤ s.clock → s.victim core = some (a, v) →
    exec (.forcedSwap core) s = .next (((s.withdraw core v).swapIn core a n).modCore core fun k =>
      { k with forcedAt := some s.clock })) ∧
  (∀ (s : State) (core a n : Nat), core < 64 → a < 8 →
    ((s.swapIn core a n).core core).active.toList.getD a none = some n ∧
    ((s.swapIn core a n).core core).swapping (s.clock + 7) a = true ∧
    ((s.swapIn core a n).core core).swapping (s.clock + 8) a = false) ∧
  (∀ (l : List (Nat × Group)) (b : Nat × Group), bestGroup l = some b → b ∈ l ∧
    ∀ x ∈ l, b.2.progress.toNat ≤ x.2.progress.toNat ∧ (x.2.progress = b.2.progress → b.2.start ≤ x.2.start))) ∧
  ((∀ (s : State) (core : Nat), s.sys.off = false → s.sys.stopped = false → s.entryDue core = true →
    (s.coreIdle core = true → exec (.gatingEntry core) s = .next (s.modCore core fun k =>
      { k with gate := { k.gate with gated := true, entryAt := s.clock, entries := k.gate.entries + 1 } })) ∧
    (s.coreIdle core = false → s.entryClock core = some s.clock → exec (.gatingEntry core) s = .next (s.modCore core fun k =>
      { k with gate := { k.gate with idleSince := none, holdoff := some (s.clock + 4096), heldTill := s.clock + 4096,
                                     aborts := k.gate.aborts + 1 } })) ∧
    (s.coreIdle core = false → s.entryClock core ≠ some s.clock → exec (.gatingEntry core) s = .next (s.modCore core fun k =>
      { k with gate := { k.gate with idleSince := none } }))) ∧
  (∀ (s : State) (core : Nat), s.sys.off = false → s.sys.stopped = false → s.entryDue core = false →
    exec (.gatingEntry core) s = .next s) ∧
  (∀ (s : State) (core : Nat), (s.core core).gate.gated = true →
    ((s.core core).gate.entryAt ≠ s.clock → (s.core core).gate.exitDone = none → s.wakeCore core = s.modCore core fun k =>
      { k with gate := { k.gate with exitDone := some (s.clock + 1100) } }) ∧
    ((s.core core).gate.entryAt = s.clock → s.wakeCore core = s.modCore core fun k =>
      { k with gate := { k.gate with gated := false, entries := k.gate.entries - 1, idleSince := none,
                                     holdoff := some (s.clock + 4096), heldTill := s.clock + 4096,
                                     aborts := k.gate.aborts + 1 } })) ∧
  (∀ (s : State) (core t : Nat), s.sys.off = false → s.sys.stopped = false → (s.core core).gate.holdoff = some t →
    (t ≤ s.clock → exec (.gatingHoldoffExpire core) s = .next (s.modCore core fun k =>
      { k with gate := { k.gate with holdoff := none } })) ∧
    (s.clock < t → exec (.gatingHoldoffExpire core) s = .next s)) ∧
  (∀ (s : State) (core t : Nat), s.sys.off = false → s.sys.stopped = false → (s.core core).gate.exitDone = some t →
    (t ≤ s.clock → exec (.gatingExitDone core) s = .next (s.modCore core fun k =>
      { k with gate := { k.gate with gated := false, exitDone := none, idleSince := none }
               groups := k.groups.map fun p => (p.1, { p.2 with busy := max p.2.busy (s.clock + 1) }) })) ∧
    (s.clock < t → exec (.gatingExitDone core) s = .next s)))

/-- COMPLETION AND RESULT of PREEMPT_REQ, GROUP_PREEMPT_STOP, PREEMPT_TIMEOUT, PREEMPT_RESUME and QUANTUM_EXPIRE
(R414, R415, R420, R425, R429): a running function begins to stop; a group of it halts where it is parked, or before a
bundle that its table lists, under that entry's live set, or after 2^20 clocks at any bundle, counted and with its
whole state; a bundle's engine fault is delivered before a stop there; a halted function begins to resume from its floor of time; a turn whose quantum has run out gives way to
the next, once its function has stopped; one that is still resuming has not begun its quantum. That a parked group
stops at once is the model's reading (log 52). COMPLETION AND RESULT of GROUP_RESUME, ROW_CLAIM_COMPLETE and
TILE_SPILL (R417 to R420): a halted group of a resuming function with no row claimed gets its spilled rows and tiles
back and runs; the rows that a placement lacks are claimed of the halted groups that may lose them (not while their
requests, or copies into their rows, have still to land: the model's reading, log 79; nor during a flip of the page
that a row goes to); a halted group's tile that
another waits for goes to the save pool. -/
def Obligations.PreemptionEventsComplete : Prop :=
  ((∀ (s : State) (vf : Nat), s.sys.off = false → s.sys.identityOnly = false →
    ((s.vf vf).pstate = .running → s.bound vf = none → exec (.preemptReq vf) s = .next ((s.modVf vf fun v =>
      { v with pstate := .stopping, reqAt := s.clock, bySlicer := false }).settleHalt vf)) ∧
    (∀ p : Nat, (s.vf vf).pstate = .running → s.bound vf = some p → exec (.preemptReq vf) s = .next (((s.modVf vf fun v =>
      { v with pstate := .stopping, reqAt := s.clock, bySlicer := false }).wakePart p).settleHalt vf)) ∧
    ((s.vf vf).pstate ≠ .running → (s.vf vf).reqAt ≠ s.clock → exec (.preemptReq vf) s = .next (s.modVf vf fun v => v)) ∧
    ((s.vf vf).pstate = .stopping ∨ (s.vf vf).pstate = .halted → (s.vf vf).reqAt = s.clock →
      exec (.preemptReq vf) s = .next (s.modVf vf fun v => { v with bySlicer := false }))) ∧
  (∀ (s : State) (core slot : Nat) (g : Group), s.sys.off = false → s.sys.stopped = false → s.group? core slot = some g →
    g.gstate = .running → (s.vf g.vf).pstate = .stopping → (s.core core).clocked = true →
    (g.dstop = true ∨ g.resume ≠ .none → exec (.groupPreemptStop core slot) s = .next ((s.haltGroup core slot {}).settleHalt g.vf)) ∧
    (∀ e : DWord × DWord, g.resume = .none → g.dstop = false → g.csr.inHandler = false → g.pc.slot = 1 →
      s.ptabEntry g g.pc.bundle = some e →
      (g.csr.epend ≠ [] → exec (.groupPreemptStop core slot) s = .next s) ∧
      (g.csr.epend = [] → exec (.groupPreemptStop core slot) s = .next ((s.haltGroup core slot (liveOf e)).settleHalt g.vf))) ∧
    (g.resume = .none → g.dstop = false → g.pc.slot = 1 → (s.vf g.vf).reqAt + 2 ^ 20 ≤ s.clock →
      g.faultDue = false → exec (.preemptTimeout core slot) s = .next (((s.modVf g.vf fun v => { v with touts := v.touts + 1 }).haltGroup core
        slot {}).settleHalt g.vf))) ∧
  (∀ (s : State) (vf : Nat), s.sys.off = false → s.sys.identityOnly = false →
    ((s.vf vf).pstate = .halted → exec (.preemptResume vf) s = .next (((s.resumeTime vf).modVf vf fun v =>
      { v with pstate := .resuming }).settleResume vf)) ∧
    ((s.vf vf).pstate ≠ .halted → exec (.preemptResume vf) s = .next s)) ∧
  (∀ (s : State) (p i v : Nat), s.sys.off = false → s.sliced p = true → (s.part p).switching = false →
    (s.part p).turnStart + 1000 * max 1 (Sys2Proof.Machine.fld (s.pr (sliceOfs p 0)) 16 32) ≤ s.ref →
    s.nextTurnOf p = some i → s.turnVf p (s.part p).cur = some v →
    ((s.vf v).pstate = .running → exec (.quantumExpire p) s =
      .next ((s.setPart p { s.part p with switching := true }).stopVf v true)) ∧
    ((s.vf v).pstate = .stopping → exec (.quantumExpire p) s = .next (s.setPart p { s.part p with switching := true })) ∧
    ((s.vf v).pstate = .halted → exec (.quantumExpire p) s = .next (s.switchTurn p)) ∧
    ((s.vf v).pstate = .resuming → exec (.quantumExpire p) s = .next s)) ∧
  (∀ (s : State) (p : Nat), s.sys.off = false → s.sliced p = true → (s.part p).switching = false →
    (s.part p).turnStart + 1000 * max 1 (Sys2Proof.Machine.fld (s.pr (sliceOfs p 0)) 16 32) ≤ s.ref →
    s.nextTurnOf p = none → exec (.quantumExpire p) s = .next (s.setPart p { s.part p with turnStart := s.ref }))) ∧
  ((∀ (s : State) (core slot : Nat) (g : Group), s.sys.off = false → s.sys.stopped = false → s.group? core slot = some g →
    g.gstate = .halted → (s.vf g.vf).pstate = .resuming → g.backMiss = none → g.claimed = [] →
    ((s.core core).needsBack g).2 ≤ ((s.core core).freeIn (s.core core).split).2.2 →
    (s.eng core).queue = [] → s.tilesFree core slot = true → s.bankClash core slot = false →
    exec (.groupResume core slot) s = .next ((((((s.pushLate core slot fun g =>
        g.returned s.mem []).modGroup core slot fun g => { g with
          claimed := [], owed := [], live := {}, gstate := .running,
          wait := if g.resume = .none then {} else g.wait }).modWg core g.wg Workgroup.regain).restoreTiles core slot).standUp
        core slot).settleResume g.vf)) ∧
  (∀ (s : State) (core : Nat) (w : RowWant), s.sys.off = false → s.sys.stopped = false → s.rowsWanted core = some w →
    (∀ p ∈ ((s.core core).claims w).1, ∀ g : Group, s.group? core p.1 = some g → g.pends = [] ∧ s.logQuiet g.vf = false ∧
        (g.rowLive p.2 = true → s.rowHeld core g p.2 = false)) →
    (∀ p ∈ ((s.core core).claims w).2, (s.core core).landing p = false ∧
      ∀ x : Workgroup, nfind (s.core core).wgs p.1 = some x →
        s.logQuiet x.vf = false ∧ s.spadHeld core x p.2 = false) →
    exec (.rowClaimComplete core) s = .next ((((s.core core).claims w).2.foldl (fun s p => s.claimSpadRow core p.1 p.2)
      (((s.core core).claims w).1.foldl (fun s p => s.claimRow core p.1 p.2) s)).settleSplit core)) ∧
  (∀ (k : Core) (w : RowWant) (n r : Nat), (n, r) ∈ (k.claims w).1 →
    ∃ g : Group, (n, g) ∈ k.groups ∧ g.gstate = .halted ∧ w.may n g = true ∧ g.claimed.contains r = false) ∧
  (∀ (s : State) (core n : Nat) (tile : Fin 4), s.sys.off = false → s.sys.stopped = false → s.tileHalted core tile.val = some n →
    ((s.eng core).tile tile.val).waiters ≠ [] → (s.eng core).savedTiles = [] → (s.eng core).queue = [] →
    exec (.tileSpill core tile) s = .next (s.modEng core fun e =>
      ({ e with saved := nset [] e.saved n (nget [] e.saved n ++
                  [(tile.val, { (s.eng core).tile tile.val with waiters := [] })]),
                bank := if e.bank = some tile.val then none else e.bank }.modTile tile.val fun x =>
        { waiters := x.waiters }).settleTile tile.val)))

/-- COMPLETION AND RESULT of GROUP_RETIRE, GROUP_TERMINATE and ENGINE_FAULT_DELIVERY (R404, R405, R422): a leaving
group with its stores drained and both timelines complete gives up what it holds; a terminated one the same way; a
queued engine fault is delivered before the next instruction of a group outside a handler, once no load of a mask word
is pending (R156, R237). -/
def Obligations.GroupEndEventsComplete : Prop :=
  (∀ (s : State) (core slot : Nat) (g : Group), s.sys.off = false → s.sys.stopped = false → s.group? core slot = some g →
    g.gstate = .retiring →
    (g.term = none → g.drained = true → exec (.groupRetire core slot) s = .next (s.releaseGroup core slot g)) ∧
    (g.term ≠ none → g.drained = true → exec (.groupTerminate core slot) s = .next (s.releaseGroup core slot g)) ∧
    (g.drained = false → exec (.groupRetire core slot) s = .next s ∧ exec (.groupTerminate core slot) s = .next s)) ∧
  (∀ g : Group, g.drained = true ↔ g.sq = [] ∧ g.t0.idle = true ∧ g.t1.idle = true) ∧
  (∀ (s : State) (core slot : Nat) (c : Ctx) (r : FaultRec) (rest : List FaultRec), s.sys.off = false →
    s.sys.stopped = false → s.ctxOf core slot = some c → s.mayIssue core slot c.g = true →
    s.awaitsBaton core slot c.g = false → c.g.resume = .none → c.g.csr.inHandler = false → c.g.landed = false →
    c.g.csr.epend = r :: rest →
    (c.maskWait = .ok () → exec (.engineFaultDelivery core slot) s =
      .next ((s.setGroup core slot { c.g with csr := { c.g.csr with epend := rest } }).deliver core slot r c.g.pc)) ∧
    (∀ p : Nat × Nat, p ∈ c.g.spend → 61 ≤ p.1 → exec (.engineFaultDelivery core slot) s = .next s))

/-- COMPLETION AND RESULT of the debug commands and of INSTRUCTION_SAMPLE (R446 to R451): HALT stops the function's
group of that %gid; STEP and RUN end a stop; FOCUS defers every lane but one, and is refused with RES 4 for a lane
outside the mask, 3 where the stack is full, 6 where no reconvergence entry of the group's depth stands; UNFOCUS ends
it; DUMP writes the group's pages; a command for no group, or for one that is not stopped, has RES 1 or 2. Each slot
of a core is sampled for each function that samples once a period has passed, and the record says what holds its
group: the wait, the producer of the value it needs, a bank, the winner of the port it lost. The model's own choices:
that the pass of a breakpoint after STEP and RUN is a latch, that FOCUS waits for a load of a mask word, and which of
several holds a sample names (log 51); what BLAME names for a bank, which is a free value (log 2); that commands wait
during a flip, and in turn (log 68); that a dump waits where it would be logged for a function that shows IDLE
(log 82). -/
def Obligations.DebugEventsComplete : Prop :=
  (∀ (s : State) (vf gid core slot : Nat) (g : Group), s.sys.off = false → s.sys.identityOnly = false →
    (s.vf vf).late.any Late.isCommand = false → s.target vf gid = some (core, slot, g) →
    exec (.debugHalt vf gid) s = .next ((if g.dstop then s else s.debugStop core slot).dbgResult vf gid 0) ∧
    (g.dstop = true →
      (exec (.debugStep vf gid) s = .next (((s.modGroup core slot fun g =>
        { g with dstop := false, dstep := true, bpPass := some g.pc }).standUp core slot).dbgResult vf gid 0)) ∧
      (exec (.debugRun vf gid) s = .next (((s.modGroup core slot fun g =>
        { g with dstop := false, dstep := false, bpPass := some g.pc }).standUp core slot).dbgResult vf gid 0)) ∧
      (exec (.debugUnfocus vf gid) s = .next ((s.modGroup core slot fun g => { g with focus := none }).dbgResult vf gid 0)) ∧
      ((∀ p : Nat × Nat, p ∈ g.spend → p.1 < 61) → ∀ lane : Nat,
        (inMask g.mask lane = false → exec (.debugFocus vf gid lane) s = .next (s.dbgResult vf gid 4)) ∧
        (inMask g.mask lane = true → 32 ≤ g.stack.length →
          exec (.debugFocus vf gid lane) s = .next (s.dbgResult vf gid 3)) ∧
        (inMask g.mask lane = true → g.stack.length < 32 → 0 < g.depth →
          (∀ b d m a y sd mk, Entry.rcv b d m a y sd mk ∈ g.stack → d ≠ g.depth) →
          exec (.debugFocus vf gid lane) s = .next (s.dbgResult vf gid 6)) ∧
        (inMask g.mask lane = true → g.stack.length < 32 →
          (g.depth = 0 ∨ ∃ b m a y sd mk, Entry.rcv b g.depth m a y sd mk ∈ g.stack) →
          exec (.debugFocus vf gid lane) s =
            .next ((s.modGroup core slot fun g => g.setFocus lane).dbgResult vf gid 0))) ∧
      (∀ (t u : State) (pages : List (Nat × Nat)) (r : Nat),
        s.rowPages core g (g.claimed.filter g.rowLive) = .ok (pages, t) →
        t.dumpTo core (g.fillRows t.mem pages) (Sys2Proof.Machine.fld (s.vr vf 0x8018) 12 45 * 4096)
          (s.dumpPages core slot g) = (u, some r) → s.logsQuietly u vf = false →
        exec (.debugDump vf gid) s = .next (u.dbgResult vf gid r))) ∧
    (g.dstop = false →
      exec (.debugStep vf gid) s = .next (s.dbgResult vf gid 2) ∧
      exec (.debugRun vf gid) s = .next (s.dbgResult vf gid 2) ∧
      exec (.debugUnfocus vf gid) s = .next (s.dbgResult vf gid 2) ∧
      (∀ lane : Nat, exec (.debugFocus vf gid lane) s = .next (s.dbgResult vf gid 2)) ∧
      exec (.debugDump vf gid) s = .next (s.dbgResult vf gid 2))) ∧
  (∀ (s : State) (vf gid : Nat), s.sys.off = false → s.sys.identityOnly = false →
    (s.vf vf).late.any Late.isCommand = false →
    s.target vf gid = none →
    exec (.debugHalt vf gid) s = .next (s.dbgResult vf gid 1) ∧
    exec (.debugStep vf gid) s = .next (s.dbgResult vf gid 2) ∧ exec (.debugRun vf gid) s = .next (s.dbgResult vf gid 2) ∧
    (∀ lane : Nat, exec (.debugFocus vf gid lane) s = .next (s.dbgResult vf gid 2)) ∧
    exec (.debugUnfocus vf gid) s = .next (s.dbgResult vf gid 2) ∧
    exec (.debugDump vf gid) s = .next (s.dbgResult vf gid 2)) ∧
  (∀ (s : State) (core act : Nat), s.sys.off = false → s.sys.stopped = false → act < 8 →
    exec (.instructionSample core act) s = .next ((List.range 257).foldl (fun s vf =>
      if s.sampleDue core act vf then s.takeSample core act vf else s) s) ∧
    ((∀ vf : Nat, vf < 257 → s.sampleDue core act vf = false) → exec (.instructionSample core act) s = .next s)) ∧
  (∀ (s : State) (core act vf : Nat), s.sampleDue core act vf = true ↔ bit (s.vr vf 0x8000) 1 = true ∧
    nget 0 (s.core core).sampleTurn vf % 8 = act ∧
    nget 0 (s.core core).sampleAt vf + 2 ^ Sys2Proof.Machine.fld (s.vr vf 0x8000) 16 5 ≤ s.clock) ∧
  (∀ (s u : State) (core act vf : Nat),
    u = (s.modCore core fun k => { k with sampleTurn := nset 0 k.sampleTurn vf ((act + 1) % 8),
                                          sampleAt := nset 0 k.sampleAt vf s.clock }) →
    (u.shown core act = none → s.takeSample core act vf = u) ∧
    (∀ (n : Nat) (g : Group), u.shown core act = some (n, g) →
      (g.vf ≠ vf → s.takeSample core act vf = u) ∧
      (g.vf = vf → ∃ (w0 blame : DWord) (kind why cls : Nat), u.free.2.sampleKind core n g u.free.1 = (kind, why, blame) ∧
        w0 = BitVec.ofNat 64 (kind + why * 2 ^ 8 + n * 2 ^ 16 + core * 2 ^ 22 + u.ref / 1000 % 2 ^ 32 * 2 ^ 32) ∧
        cls = (if kind = 2 then 2 else 3) ∧
        s.takeSample core act vf = (u.free.2.putSample vf [w0, g.pc.word, blame, 0]).copySample vf cls
          [w0, g.pc.word, blame, 0] [w0, g.entryB, g.entryB, 0]))) ∧
  (∀ (s : State) (core slot : Nat) (g : Group) (v : Nat),
    (g.dstop = true → s.sampleKind core slot g v = (if g.dstep then 4 else 3, 0, g.pc.word)) ∧
    (g.dstop = false → g.resume ≠ .none → s.sampleKind core slot g v = (2, g.wait.kind, s.waitsFor core g)) ∧
    (∀ (p : DWord) (ps : List DWord), g.dstop = false → g.resume = .none →
      s.producers core slot g = p :: ps → s.sampleKind core slot g v = (2, 0x42, p)) ∧
    (∀ t : Nat, g.dstop = false → g.resume = .none → s.producers core slot g = [] → g.bankAt = some (g.pc, t) →
      s.clock < t → s.sampleKind core slot g v = (2, 0x41, BitVec.ofNat 64 v)) ∧
    (g.dstop = false → g.resume = .none → s.producers core slot g = [] →
      (∀ t : Nat, g.bankAt = some (g.pc, t) → t ≤ s.clock) →
      (∀ w : PC, g.lostTo = some w → (s.request core slot).isSome = true →
        s.sampleKind core slot g v = (2, 0x40, w.word)) ∧
      (g.lostTo = none ∨ s.request core slot = none → s.sampleKind core slot g v = (1, 0, g.pc.word))))

/-- COMPLETION AND RESULT of FAULT_RESUME, FQCONS_WRITE, the flips of a page's bias and the TLB invalidations (R292,
R293, R296, R298, R299): RESUME takes the records at or before its value, lets their accesses go and writes the
withheld ones; a flip starts unless one is in progress and, once no access to the page is in flight, changes the
page's bias; an invalidation is in progress until the context's accesses have been served, and then its entries are
gone. Which entries an invalidation drops before its completion is a free value (log 54); RESULT of a flip of the
physical function is the model's reading (log 23). -/
def Obligations.FaultServiceEventsComplete : Prop :=
  (∀ (s : State) (fn : Nat) (seq : BitVec 32), s.sys.off = false → s.sys.identityOnly = false →
    exec (.faultResume fn seq) s = .next (((s.modVf fn fun v =>
        { v with fq := (s.vf fn).fq.filter fun e => !(e.seq.any fun q => seqBefore seq q) }).releaseKeys fn
      (((s.vf fn).fq.filter fun e => e.seq.any fun q => seqBefore seq q).map (·.key))).retryWithheld fn)) ∧
  (∀ (s : State) (fn : Nat) (v : BitVec 32), s.sys.off = false → s.sys.identityOnly = false →
    exec (.fqconsWrite fn v) s = .next ((s.setVr fn 0x5010 (v.setWidth 64)).retryWithheld fn)) ∧
  (∀ (s : State) (vf ipa : Nat) (page : DWord), s.sys.off = false → s.sys.identityOnly = false → vf ≠ pfn →
    (s.vf vf).flip = none → ipa = Sys2Proof.Machine.fld page 12 40 * 4096 →
    exec (.biasFlipToDevice vf page) s = .next ((s.touch2 vf ipa false 2).modVf vf fun v =>
      { v with flip := some ((s.flipPage vf ipa).2, false, (s.flipPage vf ipa).1) }) ∧
    exec (.biasFlipToHost vf page) s = .next ((s.touch2 vf ipa false 2).modVf vf fun v =>
      { v with flip := some ((s.flipPage vf ipa).2, true, (s.flipPage vf ipa).1) })) ∧
  (∀ (s : State) (vf : Nat) (page : DWord), s.sys.off = false → s.sys.identityOnly = false →
    (s.vf vf).flip.isSome = true →
    exec (.biasFlipToDevice vf page) s = .next s ∧ exec (.biasFlipToHost vf page) s = .next s) ∧
  (∀ (s : State) (vf page : Nat) (toHost : Bool), s.sys.off = false →
    (s.vf vf).flip = some (page, toHost, 0) → (s.inFlight (fun _ => true) fun pa => pa / 4096 == page) = false →
    ∃ t, exec (.biasFlipComplete vf) s = .next t ∧ t.hostBias = nset 0 s.hostBias page (if toHost then 0 else 1) ∧
      t.mem = s.mem) ∧
  (∀ (s : State) (vf : Nat) (va : DWord), s.sys.off = false → s.sys.identityOnly = false →
    exec (.tlbInvalidateRange vf va) s = .next (s.invalidate vf
      (Sys2Proof.Machine.fld va 12 45 * 4096, Sys2Proof.Machine.fld (s.vr vf 0x4008) 0 32)) ∧
    exec (.tlbInvalidateAll vf) s = .next (s.invalidate vf everyPage) ∧
    exec (.stage2Invalidate vf) s = .next ((s.modVf vf fun v => { v with inv2Busy := true }).dropSome vf everyPage)) ∧
  (∀ (s : State) (vf : Nat), s.sys.off = false →
    (s.inFlight (fun g => g.vf == vf) fun _ => true) = false →
    ((s.vf vf).inv2Busy = true → exec (.invalidationComplete vf true) s =
      .next ((s.dropTlb vf everyPage).modVf vf fun v => { v with inv2Busy := false })) ∧
    ((s.vf vf).invs ≠ [] → exec (.invalidationComplete vf false) s =
      .next (((s.vf vf).invs.foldl (fun s r => s.dropTlb vf r) s).modVf vf fun v => { v with invs := [] }))) ∧
  (∀ (s : State) (vf core va n : Nat) (e : TlbEntry), e ∈ ((s.dropTlb vf (va, n)).core core).tlb →
    ¬ (e.ctx = vf ∧ e.va < va + 4096 * n ∧ va < e.va + e.size))

/-- COMPLETION AND RESULT of PLACEMENT_WRITE, VFBIND_WRITE and the policy and quote events (R133, R134, R442, R443,
R463, R464): a placement write that would break a rule sets PLERR alone; a bound function's binding changes only while it is idle
(that one which is not bound may be bound whatever cards it holds is the model's reading, log 93);
a blob that is accepted locks the partition's policy, a refused one leaves what is in force (both in a clock in which
no read has passed the filter: the lock goes before them); a quote advances the stored index. That submissions queue
in order, and the form of a quote, are the model's choices (log 56, 4). -/
def Obligations.OperatorEventsComplete : Prop :=
  (∀ (s : State) (die ofs : Nat) (v m : DWord), s.sys.off = false → s.sys.identityOnly = false → die < 4 →
    placeMask ofs = some m →
    (s.placeErrors (s.setPr (placeOfs die ofs) (v &&& m)) die ofs ≠ 0 → exec (.placementWrite die ofs v) s =
      .next (s.setPr plerrOfs (s.pr plerrOfs |||
        BitVec.ofNat 64 (s.placeErrors (s.setPr (placeOfs die ofs) (v &&& m)) die ofs)))) ∧
    (s.placeErrors (s.setPr (placeOfs die ofs) (v &&& m)) die ofs = 0 → (ofs < 0x100 ∨ 0x180 ≤ ofs) →
      exec (.placementWrite die ofs v) s = .next (s.setPr (placeOfs die ofs) (v &&& m))) ∧
    (s.placeErrors (s.setPr (placeOfs die ofs) (v &&& m)) die ofs = 0 → 0x100 ≤ ofs → ofs < 0x180 →
      exec (.placementWrite die ofs v) s =
        .next ((s.setPr (placeOfs die ofs) (v &&& m)).settleSplit (16 * die + (ofs - 0x100) / 8)))) ∧
  (∀ (s : State) (vf : Nat) (v : DWord), s.sys.off = false → s.sys.identityOnly = false → vf < 256 →
    v &&& 0x13F ≠ s.pr (vfbindOfs vf) →
    ((bit (v &&& 0x13F) 8 = true ∧ 8 ≤ s.boundBeside vf (Sys2Proof.Machine.fld (v &&& 0x13F) 0 6)) →
      (bit (s.pr (vfbindOfs vf)) 8 = true → (s.hasCard vf = true ∨ s.groupsOf vf ≠ []) →
        exec (.vfbindWrite vf v) s = .next (s.plerr 0x28)) ∧
      (bit (s.pr (vfbindOfs vf)) 8 = false ∨ (s.hasCard vf = false ∧ s.groupsOf vf = []) →
        exec (.vfbindWrite vf v) s = .next (s.plerr 0x08))) ∧
    ((bit (v &&& 0x13F) 8 = true → s.boundBeside vf (Sys2Proof.Machine.fld (v &&& 0x13F) 0 6) < 8) →
      (bit (s.pr (vfbindOfs vf)) 8 = true → (s.hasCard vf = true ∨ s.groupsOf vf ≠ []) →
        exec (.vfbindWrite vf v) s = .next (s.plerr 0x20)) ∧
      (bit (s.pr (vfbindOfs vf)) 8 = false ∨ (s.hasCard vf = false ∧ s.groupsOf vf = []) →
        exec (.vfbindWrite vf v) s = .next ((s.setPr (vfbindOfs vf) (v &&& 0x13F)).beginTurn vf)))) ∧
  (∀ (s : State) (v : DWord), s.sys.off = false → s.sys.identityOnly = false → exec (.policySubmit v) s =
    .next (s.setPart (Sys2Proof.Machine.fld v 58 6) { s.part (Sys2Proof.Machine.fld v 58 6) with
      pending := (s.part (Sys2Proof.Machine.fld v 58 6)).pending ++
        [BitVec.ofNat 64 (Sys2Proof.Machine.fld v 4 48 * 16)] })) ∧
  (∀ (s : State) (p : Nat) (a : DWord) (rest : List DWord), s.sys.off = false → (s.part p).pending = a :: rest →
    s.readAt ≠ some s.clock →
    (s.blobReason p a.toNat = none → exec (.policyVerifyDone p) s = .next (s.setPart p { s.part p with
      pending := rest, pstate := 2, classes := s.blobClasses a.toNat,
      keyhash := (Config.shake256 (s.mem.bytes (a.toNat + 0x50) 64)).toList })) ∧
    (∀ r : Nat, s.blobReason p a.toNat = some r → exec (.policyVerifyDone p) s = .next (s.setPart p { s.part p with
      pending := rest, reason := r, pstate := if (s.part p).pstate = 2 then 2 else 3 }))) ∧
  (∀ (s : State) (p : Nat), s.sys.off = false → s.sys.identityOnly = false → s.boundTo p = [] →
    ∃ t, exec (.policyTeardown p) s = .next t ∧ (p < 64 → (t.part p).pstate = 0 ∧
      (t.part p).nonceGen = (s.part p).nonceGen + 1)) ∧
  (∀ (s : State) (v : DWord), s.sys.off = false → s.sys.identityOnly = false →
    exec (.quoteRequest v) s = .next (if s.sys.quoteBusy.isSome then s else { s with sys := { s.sys with
      quoteBusy := some (BitVec.ofNat 64 (Sys2Proof.Machine.fld v 5 47 * 32)) } })) ∧
  (∀ (s : State) (a : DWord), s.sys.off = false → s.sys.quoteBusy = some a → s.physReadable a.toNat 32 = true →
    s.physReadable (Sys2Proof.Machine.fld (s.pr 0x208) 12 40 * 4096) 1 = true →
    (2 ^ 20 ≤ s.sys.sigIndex → exec .quoteComplete s =
      .next { s with sys := { s.sys with quoteBusy := none, quoteReason := 2 } }) ∧
    (s.sys.sigIndex < 2 ^ 20 → ∃ t, exec .quoteComplete s = .next t ∧ t.sys.sigIndex = s.sys.sigIndex + 1 ∧
      t.sys.quoteBusy = none))

/-- COMPLETION AND RESULT of the events of Osier's ports and of the host's and memory's own: REMOTE_FRAME_RECEIVE,
OSIER_RETRANSMIT, OSIER_PORT_FAIL, OSIER_PORT_ENABLE, OSIER_PORT_UP, HOST_MEM_ACCESS, SOFT_ERROR (R292, R300, R458 to
R461). That a host read shows at most 8 bytes, and how the places of soft errors are numbered, are the model's choices
(log 58), as is the tag of the host at port 20 (log 80). -/
def Obligations.LinkEventsComplete : Prop :=
  (∀ (s u : State) (f : Frame) (b : List Byte), s.sys.off = false → s.frame? f.id = some f → f.hold = none →
    (∀ p : Nat, f.port = some p → s.portState p = 2) → (f.mine = true → f.device = s.devId) → s.serve f = .done b u →
    exec (.remoteFrameReceive (.known f.id)) s = .next (if f.mine then u.framePerformed f b else u.dropFrame f.id)) ∧
  (∀ (s : State) (f : Frame) (sub : Nat), s.sys.off = false → s.frame? f.id = some f → f.hold = none →
    (∀ p : Nat, f.port = some p → s.portState p = 2) → (f.mine = true → f.device = s.devId) → s.serve f = .refused sub →
    exec (.remoteFrameReceive (.known f.id)) s = .next (if f.mine then s.frameRefused f sub else s.dropFrame f.id)) ∧
  (∀ (s t u : State) (a : Arrival) (f : Frame) (b : List Byte), s.sys.off = false → s.portState a.port = 2 →
    a.ofs < 2 ^ 39 → f = arrivalFrame a s.nextId s.devId s.ref →
    t = { s with nextId := s.nextId + 1, frames := s.frames ++ [f] } → t.serve f = .done b u →
    exec (.remoteFrameReceive (.sent a)) s = .next (u.dropFrame s.nextId)) ∧
  (∀ (s : State) (a : Arrival), s.sys.off = false → s.portState a.port ≠ 2 →
    exec (.remoteFrameReceive (.sent a)) s = .next s) ∧
  (∀ (s : State) (f : Frame), s.sys.off = false → s.frame? f.id = some f → f.mine = true → f.port.isSome = true →
    f.taken = false → f.sentAt + 4000 ≤ s.ref →
    exec (.osierRetransmit f.id) s = .next (s.modFrame f.id fun f => { f with sentAt := s.ref })) ∧
  (∀ (s : State) (port : Nat), s.sys.off = false → port < 6 → s.portState port ≠ 3 →
    (s.ports.toList.getD port {}).lastAck + 1000000 ≤ s.ref →
    ((s.carried port).any fun f => !f.taken && decide (f.bornAt + 1000000 ≤ s.ref)) = true →
    exec (.osierPortFail port) s = .next ((s.carried port).foldl State.reroute
      ((s.modPort port fun k => { k with pstate := 3 }).eqKind pfn 4 port 3 0))) ∧
  (∀ (s : State) (port : Nat), s.sys.off = false → s.sys.identityOnly = false → port < 6 →
    exec (.osierPortEnable port false) s =
      .next ((s.setPr (osierOfs (8 + 8 * port)) 0).modPort port fun k => { k with pstate := 0 }) ∧
    (bit (s.pr (osierOfs (8 + 8 * port))) 0 = false → exec (.osierPortEnable port true) s =
      .next ((s.setPr (osierOfs (8 + 8 * port)) 1).modPort port fun k => { k with pstate := 1 }))) ∧
  (∀ (s : State) (port : Nat), s.sys.off = false → s.portState port = 1 →
    exec (.osierPortUp port) s = .next (s.modPort port fun k => { k with pstate := 2, lastAck := s.ref })) ∧
  (∀ (s : State) (pa p : Nat) (bytes : List Byte), s.sys.off = false → s.sys.identityOnly = false →
    inMap pa = true → inMap (pa + bytes.length - 1) = true → p < 64 →
    (∀ l ∈ linesIn pa (max 1 bytes.length), s.xbar 64 p l false = true) →
    (∃ t, exec (.hostMemAccess false pa bytes) s = .next t ∧ t.mem = s.mem ∧
      t.hostRead = BitVec.ofNat 64 (leNat (s.mem.bytes pa (min 8 bytes.length)))) ∧
    (∃ t, exec (.hostMemAccess true pa bytes) s = .next t ∧ t.mem = s.mem.put pa bytes)) ∧
  (∀ (s : State) (die pa : Nat), s.sys.off = false →
    exec (.softError die true pa) s = .next (s.modDie die fun d => { d with corrected := d.corrected + 1 }) ∧
    (∃ t, exec (.softError die false pa) s = .next t ∧ t.mem = s.mem ∧ t.dscr = s.dscr ∧
      (die < 4 → (t.die die).uncorrected = (s.die die).uncorrected + 1) ∧
      (pa < 2 ^ 56 → ∀ x : Nat, x ∈ t.poison ↔ x ∈ s.poison ∨ x / 8 = pa / 8) ∧
      (2 ^ 57 ≤ pa → pa < 2 ^ 59 → ∀ x : Nat, x ∈ t.poison ↔ x ∈ s.poison ∨ x / 128 = pa % 2 ^ 57 / 128)))

/-- COMPLETION AND RESULT of the events of starts, clocks, power and temperature: COLD_START, WARM_START, PCIE_RESET,
POWER_LOSS, DROOP_DETECT, SAG_END, CLOCK_RETURN_STEP, POWER_CAP_STEP, THERMAL_THROTTLE, THERMAL_SHUTDOWN (R463, R465
to R468): a start leaves the reset state, with HBM kept by a warm start alone; a core's clock falls to 7/8 and returns
by 1/64 each µs; throttling moves by 1/64 each ms between 1/2 and the full rate; at 115 °C the cores stop; firmware
that is not signed, or whose version lies below the rollback minimum, leaves the identity alone, at step 2 or before. That host
memory outlives a start, that a start may raise the rollback minimum, that a warm start keeps such a stop, and that the
loss of power leaves a module without power are the model's choices (log 57, 58). -/
def Obligations.PowerEventsComplete : Prop :=
  (∀ (s : State), ∃ t, exec .coldStart s = .next t ∧ t.cores = State.reset.cores ∧ t.jobs = State.reset.jobs ∧
    t.vfs = State.reset.vfs ∧ t.parts = State.reset.parts ∧ t.mem = hostOnly s.mem ∧
    t.sys.sigIndex = s.sys.sigIndex ∧ s.sys.rollback ≤ t.sys.rollback ∧ t.sys.stopped = false ∧ t.sys.off = false) ∧
  (∀ (s : State), Config.fwSigned (Config.fwImage (s.sys.starts + 1)) = false ∨
      Config.fwVersion (Config.fwImage (s.sys.starts + 1)) < s.sys.rollback →
    ∃ t, exec .coldStart s = .next t ∧ t.sys.identityOnly = true ∧ t.sys.bstage ≤ 2 ∧ t.sys.verified = none ∧
      t.sys.rollback = s.sys.rollback) ∧
  (∀ (s : State), s.sys.off = false → s.sys.identityOnly = false →
    ∃ t, exec .warmStart s = .next t ∧ exec .pcieReset s = .next t ∧ t.cores = State.reset.cores ∧
      t.jobs = State.reset.jobs ∧ t.vfs = State.reset.vfs ∧ t.parts = State.reset.parts ∧ t.mem = s.mem ∧
      t.sys.sigIndex = s.sys.sigIndex ∧ s.sys.rollback ≤ t.sys.rollback ∧ t.sys.stopped = s.sys.stopped) ∧
  (∀ (s : State), ∃ t, exec .powerLoss s = .next t ∧ t.sys.stopped = true ∧ t.sys.off = true ∧ t.sys.sigIndex = s.sys.sigIndex ∧
    t.sys.rollback = s.sys.rollback ∧ t.cores = State.reset.cores) ∧
  (∀ (s : State) (core : Nat), s.sys.off = false →
    exec (.droopDetect core) s = .next (s.modCore core fun k => { k with clockNum := 56, sagging := true }) ∧
    ((s.core core).sagging = true → exec (.sagEnd core) s =
      .next (s.modCore core fun k => { k with sagging := false, clockAt := s.ref })) ∧
    ((s.core core).sagging = false → (s.core core).clockNum < 64 → (s.core core).clockAt + 1000 ≤ s.ref →
      exec (.clockReturnStep core) s =
        .next (s.modCore core fun k => { k with clockNum := k.clockNum + 1, clockAt := k.clockAt + 1000 }))) ∧
  (∀ (s : State) (w : Nat), s.sys.off = false → s.sys.powerAt + 1000000 ≤ s.ref →
    (Sys2Proof.Machine.fld (s.pr 0x900000) 0 12 < w → exec (.powerCapStep w) s = .next { s with sys := { s.sys with
      power := w, capNum := max 32 (s.sys.capNum - 1), powerAt := s.ref } }) ∧
    (w < Sys2Proof.Machine.fld (s.pr 0x900000) 0 12 → exec (.powerCapStep w) s = .next { s with sys := { s.sys with
      power := w, capNum := min 64 (s.sys.capNum + 1), powerAt := s.ref } })) ∧
  (∀ (s : State) (die t : Nat), s.sys.off = false → (s.die die).thermAt + 1000000 ≤ s.ref →
    (1050 < t → exec (.thermalThrottle die t) s = .next (s.modDie die fun d =>
      { d with tenths := t, throttle := max 32 (d.throttle - 1), thermAt := s.ref })) ∧
    (t ≤ 1050 → exec (.thermalThrottle die t) s = .next (s.modDie die fun d =>
      { d with tenths := t, throttle := min 64 (d.throttle + 1), thermAt := s.ref }))) ∧
  (∀ (s : State) (die t : Nat), s.sys.off = false → 1150 ≤ t →
    ∃ u, exec (.thermalShutdown die t) s = .next u ∧ u.sys.stopped = true ∧
      ({ u with sys := s.sys } = { eventFault (s.modDie die fun d => { d with tenths := t })
          { code := 0x60, sub := 0x20, vf := pfn, stamp := s.ref } with sys := s.sys }))

/-! ## The machine as a whole -/

/-- A step runs the decoded instruction: when the module runs, nothing is scheduled, and the group that `State.cur`
names may issue (it waits for nothing, no engine fault, pre-emption or swap that it asked for comes first, it is no
arrival), and the word at its PC, in a bundle that is in the instruction cache and passes its check, decodes to i, the
step is exec of i in that state, with the bundle's slot bits noted and the line made the cache's youngest; of the
groups at one rendezvous slot the lowest goes first; an instruction that needs a shared port issues by that port's
decision, and where a bank, its pipe or the port holds it one clock passes, as it does where its operand waits for a
miss slot or a tile. An undecodable word is ILLEGAL_INSTRUCTION (code 0x01). The schedule and the group whose turn it is
are the model's own (log 13), and so is the form of the port decision: an instruction held for an operand goes to exec
without a port, the decision is made at a turn of an asking group, and slotFirst names the lowest group (log 90); one
that a page fault has held and that is made again asks for no port (log 98); banks (log 96). -/
def Obligations.StepRunsTheDecodedInstruction : Prop :=
  ∀ (s u : State) (core slot : Nat) (c : Ctx) (l : IcLine), s.agenda = [] → s.cur = (core, slot) →
    s.ctxOf core slot = some c → s.mayIssue core slot c.g = true → s.awaitsBaton core slot c.g = false →
    c.g.rejoin = false → c.g.resume = .none → (c.g.csr.epend = [] ∨ c.g.csr.inHandler = true ∨ c.g.landed = true) →
    s.stopsHere c.g = false → s.timesOut c.g = false → s.yieldAct core c.g = none → c.maskWait = .ok () →
    c.g.pc.bundle.extractLsb' 56 8 = 0 → (s.core core).icFind c.g.vf c.g.job c.g.pc.bundle = some l →
    bundleFault l.words = none → c.g.entered = true → c.g.atArrival = false →
    (hdrSv (l.words.headD 0)).getLsbD (c.g.pc.slot - 1) = true →
    (c.g.landed = true → step s = .next (s.modGroup core slot fun g => { g with landed := false })) ∧
    (c.g.landed = false → (c.g.counted = true ∨ c.g.bpPass = some c.g.pc ∨ s.bpHit c.g.vf c.g.pc.word = false) →
    u = { ((s.modCore core fun k => { k with icache := icFill k.icache l }).modGroup core slot fun g =>
            { g with sv := hdrSv (l.words.headD 0), rjt := hdrRjt (l.words.headD 0), swapHint := false })
          with cur := (core, slot) } →
    (∀ i : Instr, decode (l.words.getD c.g.pc.slot 0) = .ok i →
      (c.g.counted = true → step s = exec i u) ∧
      (c.g.counted = false → s.opHeld c i.form = true →
        ((∀ id ∈ c.heldBy i.form (s.enqdWords c i.form), ∀ q ∈ c.g.pends, q.id = id → q.slot = true ∧ q.dest ≠ .tile) →
          step s = exec i u) ∧
        (∀ id ∈ c.heldBy i.form (s.enqdWords c i.form), ∀ q ∈ c.g.pends, q.id = id → q.slot = false ∨ q.dest = .tile →
          step s = .next (s.tick 1 1))) ∧
      (c.g.counted = false → s.opHeld c i.form = false →
        (s.heldBack c i.form = true → step s = .next (s.tick 1 1)) ∧
        (s.heldBack c i.form = false →
          (portOf i.form c.g.mask = none → s.slotFirst core slot i = slot → step s = exec i u) ∧
          (∀ p : Nat, portOf i.form c.g.mask = some p →
            (s.clock < (s.core core).portFree.toList.getD p 0 → step s = .next (s.tick 1 1)) ∧
            (∀ t : State, (s.core core).portFree.toList.getD p 0 ≤ s.clock →
              s.winner core p (s.requesters core p) = some slot →
              (s.settlePort core p slot (s.requesters core p)).nextAct core slot = .run i t → step s = exec i t))))) ∧
    (∀ sub : Nat, decode (l.words.getD c.g.pc.slot 0) = .error sub → step s = .next (s.precise c 0x01 sub
      (l.words.getD c.g.pc.slot 0)
      (c.g.exec (guard1 (l.words.getD c.g.pc.slot 0)) (guard2 (l.words.getD c.g.pc.slot 0))))))

/-- A stopped module (a shutdown for heat, R468, or the loss of power) stays stopped whatever step it takes, short of a
cold start, a warm start among them. While it is stopped no group has a turn, no port decides, no instruction issues and
no event of a core, its caches or its engines does anything; one without power takes nothing but a cold start. Which
events are a core's own, that the others go on in a shutdown for heat, and that a module without power stands, are the
model's reading of R468 (log 58). -/
def Obligations.StoppedModuleStaysStopped : Prop :=
  (∀ (s t : State), s.sys.stopped = true → (∀ x ∈ s.agenda, x ≠ .event .coldStart) → step s = .next t →
    t.sys.stopped = true ∧ (∀ x ∈ t.agenda, x ≠ .event .coldStart)) ∧
  (∀ (s : State) (core slot port : Nat), s.sys.stopped = true →
    s.turn (.issue core slot) = .next s ∧ s.turn (.decide core port) = .next s) ∧
  (∀ (s : State), s.sys.stopped = true → s.agenda = [] → step s = .next (s.tick 1 1)) ∧
  (∀ (s : State) (i : Instr), s.sys.stopped = true → s.sys.off = true → i ≠ .coldStart → i ≠ .powerLoss →
    exec i s = .fault .stopped) ∧
  (∀ (s : State), s.sys.stopped = true → s.sys.off = false →
    (∀ (core cmd row ofs : Nat) (write : Bool), exec (.copyPiece core cmd write row ofs) s = .next s) ∧
    (∀ (core cmd : Nat) (l : List Nat), exec (.engineCommandStart core cmd l) s = .next s) ∧
    (∀ core cmd : Nat, exec (.copyComplete core cmd) s = .next s ∧ exec (.engineCommandComplete core cmd) s = .next s ∧
      exec (.adrvDrain core cmd) s = .next s) ∧
    (∀ core : Nat, exec (.stealChunk core) s = .next s ∧ exec (.workgroupStart core) s = .next s ∧
      exec (.freeSlotFill core) s = .next s ∧ exec (.forcedSwap core) s = .next s ∧
      exec (.gatingEntry core) s = .next s ∧ exec (.gatingHoldoffExpire core) s = .next s ∧
      exec (.gatingExitDone core) s = .next s ∧ exec (.rowClaimComplete core) s = .next s) ∧
    (∀ core act : Nat, exec (.schedulerSwap core act) s = .next s ∧ exec (.instructionSample core act) s = .next s) ∧
    (∀ (core : Nat) (tile : Fin 4), exec (.tileSpill core tile) s = .next s) ∧
    (∀ (core slot : Nat) (bundle : DWord), exec (.icacheFill core slot bundle) s = .next s) ∧
    (∀ core slot : Nat, exec (.groupPreemptStop core slot) s = .next s ∧ exec (.preemptTimeout core slot) s = .next s ∧
      exec (.groupResume core slot) s = .next s ∧ exec (.groupRetire core slot) s = .next s ∧
      exec (.groupTerminate core slot) s = .next s ∧ exec (.engineFaultDelivery core slot) s = .next s ∧
      exec (.bundleRefetch core slot) s = .next s ∧ exec (.accessReplay core slot) s = .next s ∧
      exec (.storeQueueDrain core slot) s = .next s ∧ ∀ id : Nat, exec (.missDataReturn core slot id) s = .next s) ∧
    (∀ core wg line : Nat, exec (.spilledLineArrival core wg line) s = .next s))

/-- Memory and the die scratchpads keep their one canonical form (addresses rising, no listed byte equal to what an
unlisted one reads as) at every step, so that equal memories are equal data, and the table of the physical function's
registers keeps its keys rising, so that what was written last is read. The forms are the model's own (log 7). -/
def Obligations.MemoryStaysCanonical : Prop :=
  ∀ (s t : State), s.mem.wf = true → s.dscr.wf = true → nsorted none s.preg = true → step s = .next t →
    t.mem.wf = true ∧ t.dscr.wf = true ∧ nsorted none t.preg = true

/-- No event and no instruction that issues stops a running module: exec answers a next state for every row of the
opcode table, on every operand. The model's own claim of completeness. -/
def Obligations.NothingStopsARunningModule : Prop :=
  ∀ (i : Instr) (s : State), s.sys.stopped = false → s.sys.off = false → (s.ctx?).isSome = true → ∃ t, exec i s = .next t

/-- Decoding a well-formed instruction's word gives it back: no bit of an encoding is dropped. -/
def Obligations.DecodeEncode : Prop :=
  ∀ (i : Instr) (w : DWord), i.wf = true → encode i = some w → decode w = .ok i

/-! ## Encodings and reset -/

/-- The opcodes of R84 are reserved: a word with one of them is ILLEGAL_INSTRUCTION with subcode 1, whatever its other
bits, the group's lanes and its guards. -/
def Obligations.ReservedOpcodesFault : Prop :=
  ∀ (w : DWord) (n : Nat), n = Sys2Proof.Machine.fld w 55 9 →
    (0x00A ≤ n ∧ n ≤ 0x01F) ∨ (0x029 ≤ n ∧ n ≤ 0x03F) ∨ (0x064 ≤ n ∧ n ≤ 0x07F) ∨ (0x09E ≤ n ∧ n ≤ 0x0BF) ∨
      (0x0CB ≤ n ∧ n ≤ 0x0DF) ∨ (0x0F5 ≤ n ∧ n ≤ 0x0FF) ∨ (0x10A ≤ n ∧ n ≤ 0x11F) ∨ (0x12B ≤ n ∧ n ≤ 0x13F) ∨
      (0x14A ≤ n ∧ n ≤ 0x15F) ∨ (0x167 ≤ n ∧ n ≤ 0x17F) ∨ (0x18A ≤ n ∧ n ≤ 0x19F) ∨ (0x1AA ≤ n ∧ n ≤ 0x1BF) ∨
      (0x1C0 ≤ n ∧ n ≤ 0x1F7) ∨ (0x1F8 ≤ n ∧ n ≤ 0x1FF) →
    decode w = .error 0x01 ∧
    ∀ (s : State) (core slot : Nat) (c : Ctx) (l : IcLine), l.words.getD c.g.pc.slot 0 = w →
      (c.g.bpPass = some c.g.pc ∨ s.bpHit c.g.vf c.g.pc.word = false) →
      s.issueWord core slot c l = .other (s.precise c 0x01 0x01 w (c.g.exec (guard1 w) (guard2 w)))

/-- Words that the spec writes out decode to the instructions they stand for: NOP (R85), JMPI s9 (R205), IDIVM.n32 ^2,
^1 (R214), ICMP.lt.i32 p3, ^1, k4 (R221), (p2) FFMA.f32.rz ^1, f12, k3 (R85), and a NOP with a guard !p0 is refused
(R202). -/
def Obligations.WordsDecode : Prop :=
  decode 0 = .ok (.nop
    { g1 := ⟨false, 0⟩, g2 := ⟨false, 0⟩, disp := 0, disp2 := 0, cond := ⟨false, 0⟩, aux := 0 }) ∧
  decode 0x0180120000000000 = .ok (.jmpi { g1 := ⟨false, 0⟩, g2 := ⟨false, 0⟩, t := 9, aux := 0 }) ∧
  decode 0x2300002007C02000 = .ok (.idivm
    { g1 := ⟨false, 0⟩, g2 := ⟨false, 0⟩, a := .age 1, b := .age 0, c := .zero, ty := .n32, mod := 0, imm := 0 }) ∧
  decode 0x2E80001827C00026 = .ok (.icmp
    { g1 := ⟨false, 0⟩, g2 := ⟨false, 0⟩, a := .age 0, b := .konst 4, c := .zero, ty := .i32, mod := 0, imm := 0x13 }) ∧
  decode 0x4190000266064200 = .ok (.ffma
    { g1 := ⟨false, 2⟩, g2 := ⟨false, 0⟩, a := .age 0, b := .frame 12, c := .konst 3, ty := .f32, mod := 1, imm := 0 }) ∧
  decode 0x0040000000000000 = .error 6 ∧ decode 0x0004000000000000 = .error 6

/-- What reset leaves (R110, R130, R134, R465): no group, card or command; every dependence counter at zero; every
core and slice of each die in partition 0 and no function bound; every page under host bias; the memory in its
canonical form. The memory form is the model's own (log 7). -/
def Obligations.ResetLeaves : Prop :=
  (∀ k n : Nat, State.reset.group? k n = none) ∧ State.reset.jobs = [] ∧
  (∀ vf i : Nat, State.reset.dc vf i = 0) ∧
  (∀ d : Nat, d < 4 → State.reset.pr (placeOfs d 0x400) = 0x300FFFFFFF ∧
    ∀ p : Nat, 0 < p → p < 64 → State.reset.pr (placeOfs d (0x400 + 8 * p)) = 0) ∧
  (∀ k : Nat, k < 64 → State.reset.coreOn k = true ∧ State.reset.corePart k = 0) ∧
  (∀ v : Nat, v < 256 → State.reset.pr (vfbindOfs v) = 0) ∧ State.reset.pr plerrOfs = 0 ∧
  State.reset.hostBias = [] ∧ State.reset.mem.wf = true ∧ nsorted none State.reset.preg = true ∧ State.reset.dscr.wf = true ∧ State.reset.sys.bstage = 9 ∧
  State.reset.sys.stopped = false ∧ State.reset.sys.off = false

/-! ## Results that the rules give -/

/-- ISEL (R222): word(a) in each lane of E whose third word is nonzero, word(b) in the others, whatever the type. -/
def Obligations.IselMovesBits : Prop :=
  ∀ (f : VOps) (s : State) (c : Ctx) (E : LaneMask) (pc : PC) (a b t : Vector DWord 96), Issues s c f.g1 f.g2 E pc →
    c.sources (s.wgidOf c) E f ((vrule 0x05E).uses f) = .ok (a, b, t) →
    exec (.isel f) s = .next (s.goesAs c (.v 0x05E f) (c.g.modLanes E fun l ln => ln.apply c.g.coilD (f.imm.toNat % 8)
      { push := [if lowWord t[l] ≠ 0 then lowWord a[l] else lowWord b[l]] }) pc)

/-- MATCH (R267): bit k of the word pushed in lane L of E says whether lane 32 w + k contributes and has L's value; a
contributing lane finds its own bit. -/
def Obligations.MatchFindsEqualLanes : Prop :=
  ∀ (f : VOps) (s : State) (c : Ctx) (E : LaneMask) (pc : PC) (a b t : Vector DWord 96), Issues s c f.g1 f.g2 E pc →
    c.sources (s.wgidOf c) E f ((vrule 0x0C6).uses f) = .ok (a, b, t) → f.imm.toNat < 3 →
    ∃ m : Fin 96 → Word,
      exec (.matchLanes f) s = .next (s.goesAs c (.v 0x0C6 f) (c.g.modLanes E fun l ln => ln.apply c.g.coilD (f.imm.toNat % 8)
        { push := [m l] }) pc) ∧
      (∀ l j : Fin 96, j.val / 32 = f.imm.toNat →
        ((m l).getLsbD (j.val % 32) = true ↔
          inMask E j.val = true ∧ inMask c.g.helper j.val = false ∧ lowWord a[j] = lowWord a[l])) ∧
      (∀ l : Fin 96, inMask E l.val = true → inMask c.g.helper l.val = false → l.val / 32 = f.imm.toNat →
        (m l).getLsbD (l.val % 32) = true)

/-- Integer results as the rules compute them on integers (R212 to R217, R223, R224): wrapping sum and product, the
high product, quotient and remainder with the divisor zero, shifts by any count, the funnel shift, the sum with a
carry, the 64-bit sum and difference. -/
def Obligations.IntegerResults : Prop :=
  (∀ (f : VOps) (x : LaneIn), f.ty = .i32 ∨ f.ty = .n32 →
    (opIadd f x).push = [BitVec.ofNat 32 (x.wa.toNat + x.wb.toNat)] ∧
    (opIsub f x).push = [BitVec.ofInt 32 (x.wa.toNat - x.wb.toNat)] ∧
    (opImul f x).push = [BitVec.ofNat 32 (x.wa.toNat * x.wb.toNat)]) ∧
  (∀ (f : VOps) (x : LaneIn), f.ty = .n32 → (opImulh f x).push = [BitVec.ofNat 32 (x.wa.toNat * x.wb.toNat / 2 ^ 32)]) ∧
  (∀ (f : VOps) (x : LaneIn), f.ty = .i32 →
    (opImulh f x).push = [BitVec.ofInt 32 ((x.wa.toInt * x.wb.toInt).fdiv (2 ^ 32))]) ∧
  (∀ (f : VOps) (x : LaneIn), x.wb = 0 → opIdivm f x = { push := [0xFFFFFFFF, x.wa], flags := 32 }) ∧
  (∀ (f : VOps) (x : LaneIn), f.ty = .i32 → x.wb ≠ 0 → opIdivm f x =
    { push := [BitVec.ofInt 32 (x.wa.toInt.tdiv x.wb.toInt),
               BitVec.ofInt 32 (x.wa.toInt - x.wa.toInt.tdiv x.wb.toInt * x.wb.toInt)] }) ∧
  (∀ (f : VOps) (x : LaneIn), f.ty = .n32 → x.wb ≠ 0 → opIdivm f x =
    { push := [BitVec.ofNat 32 (x.wa.toNat / x.wb.toNat), BitVec.ofNat 32 (x.wa.toNat % x.wb.toNat)] }) ∧
  (∀ (f : VOps) (x : LaneIn),
    (opShl f x).push = [BitVec.ofNat 32 (x.wa.toNat * 2 ^ min x.wb.toNat 32)] ∧
    (opShr f x).push = [BitVec.ofNat 32 (x.wa.toNat / 2 ^ min x.wb.toNat 32)] ∧
    (opSar f x).push = [BitVec.ofInt 32 (x.wa.toInt.fdiv (2 ^ min x.wb.toNat 32))]) ∧
  (∀ (f : VOps) (x : LaneIn) (u n : Nat), u = x.wb.toNat * 2 ^ 32 + x.wa.toNat → n = min x.wc.toNat 32 →
    (f.mod.getLsbD 0 = false → (opFunsh f x).push = [BitVec.ofNat 32 (u * 2 ^ n / 2 ^ 32)]) ∧
    (f.mod.getLsbD 0 = true → (opFunsh f x).push = [BitVec.ofNat 32 (u / 2 ^ n)])) ∧
  (∀ (f : VOps) (x : LaneIn) (u : Nat), u = x.wa.toNat + x.wb.toNat + x.wc.toNat % 2 →
    (f.mod.getLsbD 0 = false → (opIaddc f x).push = [BitVec.ofNat 32 u]) ∧
    (f.mod.getLsbD 0 = true → (opIaddc f x).push = [BitVec.ofNat 32 (u / 2 ^ 32)])) ∧
  (∀ (f : VOps) (x : LaneIn),
    (f.mod.getLsbD 0 = false → (opIadd64 f x).push = [lowWord (x.a + x.b), highWord (x.a + x.b)]) ∧
    (f.mod.getLsbD 0 = true → (opIadd64 f x).push = [lowWord (x.a - x.b), highWord (x.a - x.b)]))
end

