-- ==== Sys2Proof/Laws/Memory.lean ====
section
/-! SUPPORT. Sparse tables and byte memory: every operation keeps the canonical form, and a read after a write gives the
value written at its key and what was there before at every other key. -/

namespace Sys2Proof.Machine

/-! ## Sorted tables -/

theorem nsorted_weaken {α : Type} {a b : Nat} {m : NMap α} (h : a ≤ b) (hm : nsorted (some b) m = true) :
    nsorted (some a) m = true := by
  cases m with
  | nil => rfl
  | cons p r =>
    obtain ⟨k, v⟩ := p
    simp only [nsorted, Bool.and_eq_true, decide_eq_true_eq] at hm ⊢
    exact ⟨by omega, hm.2⟩

theorem nsorted_none {α : Type} {a : Nat} {m : NMap α} (hm : nsorted (some a) m = true) : nsorted none m = true := by
  cases m with
  | nil => rfl
  | cons p r => simp_all [nsorted]

theorem nsorted_nins {α : Type} (n : Nat) (x : α) (m : NMap α) (b : Nat) (hb : b < n)
    (hm : nsorted (some b) m = true) : nsorted (some b) (nins m n x) = true := by
  induction m generalizing b with
  | nil => simpa [nins, nsorted] using hb
  | cons p r ih =>
    obtain ⟨k, v⟩ := p
    simp only [nsorted, Bool.and_eq_true, decide_eq_true_eq] at hm
    unfold nins
    split
    · rename_i h; simp [nsorted, hb, h, hm.2]
    · split
      · rename_i h; subst h; simp [nsorted, hb, hm.2]
      · simp only [nsorted, Bool.and_eq_true, decide_eq_true_eq]
        exact ⟨hm.1, ih k (by omega) hm.2⟩

theorem nsorted_nins_none {α : Type} (n : Nat) (x : α) (m : NMap α) (hm : nsorted none m = true) :
    nsorted none (nins m n x) = true := by
  cases m with
  | nil => rfl
  | cons p r =>
    obtain ⟨k, v⟩ := p
    simp only [nsorted] at hm
    unfold nins
    split
    · rename_i h; simp [nsorted, h, hm]
    · split
      · rename_i h; subst h; simpa [nsorted] using hm
      · exact nsorted_nins n x r k (by omega) hm

theorem nsorted_ndel {α : Type} (n : Nat) (m : NMap α) (b : Nat) (hm : nsorted (some b) m = true) :
    nsorted (some b) (ndel m n) = true := by
  induction m generalizing b with
  | nil => rfl
  | cons p r ih =>
    obtain ⟨k, v⟩ := p
    simp only [nsorted, Bool.and_eq_true, decide_eq_true_eq] at hm
    unfold ndel
    split
    · exact nsorted_weaken (by omega) hm.2
    · split
      · simp [nsorted, hm.1, hm.2]
      · simp only [nsorted, Bool.and_eq_true, decide_eq_true_eq]
        exact ⟨hm.1, ih k hm.2⟩

theorem nsorted_ndel_none {α : Type} (n : Nat) (m : NMap α) (hm : nsorted none m = true) :
    nsorted none (ndel m n) = true := by
  cases m with
  | nil => rfl
  | cons p r =>
    obtain ⟨k, v⟩ := p
    simp only [nsorted] at hm
    unfold ndel
    split
    · exact nsorted_none hm
    · split
      · simpa [nsorted] using hm
      · exact nsorted_ndel n r k hm

theorem all_nins {α : Type} (q : Nat × α → Bool) (n : Nat) (x : α) (m : NMap α) (hx : q (n, x) = true)
    (hm : m.all q = true) : (nins m n x).all q = true := by
  induction m with
  | nil => simp [nins, hx]
  | cons p r ih =>
    obtain ⟨k, v⟩ := p
    simp only [List.all_cons, Bool.and_eq_true] at hm
    unfold nins
    split
    · simp only [List.all_cons, Bool.and_eq_true]; exact ⟨hx, hm⟩
    · split
      · simp only [List.all_cons, Bool.and_eq_true]; exact ⟨hx, hm.2⟩
      · simp only [List.all_cons, Bool.and_eq_true]; exact ⟨hm.1, ih hm.2⟩

theorem all_ndel {α : Type} (q : Nat × α → Bool) (n : Nat) (m : NMap α) (hm : m.all q = true) :
    (ndel m n).all q = true := by
  induction m with
  | nil => rfl
  | cons p r ih =>
    obtain ⟨k, v⟩ := p
    simp only [List.all_cons, Bool.and_eq_true] at hm
    unfold ndel
    split
    · exact hm.2
    · split
      · simp only [List.all_cons, Bool.and_eq_true]; exact hm
      · simp only [List.all_cons, Bool.and_eq_true]; exact ⟨hm.1, ih hm.2⟩

/-- Setting a key keeps a table's canonical form. -/
theorem nset_wf {α : Type} [DecidableEq α] (d : α) (m : NMap α) (n : Nat) (x : α) (h : nwf d m = true) :
    nwf d (nset d m n x) = true := by
  simp only [nwf, Bool.and_eq_true] at h ⊢
  unfold nset
  split
  · exact ⟨nsorted_ndel_none n m h.1, all_ndel _ n m h.2⟩
  · rename_i hx
    exact ⟨nsorted_nins_none n x m h.1, all_nins _ n x m (by simpa using hx) h.2⟩

/-! ## Reads -/

theorem nget_below {α : Type} (d : α) {b n : Nat} {m : NMap α} (hm : nsorted (some b) m = true) (h : n ≤ b) :
    nget d m n = d := by
  induction m generalizing b with
  | nil => rfl
  | cons p r ih =>
    obtain ⟨k, v⟩ := p
    simp only [nsorted, Bool.and_eq_true, decide_eq_true_eq] at hm
    rw [nget, if_neg (by omega)]
    exact ih hm.2 (by omega)

theorem nget_nins_self {α : Type} (d : α) (m : NMap α) (n : Nat) (x : α) : nget d (nins m n x) n = x := by
  induction m with
  | nil => simp [nins, nget]
  | cons p r ih =>
    obtain ⟨k, v⟩ := p
    unfold nins
    split
    · simp [nget]
    · split
      · simp [nget]
      · rename_i h; simp [nget, h, ih]

theorem nget_nins_ne {α : Type} (d : α) (m : NMap α) {n a : Nat} (x : α) (h : a ≠ n) :
    nget d (nins m n x) a = nget d m a := by
  induction m with
  | nil => simp [nins, nget, Ne.symm h]
  | cons p r ih =>
    obtain ⟨k, v⟩ := p
    unfold nins
    split
    · simp [nget, Ne.symm h]
    · split
      · rename_i h1 h2; subst h2; simp [nget, Ne.symm h]
      · simp [nget, ih]

theorem nget_ndel_self {α : Type} (d : α) (m : NMap α) (n : Nat) (hm : nsorted none m = true) :
    nget d (ndel m n) n = d := by
  induction m with
  | nil => rfl
  | cons p r ih =>
    obtain ⟨k, v⟩ := p
    simp only [nsorted] at hm
    unfold ndel
    split
    · rename_i h; subst h; exact nget_below d hm (Nat.le_refl _)
    · split
      · rename_i h1 h2; rw [nget, if_neg h1]; exact nget_below d hm (by omega)
      · rename_i h1 h2; rw [nget, if_neg h1]; exact ih (nsorted_none hm)

theorem nget_ndel_ne {α : Type} (d : α) (m : NMap α) {n a : Nat} (h : a ≠ n) : nget d (ndel m n) a = nget d m a := by
  induction m with
  | nil => rfl
  | cons p r ih =>
    obtain ⟨k, v⟩ := p
    unfold ndel
    split
    · rename_i hk; subst hk; simp [nget, Ne.symm h]
    · split
      · rfl
      · simp [nget, ih]

/-- A table reads at the key just set what was set. -/
theorem nget_nset_self {α : Type} [DecidableEq α] (d : α) (m : NMap α) (n : Nat) (x : α) (hm : nwf d m = true) :
    nget d (nset d m n x) n = x := by
  unfold nset
  split
  · rename_i h; subst h
    simp only [nwf, Bool.and_eq_true] at hm
    exact nget_ndel_self _ m n hm.1
  · exact nget_nins_self d m n x

/-- Every other key of it reads as before. -/
theorem nget_nset_ne {α : Type} [DecidableEq α] (d : α) (m : NMap α) {n a : Nat} (x : α) (h : a ≠ n) :
    nget d (nset d m n x) a = nget d m a := by
  unfold nset
  split
  · exact nget_ndel_ne d m h
  · exact nget_nins_ne d m x h

@[simp] theorem nfind_nins_self {α : Type} (m : NMap α) (n : Nat) (x : α) : nfind (nins m n x) n = some x := by
  induction m with
  | nil => simp [nins, nfind]
  | cons p r ih =>
    obtain ⟨k, v⟩ := p
    unfold nins
    split
    · simp [nfind]
    · split
      · simp [nfind]
      · rename_i h; simp [nfind, h, ih]

theorem nfind_nins_ne {α : Type} (m : NMap α) {n a : Nat} (x : α) (h : a ≠ n) :
    nfind (nins m n x) a = nfind m a := by
  induction m with
  | nil => simp [nins, nfind, Ne.symm h]
  | cons p r ih =>
    obtain ⟨k, v⟩ := p
    unfold nins
    split
    · simp [nfind, Ne.symm h]
    · split
      · rename_i h1 h2; subst h2; simp [nfind, Ne.symm h]
      · simp [nfind, ih]

/-! ## Byte memory -/

theorem Mem.set_wf (m : Mem) (a : Nat) (b : Byte) (h : m.wf = true) : (Mem.set m a b).wf = true :=
  nset_wf memDefault m a b h

theorem Mem.put_wf (m : Mem) (a : Nat) (bs : List Byte) (h : m.wf = true) : (Mem.put m a bs).wf = true := by
  induction bs generalizing m a with
  | nil => exact h
  | cons b r ih => exact ih _ _ (Mem.set_wf m a b h)

theorem Mem.get_set_self (m : Mem) (a : Nat) (b : Byte) (h : m.wf = true) : Mem.get (Mem.set m a b) a = b :=
  nget_nset_self memDefault m a b h

theorem Mem.get_set_ne (m : Mem) {a x : Nat} (b : Byte) (h : x ≠ a) : Mem.get (Mem.set m a b) x = Mem.get m x :=
  nget_nset_ne memDefault m b h

theorem Mem.get_put_below (m : Mem) (a : Nat) (bs : List Byte) {x : Nat} (h : x < a) :
    Mem.get (Mem.put m a bs) x = Mem.get m x := by
  induction bs generalizing m a with
  | nil => rfl
  | cons b r ih => rw [Mem.put, ih _ _ (by omega), Mem.get_set_ne m b (by omega)]

theorem Mem.get_put_above (m : Mem) (a : Nat) (bs : List Byte) {x : Nat} (h : a + bs.length ≤ x) :
    Mem.get (Mem.put m a bs) x = Mem.get m x := by
  induction bs generalizing m a with
  | nil => rfl
  | cons b r ih =>
    simp only [List.length_cons] at h
    rw [Mem.put, ih _ _ (by omega), Mem.get_set_ne m b (by omega)]

end Sys2Proof.Machine
end

