-- ==== Sys2Proof/Laws/State.lean ====
section
/-! SUPPORT. One lemma for each field of State that a named update leaves alone, and what the update's own field reads
afterwards. -/

namespace Sys2Proof.Machine

variable (s : State)

@[simp] theorem State.setVr_clock (fn o : Nat) (v : DWord) : (s.setVr fn o v).clock = s.clock := rfl
@[simp] theorem State.setVr_ref (fn o : Nat) (v : DWord) : (s.setVr fn o v).ref = s.ref := rfl
@[simp] theorem State.setVr_fresh (fn o : Nat) (v : DWord) : (s.setVr fn o v).fresh = s.fresh := rfl
@[simp] theorem State.setVr_nextId (fn o : Nat) (v : DWord) : (s.setVr fn o v).nextId = s.nextId := rfl
@[simp] theorem State.setVr_agenda (fn o : Nat) (v : DWord) : (s.setVr fn o v).agenda = s.agenda := rfl
@[simp] theorem State.setVr_cur (fn o : Nat) (v : DWord) : (s.setVr fn o v).cur = s.cur := rfl
@[simp] theorem State.setVr_mem (fn o : Nat) (v : DWord) : (s.setVr fn o v).mem = s.mem := rfl
@[simp] theorem State.setVr_poison (fn o : Nat) (v : DWord) : (s.setVr fn o v).poison = s.poison := rfl
@[simp] theorem State.setVr_dscr (fn o : Nat) (v : DWord) : (s.setVr fn o v).dscr = s.dscr := rfl
@[simp] theorem State.setVr_cores (fn o : Nat) (v : DWord) : (s.setVr fn o v).cores = s.cores := rfl
@[simp] theorem State.setVr_dies (fn o : Nat) (v : DWord) : (s.setVr fn o v).dies = s.dies := rfl
@[simp] theorem State.setVr_slices (fn o : Nat) (v : DWord) : (s.setVr fn o v).slices = s.slices := rfl
@[simp] theorem State.setVr_clsets (fn o : Nat) (v : DWord) : (s.setVr fn o v).clsets = s.clsets := rfl
@[simp] theorem State.setVr_preg (fn o : Nat) (v : DWord) : (s.setVr fn o v).preg = s.preg := rfl
@[simp] theorem State.setVr_vfs (fn o : Nat) (v : DWord) : (s.setVr fn o v).vfs = s.vfs := rfl
@[simp] theorem State.setVr_jobs (fn o : Nat) (v : DWord) : (s.setVr fn o v).jobs = s.jobs := rfl
@[simp] theorem State.setVr_cardOrder (fn o : Nat) (v : DWord) : (s.setVr fn o v).cardOrder = s.cardOrder := rfl
@[simp] theorem State.setVr_parts (fn o : Nat) (v : DWord) : (s.setVr fn o v).parts = s.parts := rfl
@[simp] theorem State.setVr_hostBias (fn o : Nat) (v : DWord) : (s.setVr fn o v).hostBias = s.hostBias := rfl
@[simp] theorem State.setVr_frames (fn o : Nat) (v : DWord) : (s.setVr fn o v).frames = s.frames := rfl
@[simp] theorem State.setVr_ports (fn o : Nat) (v : DWord) : (s.setVr fn o v).ports = s.ports := rfl
@[simp] theorem State.setVr_sys (fn o : Nat) (v : DWord) : (s.setVr fn o v).sys = s.sys := rfl
@[simp] theorem State.setVr_hostRead (fn o : Nat) (v : DWord) : (s.setVr fn o v).hostRead = s.hostRead := rfl
@[simp] theorem State.setVr_snap (fn o : Nat) (v : DWord) : (s.setVr fn o v).snap = s.snap := rfl
@[simp] theorem State.setVr_readAt (fn o : Nat) (v : DWord) : (s.setVr fn o v).readAt = s.readAt := rfl

@[simp] theorem State.setPr_clock (o : Nat) (v : DWord) : (s.setPr o v).clock = s.clock := rfl
@[simp] theorem State.setPr_ref (o : Nat) (v : DWord) : (s.setPr o v).ref = s.ref := rfl
@[simp] theorem State.setPr_fresh (o : Nat) (v : DWord) : (s.setPr o v).fresh = s.fresh := rfl
@[simp] theorem State.setPr_nextId (o : Nat) (v : DWord) : (s.setPr o v).nextId = s.nextId := rfl
@[simp] theorem State.setPr_agenda (o : Nat) (v : DWord) : (s.setPr o v).agenda = s.agenda := rfl
@[simp] theorem State.setPr_cur (o : Nat) (v : DWord) : (s.setPr o v).cur = s.cur := rfl
@[simp] theorem State.setPr_mem (o : Nat) (v : DWord) : (s.setPr o v).mem = s.mem := rfl
@[simp] theorem State.setPr_poison (o : Nat) (v : DWord) : (s.setPr o v).poison = s.poison := rfl
@[simp] theorem State.setPr_dscr (o : Nat) (v : DWord) : (s.setPr o v).dscr = s.dscr := rfl
@[simp] theorem State.setPr_cores (o : Nat) (v : DWord) : (s.setPr o v).cores = s.cores := rfl
@[simp] theorem State.setPr_dies (o : Nat) (v : DWord) : (s.setPr o v).dies = s.dies := rfl
@[simp] theorem State.setPr_slices (o : Nat) (v : DWord) : (s.setPr o v).slices = s.slices := rfl
@[simp] theorem State.setPr_clsets (o : Nat) (v : DWord) : (s.setPr o v).clsets = s.clsets := rfl
@[simp] theorem State.setPr_vreg (o : Nat) (v : DWord) : (s.setPr o v).vreg = s.vreg := rfl
@[simp] theorem State.setPr_vfs (o : Nat) (v : DWord) : (s.setPr o v).vfs = s.vfs := rfl
@[simp] theorem State.setPr_jobs (o : Nat) (v : DWord) : (s.setPr o v).jobs = s.jobs := rfl
@[simp] theorem State.setPr_cardOrder (o : Nat) (v : DWord) : (s.setPr o v).cardOrder = s.cardOrder := rfl
@[simp] theorem State.setPr_parts (o : Nat) (v : DWord) : (s.setPr o v).parts = s.parts := rfl
@[simp] theorem State.setPr_hostBias (o : Nat) (v : DWord) : (s.setPr o v).hostBias = s.hostBias := rfl
@[simp] theorem State.setPr_frames (o : Nat) (v : DWord) : (s.setPr o v).frames = s.frames := rfl
@[simp] theorem State.setPr_ports (o : Nat) (v : DWord) : (s.setPr o v).ports = s.ports := rfl
@[simp] theorem State.setPr_sys (o : Nat) (v : DWord) : (s.setPr o v).sys = s.sys := rfl
@[simp] theorem State.setPr_hostRead (o : Nat) (v : DWord) : (s.setPr o v).hostRead = s.hostRead := rfl
@[simp] theorem State.setPr_snap (o : Nat) (v : DWord) : (s.setPr o v).snap = s.snap := rfl
@[simp] theorem State.setPr_readAt (o : Nat) (v : DWord) : (s.setPr o v).readAt = s.readAt := rfl

@[simp] theorem State.setVf_clock (n : Nat) (v : Vf) : (s.setVf n v).clock = s.clock := rfl
@[simp] theorem State.setVf_ref (n : Nat) (v : Vf) : (s.setVf n v).ref = s.ref := rfl
@[simp] theorem State.setVf_fresh (n : Nat) (v : Vf) : (s.setVf n v).fresh = s.fresh := rfl
@[simp] theorem State.setVf_nextId (n : Nat) (v : Vf) : (s.setVf n v).nextId = s.nextId := rfl
@[simp] theorem State.setVf_agenda (n : Nat) (v : Vf) : (s.setVf n v).agenda = s.agenda := rfl
@[simp] theorem State.setVf_cur (n : Nat) (v : Vf) : (s.setVf n v).cur = s.cur := rfl
@[simp] theorem State.setVf_mem (n : Nat) (v : Vf) : (s.setVf n v).mem = s.mem := rfl
@[simp] theorem State.setVf_poison (n : Nat) (v : Vf) : (s.setVf n v).poison = s.poison := rfl
@[simp] theorem State.setVf_dscr (n : Nat) (v : Vf) : (s.setVf n v).dscr = s.dscr := rfl
@[simp] theorem State.setVf_cores (n : Nat) (v : Vf) : (s.setVf n v).cores = s.cores := rfl
@[simp] theorem State.setVf_dies (n : Nat) (v : Vf) : (s.setVf n v).dies = s.dies := rfl
@[simp] theorem State.setVf_slices (n : Nat) (v : Vf) : (s.setVf n v).slices = s.slices := rfl
@[simp] theorem State.setVf_clsets (n : Nat) (v : Vf) : (s.setVf n v).clsets = s.clsets := rfl
@[simp] theorem State.setVf_vreg (n : Nat) (v : Vf) : (s.setVf n v).vreg = s.vreg := rfl
@[simp] theorem State.setVf_preg (n : Nat) (v : Vf) : (s.setVf n v).preg = s.preg := rfl
@[simp] theorem State.setVf_jobs (n : Nat) (v : Vf) : (s.setVf n v).jobs = s.jobs := rfl
@[simp] theorem State.setVf_cardOrder (n : Nat) (v : Vf) : (s.setVf n v).cardOrder = s.cardOrder := rfl
@[simp] theorem State.setVf_parts (n : Nat) (v : Vf) : (s.setVf n v).parts = s.parts := rfl
@[simp] theorem State.setVf_hostBias (n : Nat) (v : Vf) : (s.setVf n v).hostBias = s.hostBias := rfl
@[simp] theorem State.setVf_frames (n : Nat) (v : Vf) : (s.setVf n v).frames = s.frames := rfl
@[simp] theorem State.setVf_ports (n : Nat) (v : Vf) : (s.setVf n v).ports = s.ports := rfl
@[simp] theorem State.setVf_sys (n : Nat) (v : Vf) : (s.setVf n v).sys = s.sys := rfl
@[simp] theorem State.setVf_hostRead (n : Nat) (v : Vf) : (s.setVf n v).hostRead = s.hostRead := rfl
@[simp] theorem State.setVf_snap (n : Nat) (v : Vf) : (s.setVf n v).snap = s.snap := rfl
@[simp] theorem State.setVf_readAt (n : Nat) (v : Vf) : (s.setVf n v).readAt = s.readAt := rfl

@[simp] theorem State.modVf_clock (n : Nat) (f : Vf → Vf) : (s.modVf n f).clock = s.clock := rfl
@[simp] theorem State.modVf_ref (n : Nat) (f : Vf → Vf) : (s.modVf n f).ref = s.ref := rfl
@[simp] theorem State.modVf_fresh (n : Nat) (f : Vf → Vf) : (s.modVf n f).fresh = s.fresh := rfl
@[simp] theorem State.modVf_nextId (n : Nat) (f : Vf → Vf) : (s.modVf n f).nextId = s.nextId := rfl
@[simp] theorem State.modVf_agenda (n : Nat) (f : Vf → Vf) : (s.modVf n f).agenda = s.agenda := rfl
@[simp] theorem State.modVf_cur (n : Nat) (f : Vf → Vf) : (s.modVf n f).cur = s.cur := rfl
@[simp] theorem State.modVf_mem (n : Nat) (f : Vf → Vf) : (s.modVf n f).mem = s.mem := rfl
@[simp] theorem State.modVf_poison (n : Nat) (f : Vf → Vf) : (s.modVf n f).poison = s.poison := rfl
@[simp] theorem State.modVf_dscr (n : Nat) (f : Vf → Vf) : (s.modVf n f).dscr = s.dscr := rfl
@[simp] theorem State.modVf_cores (n : Nat) (f : Vf → Vf) : (s.modVf n f).cores = s.cores := rfl
@[simp] theorem State.modVf_dies (n : Nat) (f : Vf → Vf) : (s.modVf n f).dies = s.dies := rfl
@[simp] theorem State.modVf_slices (n : Nat) (f : Vf → Vf) : (s.modVf n f).slices = s.slices := rfl
@[simp] theorem State.modVf_clsets (n : Nat) (f : Vf → Vf) : (s.modVf n f).clsets = s.clsets := rfl
@[simp] theorem State.modVf_vreg (n : Nat) (f : Vf → Vf) : (s.modVf n f).vreg = s.vreg := rfl
@[simp] theorem State.modVf_preg (n : Nat) (f : Vf → Vf) : (s.modVf n f).preg = s.preg := rfl
@[simp] theorem State.modVf_jobs (n : Nat) (f : Vf → Vf) : (s.modVf n f).jobs = s.jobs := rfl
@[simp] theorem State.modVf_cardOrder (n : Nat) (f : Vf → Vf) : (s.modVf n f).cardOrder = s.cardOrder := rfl
@[simp] theorem State.modVf_parts (n : Nat) (f : Vf → Vf) : (s.modVf n f).parts = s.parts := rfl
@[simp] theorem State.modVf_hostBias (n : Nat) (f : Vf → Vf) : (s.modVf n f).hostBias = s.hostBias := rfl
@[simp] theorem State.modVf_frames (n : Nat) (f : Vf → Vf) : (s.modVf n f).frames = s.frames := rfl
@[simp] theorem State.modVf_ports (n : Nat) (f : Vf → Vf) : (s.modVf n f).ports = s.ports := rfl
@[simp] theorem State.modVf_sys (n : Nat) (f : Vf → Vf) : (s.modVf n f).sys = s.sys := rfl
@[simp] theorem State.modVf_hostRead (n : Nat) (f : Vf → Vf) : (s.modVf n f).hostRead = s.hostRead := rfl
@[simp] theorem State.modVf_snap (n : Nat) (f : Vf → Vf) : (s.modVf n f).snap = s.snap := rfl
@[simp] theorem State.modVf_readAt (n : Nat) (f : Vf → Vf) : (s.modVf n f).readAt = s.readAt := rfl

@[simp] theorem State.setPart_clock (n : Nat) (v : Part) : (s.setPart n v).clock = s.clock := rfl
@[simp] theorem State.setPart_ref (n : Nat) (v : Part) : (s.setPart n v).ref = s.ref := rfl
@[simp] theorem State.setPart_fresh (n : Nat) (v : Part) : (s.setPart n v).fresh = s.fresh := rfl
@[simp] theorem State.setPart_nextId (n : Nat) (v : Part) : (s.setPart n v).nextId = s.nextId := rfl
@[simp] theorem State.setPart_agenda (n : Nat) (v : Part) : (s.setPart n v).agenda = s.agenda := rfl
@[simp] theorem State.setPart_cur (n : Nat) (v : Part) : (s.setPart n v).cur = s.cur := rfl
@[simp] theorem State.setPart_mem (n : Nat) (v : Part) : (s.setPart n v).mem = s.mem := rfl
@[simp] theorem State.setPart_poison (n : Nat) (v : Part) : (s.setPart n v).poison = s.poison := rfl
@[simp] theorem State.setPart_dscr (n : Nat) (v : Part) : (s.setPart n v).dscr = s.dscr := rfl
@[simp] theorem State.setPart_cores (n : Nat) (v : Part) : (s.setPart n v).cores = s.cores := rfl
@[simp] theorem State.setPart_dies (n : Nat) (v : Part) : (s.setPart n v).dies = s.dies := rfl
@[simp] theorem State.setPart_slices (n : Nat) (v : Part) : (s.setPart n v).slices = s.slices := rfl
@[simp] theorem State.setPart_clsets (n : Nat) (v : Part) : (s.setPart n v).clsets = s.clsets := rfl
@[simp] theorem State.setPart_vreg (n : Nat) (v : Part) : (s.setPart n v).vreg = s.vreg := rfl
@[simp] theorem State.setPart_preg (n : Nat) (v : Part) : (s.setPart n v).preg = s.preg := rfl
@[simp] theorem State.setPart_vfs (n : Nat) (v : Part) : (s.setPart n v).vfs = s.vfs := rfl
@[simp] theorem State.setPart_jobs (n : Nat) (v : Part) : (s.setPart n v).jobs = s.jobs := rfl
@[simp] theorem State.setPart_cardOrder (n : Nat) (v : Part) : (s.setPart n v).cardOrder = s.cardOrder := rfl
@[simp] theorem State.setPart_hostBias (n : Nat) (v : Part) : (s.setPart n v).hostBias = s.hostBias := rfl
@[simp] theorem State.setPart_frames (n : Nat) (v : Part) : (s.setPart n v).frames = s.frames := rfl
@[simp] theorem State.setPart_ports (n : Nat) (v : Part) : (s.setPart n v).ports = s.ports := rfl
@[simp] theorem State.setPart_sys (n : Nat) (v : Part) : (s.setPart n v).sys = s.sys := rfl
@[simp] theorem State.setPart_hostRead (n : Nat) (v : Part) : (s.setPart n v).hostRead = s.hostRead := rfl
@[simp] theorem State.setPart_snap (n : Nat) (v : Part) : (s.setPart n v).snap = s.snap := rfl
@[simp] theorem State.setPart_readAt (n : Nat) (v : Part) : (s.setPart n v).readAt = s.readAt := rfl

@[simp] theorem State.setSlice_clock (n : Nat) (v : Slice) : (s.setSlice n v).clock = s.clock := rfl
@[simp] theorem State.setSlice_ref (n : Nat) (v : Slice) : (s.setSlice n v).ref = s.ref := rfl
@[simp] theorem State.setSlice_fresh (n : Nat) (v : Slice) : (s.setSlice n v).fresh = s.fresh := rfl
@[simp] theorem State.setSlice_nextId (n : Nat) (v : Slice) : (s.setSlice n v).nextId = s.nextId := rfl
@[simp] theorem State.setSlice_agenda (n : Nat) (v : Slice) : (s.setSlice n v).agenda = s.agenda := rfl
@[simp] theorem State.setSlice_cur (n : Nat) (v : Slice) : (s.setSlice n v).cur = s.cur := rfl
@[simp] theorem State.setSlice_mem (n : Nat) (v : Slice) : (s.setSlice n v).mem = s.mem := rfl
@[simp] theorem State.setSlice_poison (n : Nat) (v : Slice) : (s.setSlice n v).poison = s.poison := rfl
@[simp] theorem State.setSlice_dscr (n : Nat) (v : Slice) : (s.setSlice n v).dscr = s.dscr := rfl
@[simp] theorem State.setSlice_cores (n : Nat) (v : Slice) : (s.setSlice n v).cores = s.cores := rfl
@[simp] theorem State.setSlice_dies (n : Nat) (v : Slice) : (s.setSlice n v).dies = s.dies := rfl
@[simp] theorem State.setSlice_clsets (n : Nat) (v : Slice) : (s.setSlice n v).clsets = s.clsets := rfl
@[simp] theorem State.setSlice_vreg (n : Nat) (v : Slice) : (s.setSlice n v).vreg = s.vreg := rfl
@[simp] theorem State.setSlice_preg (n : Nat) (v : Slice) : (s.setSlice n v).preg = s.preg := rfl
@[simp] theorem State.setSlice_vfs (n : Nat) (v : Slice) : (s.setSlice n v).vfs = s.vfs := rfl
@[simp] theorem State.setSlice_jobs (n : Nat) (v : Slice) : (s.setSlice n v).jobs = s.jobs := rfl
@[simp] theorem State.setSlice_cardOrder (n : Nat) (v : Slice) : (s.setSlice n v).cardOrder = s.cardOrder := rfl
@[simp] theorem State.setSlice_parts (n : Nat) (v : Slice) : (s.setSlice n v).parts = s.parts := rfl
@[simp] theorem State.setSlice_hostBias (n : Nat) (v : Slice) : (s.setSlice n v).hostBias = s.hostBias := rfl
@[simp] theorem State.setSlice_frames (n : Nat) (v : Slice) : (s.setSlice n v).frames = s.frames := rfl
@[simp] theorem State.setSlice_ports (n : Nat) (v : Slice) : (s.setSlice n v).ports = s.ports := rfl
@[simp] theorem State.setSlice_sys (n : Nat) (v : Slice) : (s.setSlice n v).sys = s.sys := rfl
@[simp] theorem State.setSlice_hostRead (n : Nat) (v : Slice) : (s.setSlice n v).hostRead = s.hostRead := rfl
@[simp] theorem State.setSlice_snap (n : Nat) (v : Slice) : (s.setSlice n v).snap = s.snap := rfl
@[simp] theorem State.setSlice_readAt (n : Nat) (v : Slice) : (s.setSlice n v).readAt = s.readAt := rfl

@[simp] theorem State.setJob_clock (n : Nat) (v : Job) : (s.setJob n v).clock = s.clock := rfl
@[simp] theorem State.setJob_ref (n : Nat) (v : Job) : (s.setJob n v).ref = s.ref := rfl
@[simp] theorem State.setJob_fresh (n : Nat) (v : Job) : (s.setJob n v).fresh = s.fresh := rfl
@[simp] theorem State.setJob_nextId (n : Nat) (v : Job) : (s.setJob n v).nextId = s.nextId := rfl
@[simp] theorem State.setJob_agenda (n : Nat) (v : Job) : (s.setJob n v).agenda = s.agenda := rfl
@[simp] theorem State.setJob_cur (n : Nat) (v : Job) : (s.setJob n v).cur = s.cur := rfl
@[simp] theorem State.setJob_mem (n : Nat) (v : Job) : (s.setJob n v).mem = s.mem := rfl
@[simp] theorem State.setJob_poison (n : Nat) (v : Job) : (s.setJob n v).poison = s.poison := rfl
@[simp] theorem State.setJob_dscr (n : Nat) (v : Job) : (s.setJob n v).dscr = s.dscr := rfl
@[simp] theorem State.setJob_cores (n : Nat) (v : Job) : (s.setJob n v).cores = s.cores := rfl
@[simp] theorem State.setJob_dies (n : Nat) (v : Job) : (s.setJob n v).dies = s.dies := rfl
@[simp] theorem State.setJob_slices (n : Nat) (v : Job) : (s.setJob n v).slices = s.slices := rfl
@[simp] theorem State.setJob_clsets (n : Nat) (v : Job) : (s.setJob n v).clsets = s.clsets := rfl
@[simp] theorem State.setJob_vreg (n : Nat) (v : Job) : (s.setJob n v).vreg = s.vreg := rfl
@[simp] theorem State.setJob_preg (n : Nat) (v : Job) : (s.setJob n v).preg = s.preg := rfl
@[simp] theorem State.setJob_vfs (n : Nat) (v : Job) : (s.setJob n v).vfs = s.vfs := rfl
@[simp] theorem State.setJob_cardOrder (n : Nat) (v : Job) : (s.setJob n v).cardOrder = s.cardOrder := rfl
@[simp] theorem State.setJob_parts (n : Nat) (v : Job) : (s.setJob n v).parts = s.parts := rfl
@[simp] theorem State.setJob_hostBias (n : Nat) (v : Job) : (s.setJob n v).hostBias = s.hostBias := rfl
@[simp] theorem State.setJob_frames (n : Nat) (v : Job) : (s.setJob n v).frames = s.frames := rfl
@[simp] theorem State.setJob_ports (n : Nat) (v : Job) : (s.setJob n v).ports = s.ports := rfl
@[simp] theorem State.setJob_sys (n : Nat) (v : Job) : (s.setJob n v).sys = s.sys := rfl
@[simp] theorem State.setJob_hostRead (n : Nat) (v : Job) : (s.setJob n v).hostRead = s.hostRead := rfl
@[simp] theorem State.setJob_snap (n : Nat) (v : Job) : (s.setJob n v).snap = s.snap := rfl
@[simp] theorem State.setJob_readAt (n : Nat) (v : Job) : (s.setJob n v).readAt = s.readAt := rfl

@[simp] theorem State.modJob_clock (n : Nat) (f : Job → Job) : (s.modJob n f).clock = s.clock := by unfold State.modJob; split <;> rfl
@[simp] theorem State.modJob_ref (n : Nat) (f : Job → Job) : (s.modJob n f).ref = s.ref := by unfold State.modJob; split <;> rfl
@[simp] theorem State.modJob_fresh (n : Nat) (f : Job → Job) : (s.modJob n f).fresh = s.fresh := by unfold State.modJob; split <;> rfl
@[simp] theorem State.modJob_nextId (n : Nat) (f : Job → Job) : (s.modJob n f).nextId = s.nextId := by unfold State.modJob; split <;> rfl
@[simp] theorem State.modJob_agenda (n : Nat) (f : Job → Job) : (s.modJob n f).agenda = s.agenda := by unfold State.modJob; split <;> rfl
@[simp] theorem State.modJob_cur (n : Nat) (f : Job → Job) : (s.modJob n f).cur = s.cur := by unfold State.modJob; split <;> rfl
@[simp] theorem State.modJob_mem (n : Nat) (f : Job → Job) : (s.modJob n f).mem = s.mem := by unfold State.modJob; split <;> rfl
@[simp] theorem State.modJob_poison (n : Nat) (f : Job → Job) : (s.modJob n f).poison = s.poison := by unfold State.modJob; split <;> rfl
@[simp] theorem State.modJob_dscr (n : Nat) (f : Job → Job) : (s.modJob n f).dscr = s.dscr := by unfold State.modJob; split <;> rfl
@[simp] theorem State.modJob_cores (n : Nat) (f : Job → Job) : (s.modJob n f).cores = s.cores := by unfold State.modJob; split <;> rfl
@[simp] theorem State.modJob_dies (n : Nat) (f : Job → Job) : (s.modJob n f).dies = s.dies := by unfold State.modJob; split <;> rfl
@[simp] theorem State.modJob_slices (n : Nat) (f : Job → Job) : (s.modJob n f).slices = s.slices := by unfold State.modJob; split <;> rfl
@[simp] theorem State.modJob_clsets (n : Nat) (f : Job → Job) : (s.modJob n f).clsets = s.clsets := by unfold State.modJob; split <;> rfl
@[simp] theorem State.modJob_vreg (n : Nat) (f : Job → Job) : (s.modJob n f).vreg = s.vreg := by unfold State.modJob; split <;> rfl
@[simp] theorem State.modJob_preg (n : Nat) (f : Job → Job) : (s.modJob n f).preg = s.preg := by unfold State.modJob; split <;> rfl
@[simp] theorem State.modJob_vfs (n : Nat) (f : Job → Job) : (s.modJob n f).vfs = s.vfs := by unfold State.modJob; split <;> rfl
@[simp] theorem State.modJob_cardOrder (n : Nat) (f : Job → Job) : (s.modJob n f).cardOrder = s.cardOrder := by unfold State.modJob; split <;> rfl
@[simp] theorem State.modJob_parts (n : Nat) (f : Job → Job) : (s.modJob n f).parts = s.parts := by unfold State.modJob; split <;> rfl
@[simp] theorem State.modJob_hostBias (n : Nat) (f : Job → Job) : (s.modJob n f).hostBias = s.hostBias := by unfold State.modJob; split <;> rfl
@[simp] theorem State.modJob_frames (n : Nat) (f : Job → Job) : (s.modJob n f).frames = s.frames := by unfold State.modJob; split <;> rfl
@[simp] theorem State.modJob_ports (n : Nat) (f : Job → Job) : (s.modJob n f).ports = s.ports := by unfold State.modJob; split <;> rfl
@[simp] theorem State.modJob_sys (n : Nat) (f : Job → Job) : (s.modJob n f).sys = s.sys := by unfold State.modJob; split <;> rfl
@[simp] theorem State.modJob_hostRead (n : Nat) (f : Job → Job) : (s.modJob n f).hostRead = s.hostRead := by unfold State.modJob; split <;> rfl
@[simp] theorem State.modJob_snap (n : Nat) (f : Job → Job) : (s.modJob n f).snap = s.snap := by unfold State.modJob; split <;> rfl
@[simp] theorem State.modJob_readAt (n : Nat) (f : Job → Job) : (s.modJob n f).readAt = s.readAt := by unfold State.modJob; split <;> rfl

@[simp] theorem State.newId_clock : (s.newId.2).clock = s.clock := rfl
@[simp] theorem State.newId_ref : (s.newId.2).ref = s.ref := rfl
@[simp] theorem State.newId_fresh : (s.newId.2).fresh = s.fresh := rfl
@[simp] theorem State.newId_agenda : (s.newId.2).agenda = s.agenda := rfl
@[simp] theorem State.newId_cur : (s.newId.2).cur = s.cur := rfl
@[simp] theorem State.newId_mem : (s.newId.2).mem = s.mem := rfl
@[simp] theorem State.newId_poison : (s.newId.2).poison = s.poison := rfl
@[simp] theorem State.newId_dscr : (s.newId.2).dscr = s.dscr := rfl
@[simp] theorem State.newId_cores : (s.newId.2).cores = s.cores := rfl
@[simp] theorem State.newId_dies : (s.newId.2).dies = s.dies := rfl
@[simp] theorem State.newId_slices : (s.newId.2).slices = s.slices := rfl
@[simp] theorem State.newId_clsets : (s.newId.2).clsets = s.clsets := rfl
@[simp] theorem State.newId_vreg : (s.newId.2).vreg = s.vreg := rfl
@[simp] theorem State.newId_preg : (s.newId.2).preg = s.preg := rfl
@[simp] theorem State.newId_vfs : (s.newId.2).vfs = s.vfs := rfl
@[simp] theorem State.newId_jobs : (s.newId.2).jobs = s.jobs := rfl
@[simp] theorem State.newId_cardOrder : (s.newId.2).cardOrder = s.cardOrder := rfl
@[simp] theorem State.newId_parts : (s.newId.2).parts = s.parts := rfl
@[simp] theorem State.newId_hostBias : (s.newId.2).hostBias = s.hostBias := rfl
@[simp] theorem State.newId_frames : (s.newId.2).frames = s.frames := rfl
@[simp] theorem State.newId_ports : (s.newId.2).ports = s.ports := rfl
@[simp] theorem State.newId_sys : (s.newId.2).sys = s.sys := rfl
@[simp] theorem State.newId_hostRead : (s.newId.2).hostRead = s.hostRead := rfl
@[simp] theorem State.newId_snap : (s.newId.2).snap = s.snap := rfl
@[simp] theorem State.newId_readAt : (s.newId.2).readAt = s.readAt := rfl

@[simp] theorem State.free_clock : (s.free.2).clock = s.clock := rfl
@[simp] theorem State.free_ref : (s.free.2).ref = s.ref := rfl
@[simp] theorem State.free_nextId : (s.free.2).nextId = s.nextId := rfl
@[simp] theorem State.free_agenda : (s.free.2).agenda = s.agenda := rfl
@[simp] theorem State.free_cur : (s.free.2).cur = s.cur := rfl
@[simp] theorem State.free_mem : (s.free.2).mem = s.mem := rfl
@[simp] theorem State.free_poison : (s.free.2).poison = s.poison := rfl
@[simp] theorem State.free_dscr : (s.free.2).dscr = s.dscr := rfl
@[simp] theorem State.free_cores : (s.free.2).cores = s.cores := rfl
@[simp] theorem State.free_dies : (s.free.2).dies = s.dies := rfl
@[simp] theorem State.free_slices : (s.free.2).slices = s.slices := rfl
@[simp] theorem State.free_clsets : (s.free.2).clsets = s.clsets := rfl
@[simp] theorem State.free_vreg : (s.free.2).vreg = s.vreg := rfl
@[simp] theorem State.free_preg : (s.free.2).preg = s.preg := rfl
@[simp] theorem State.free_vfs : (s.free.2).vfs = s.vfs := rfl
@[simp] theorem State.free_jobs : (s.free.2).jobs = s.jobs := rfl
@[simp] theorem State.free_cardOrder : (s.free.2).cardOrder = s.cardOrder := rfl
@[simp] theorem State.free_parts : (s.free.2).parts = s.parts := rfl
@[simp] theorem State.free_hostBias : (s.free.2).hostBias = s.hostBias := rfl
@[simp] theorem State.free_frames : (s.free.2).frames = s.frames := rfl
@[simp] theorem State.free_ports : (s.free.2).ports = s.ports := rfl
@[simp] theorem State.free_sys : (s.free.2).sys = s.sys := rfl
@[simp] theorem State.free_hostRead : (s.free.2).hostRead = s.hostRead := rfl
@[simp] theorem State.free_snap : (s.free.2).snap = s.snap := rfl
@[simp] theorem State.free_readAt : (s.free.2).readAt = s.readAt := rfl

@[simp] theorem State.setCore_clock (n : Nat) (v : Core) : (s.setCore n v).clock = s.clock := by unfold State.setCore; split <;> rfl
@[simp] theorem State.setCore_ref (n : Nat) (v : Core) : (s.setCore n v).ref = s.ref := by unfold State.setCore; split <;> rfl
@[simp] theorem State.setCore_fresh (n : Nat) (v : Core) : (s.setCore n v).fresh = s.fresh := by unfold State.setCore; split <;> rfl
@[simp] theorem State.setCore_nextId (n : Nat) (v : Core) : (s.setCore n v).nextId = s.nextId := by unfold State.setCore; split <;> rfl
@[simp] theorem State.setCore_agenda (n : Nat) (v : Core) : (s.setCore n v).agenda = s.agenda := by unfold State.setCore; split <;> rfl
@[simp] theorem State.setCore_cur (n : Nat) (v : Core) : (s.setCore n v).cur = s.cur := by unfold State.setCore; split <;> rfl
@[simp] theorem State.setCore_mem (n : Nat) (v : Core) : (s.setCore n v).mem = s.mem := by unfold State.setCore; split <;> rfl
@[simp] theorem State.setCore_poison (n : Nat) (v : Core) : (s.setCore n v).poison = s.poison := by unfold State.setCore; split <;> rfl
@[simp] theorem State.setCore_dscr (n : Nat) (v : Core) : (s.setCore n v).dscr = s.dscr := by unfold State.setCore; split <;> rfl
@[simp] theorem State.setCore_dies (n : Nat) (v : Core) : (s.setCore n v).dies = s.dies := by unfold State.setCore; split <;> rfl
@[simp] theorem State.setCore_slices (n : Nat) (v : Core) : (s.setCore n v).slices = s.slices := by unfold State.setCore; split <;> rfl
@[simp] theorem State.setCore_clsets (n : Nat) (v : Core) : (s.setCore n v).clsets = s.clsets := by unfold State.setCore; split <;> rfl
@[simp] theorem State.setCore_vreg (n : Nat) (v : Core) : (s.setCore n v).vreg = s.vreg := by unfold State.setCore; split <;> rfl
@[simp] theorem State.setCore_preg (n : Nat) (v : Core) : (s.setCore n v).preg = s.preg := by unfold State.setCore; split <;> rfl
@[simp] theorem State.setCore_vfs (n : Nat) (v : Core) : (s.setCore n v).vfs = s.vfs := by unfold State.setCore; split <;> rfl
@[simp] theorem State.setCore_jobs (n : Nat) (v : Core) : (s.setCore n v).jobs = s.jobs := by unfold State.setCore; split <;> rfl
@[simp] theorem State.setCore_cardOrder (n : Nat) (v : Core) : (s.setCore n v).cardOrder = s.cardOrder := by unfold State.setCore; split <;> rfl
@[simp] theorem State.setCore_parts (n : Nat) (v : Core) : (s.setCore n v).parts = s.parts := by unfold State.setCore; split <;> rfl
@[simp] theorem State.setCore_hostBias (n : Nat) (v : Core) : (s.setCore n v).hostBias = s.hostBias := by unfold State.setCore; split <;> rfl
@[simp] theorem State.setCore_frames (n : Nat) (v : Core) : (s.setCore n v).frames = s.frames := by unfold State.setCore; split <;> rfl
@[simp] theorem State.setCore_ports (n : Nat) (v : Core) : (s.setCore n v).ports = s.ports := by unfold State.setCore; split <;> rfl
@[simp] theorem State.setCore_sys (n : Nat) (v : Core) : (s.setCore n v).sys = s.sys := by unfold State.setCore; split <;> rfl
@[simp] theorem State.setCore_hostRead (n : Nat) (v : Core) : (s.setCore n v).hostRead = s.hostRead := by unfold State.setCore; split <;> rfl
@[simp] theorem State.setCore_snap (n : Nat) (v : Core) : (s.setCore n v).snap = s.snap := by unfold State.setCore; split <;> rfl
@[simp] theorem State.setCore_readAt (n : Nat) (v : Core) : (s.setCore n v).readAt = s.readAt := by unfold State.setCore; split <;> rfl

@[simp] theorem State.modCore_clock (n : Nat) (f : Core → Core) : (s.modCore n f).clock = s.clock := by simp [State.modCore]
@[simp] theorem State.modCore_ref (n : Nat) (f : Core → Core) : (s.modCore n f).ref = s.ref := by simp [State.modCore]
@[simp] theorem State.modCore_fresh (n : Nat) (f : Core → Core) : (s.modCore n f).fresh = s.fresh := by simp [State.modCore]
@[simp] theorem State.modCore_nextId (n : Nat) (f : Core → Core) : (s.modCore n f).nextId = s.nextId := by simp [State.modCore]
@[simp] theorem State.modCore_agenda (n : Nat) (f : Core → Core) : (s.modCore n f).agenda = s.agenda := by simp [State.modCore]
@[simp] theorem State.modCore_cur (n : Nat) (f : Core → Core) : (s.modCore n f).cur = s.cur := by simp [State.modCore]
@[simp] theorem State.modCore_mem (n : Nat) (f : Core → Core) : (s.modCore n f).mem = s.mem := by simp [State.modCore]
@[simp] theorem State.modCore_poison (n : Nat) (f : Core → Core) : (s.modCore n f).poison = s.poison := by simp [State.modCore]
@[simp] theorem State.modCore_dscr (n : Nat) (f : Core → Core) : (s.modCore n f).dscr = s.dscr := by simp [State.modCore]
@[simp] theorem State.modCore_dies (n : Nat) (f : Core → Core) : (s.modCore n f).dies = s.dies := by simp [State.modCore]
@[simp] theorem State.modCore_slices (n : Nat) (f : Core → Core) : (s.modCore n f).slices = s.slices := by simp [State.modCore]
@[simp] theorem State.modCore_clsets (n : Nat) (f : Core → Core) : (s.modCore n f).clsets = s.clsets := by simp [State.modCore]
@[simp] theorem State.modCore_vreg (n : Nat) (f : Core → Core) : (s.modCore n f).vreg = s.vreg := by simp [State.modCore]
@[simp] theorem State.modCore_preg (n : Nat) (f : Core → Core) : (s.modCore n f).preg = s.preg := by simp [State.modCore]
@[simp] theorem State.modCore_vfs (n : Nat) (f : Core → Core) : (s.modCore n f).vfs = s.vfs := by simp [State.modCore]
@[simp] theorem State.modCore_jobs (n : Nat) (f : Core → Core) : (s.modCore n f).jobs = s.jobs := by simp [State.modCore]
@[simp] theorem State.modCore_cardOrder (n : Nat) (f : Core → Core) : (s.modCore n f).cardOrder = s.cardOrder := by simp [State.modCore]
@[simp] theorem State.modCore_parts (n : Nat) (f : Core → Core) : (s.modCore n f).parts = s.parts := by simp [State.modCore]
@[simp] theorem State.modCore_hostBias (n : Nat) (f : Core → Core) : (s.modCore n f).hostBias = s.hostBias := by simp [State.modCore]
@[simp] theorem State.modCore_frames (n : Nat) (f : Core → Core) : (s.modCore n f).frames = s.frames := by simp [State.modCore]
@[simp] theorem State.modCore_ports (n : Nat) (f : Core → Core) : (s.modCore n f).ports = s.ports := by simp [State.modCore]
@[simp] theorem State.modCore_sys (n : Nat) (f : Core → Core) : (s.modCore n f).sys = s.sys := by simp [State.modCore]
@[simp] theorem State.modCore_hostRead (n : Nat) (f : Core → Core) : (s.modCore n f).hostRead = s.hostRead := by simp [State.modCore]
@[simp] theorem State.modCore_snap (n : Nat) (f : Core → Core) : (s.modCore n f).snap = s.snap := by simp [State.modCore]
@[simp] theorem State.modCore_readAt (n : Nat) (f : Core → Core) : (s.modCore n f).readAt = s.readAt := by simp [State.modCore]

@[simp] theorem State.setDie_clock (n : Nat) (v : Die) : (s.setDie n v).clock = s.clock := by unfold State.setDie; split <;> rfl
@[simp] theorem State.setDie_ref (n : Nat) (v : Die) : (s.setDie n v).ref = s.ref := by unfold State.setDie; split <;> rfl
@[simp] theorem State.setDie_fresh (n : Nat) (v : Die) : (s.setDie n v).fresh = s.fresh := by unfold State.setDie; split <;> rfl
@[simp] theorem State.setDie_nextId (n : Nat) (v : Die) : (s.setDie n v).nextId = s.nextId := by unfold State.setDie; split <;> rfl
@[simp] theorem State.setDie_agenda (n : Nat) (v : Die) : (s.setDie n v).agenda = s.agenda := by unfold State.setDie; split <;> rfl
@[simp] theorem State.setDie_cur (n : Nat) (v : Die) : (s.setDie n v).cur = s.cur := by unfold State.setDie; split <;> rfl
@[simp] theorem State.setDie_mem (n : Nat) (v : Die) : (s.setDie n v).mem = s.mem := by unfold State.setDie; split <;> rfl
@[simp] theorem State.setDie_poison (n : Nat) (v : Die) : (s.setDie n v).poison = s.poison := by unfold State.setDie; split <;> rfl
@[simp] theorem State.setDie_dscr (n : Nat) (v : Die) : (s.setDie n v).dscr = s.dscr := by unfold State.setDie; split <;> rfl
@[simp] theorem State.setDie_cores (n : Nat) (v : Die) : (s.setDie n v).cores = s.cores := by unfold State.setDie; split <;> rfl
@[simp] theorem State.setDie_slices (n : Nat) (v : Die) : (s.setDie n v).slices = s.slices := by unfold State.setDie; split <;> rfl
@[simp] theorem State.setDie_clsets (n : Nat) (v : Die) : (s.setDie n v).clsets = s.clsets := by unfold State.setDie; split <;> rfl
@[simp] theorem State.setDie_vreg (n : Nat) (v : Die) : (s.setDie n v).vreg = s.vreg := by unfold State.setDie; split <;> rfl
@[simp] theorem State.setDie_preg (n : Nat) (v : Die) : (s.setDie n v).preg = s.preg := by unfold State.setDie; split <;> rfl
@[simp] theorem State.setDie_vfs (n : Nat) (v : Die) : (s.setDie n v).vfs = s.vfs := by unfold State.setDie; split <;> rfl
@[simp] theorem State.setDie_jobs (n : Nat) (v : Die) : (s.setDie n v).jobs = s.jobs := by unfold State.setDie; split <;> rfl
@[simp] theorem State.setDie_cardOrder (n : Nat) (v : Die) : (s.setDie n v).cardOrder = s.cardOrder := by unfold State.setDie; split <;> rfl
@[simp] theorem State.setDie_parts (n : Nat) (v : Die) : (s.setDie n v).parts = s.parts := by unfold State.setDie; split <;> rfl
@[simp] theorem State.setDie_hostBias (n : Nat) (v : Die) : (s.setDie n v).hostBias = s.hostBias := by unfold State.setDie; split <;> rfl
@[simp] theorem State.setDie_frames (n : Nat) (v : Die) : (s.setDie n v).frames = s.frames := by unfold State.setDie; split <;> rfl
@[simp] theorem State.setDie_ports (n : Nat) (v : Die) : (s.setDie n v).ports = s.ports := by unfold State.setDie; split <;> rfl
@[simp] theorem State.setDie_sys (n : Nat) (v : Die) : (s.setDie n v).sys = s.sys := by unfold State.setDie; split <;> rfl
@[simp] theorem State.setDie_hostRead (n : Nat) (v : Die) : (s.setDie n v).hostRead = s.hostRead := by unfold State.setDie; split <;> rfl
@[simp] theorem State.setDie_snap (n : Nat) (v : Die) : (s.setDie n v).snap = s.snap := by unfold State.setDie; split <;> rfl
@[simp] theorem State.setDie_readAt (n : Nat) (v : Die) : (s.setDie n v).readAt = s.readAt := by unfold State.setDie; split <;> rfl

@[simp] theorem State.modDie_clock (n : Nat) (f : Die → Die) : (s.modDie n f).clock = s.clock := by simp [State.modDie]
@[simp] theorem State.modDie_ref (n : Nat) (f : Die → Die) : (s.modDie n f).ref = s.ref := by simp [State.modDie]
@[simp] theorem State.modDie_fresh (n : Nat) (f : Die → Die) : (s.modDie n f).fresh = s.fresh := by simp [State.modDie]
@[simp] theorem State.modDie_nextId (n : Nat) (f : Die → Die) : (s.modDie n f).nextId = s.nextId := by simp [State.modDie]
@[simp] theorem State.modDie_agenda (n : Nat) (f : Die → Die) : (s.modDie n f).agenda = s.agenda := by simp [State.modDie]
@[simp] theorem State.modDie_cur (n : Nat) (f : Die → Die) : (s.modDie n f).cur = s.cur := by simp [State.modDie]
@[simp] theorem State.modDie_mem (n : Nat) (f : Die → Die) : (s.modDie n f).mem = s.mem := by simp [State.modDie]
@[simp] theorem State.modDie_poison (n : Nat) (f : Die → Die) : (s.modDie n f).poison = s.poison := by simp [State.modDie]
@[simp] theorem State.modDie_dscr (n : Nat) (f : Die → Die) : (s.modDie n f).dscr = s.dscr := by simp [State.modDie]
@[simp] theorem State.modDie_cores (n : Nat) (f : Die → Die) : (s.modDie n f).cores = s.cores := by simp [State.modDie]
@[simp] theorem State.modDie_slices (n : Nat) (f : Die → Die) : (s.modDie n f).slices = s.slices := by simp [State.modDie]
@[simp] theorem State.modDie_clsets (n : Nat) (f : Die → Die) : (s.modDie n f).clsets = s.clsets := by simp [State.modDie]
@[simp] theorem State.modDie_vreg (n : Nat) (f : Die → Die) : (s.modDie n f).vreg = s.vreg := by simp [State.modDie]
@[simp] theorem State.modDie_preg (n : Nat) (f : Die → Die) : (s.modDie n f).preg = s.preg := by simp [State.modDie]
@[simp] theorem State.modDie_vfs (n : Nat) (f : Die → Die) : (s.modDie n f).vfs = s.vfs := by simp [State.modDie]
@[simp] theorem State.modDie_jobs (n : Nat) (f : Die → Die) : (s.modDie n f).jobs = s.jobs := by simp [State.modDie]
@[simp] theorem State.modDie_cardOrder (n : Nat) (f : Die → Die) : (s.modDie n f).cardOrder = s.cardOrder := by simp [State.modDie]
@[simp] theorem State.modDie_parts (n : Nat) (f : Die → Die) : (s.modDie n f).parts = s.parts := by simp [State.modDie]
@[simp] theorem State.modDie_hostBias (n : Nat) (f : Die → Die) : (s.modDie n f).hostBias = s.hostBias := by simp [State.modDie]
@[simp] theorem State.modDie_frames (n : Nat) (f : Die → Die) : (s.modDie n f).frames = s.frames := by simp [State.modDie]
@[simp] theorem State.modDie_ports (n : Nat) (f : Die → Die) : (s.modDie n f).ports = s.ports := by simp [State.modDie]
@[simp] theorem State.modDie_sys (n : Nat) (f : Die → Die) : (s.modDie n f).sys = s.sys := by simp [State.modDie]
@[simp] theorem State.modDie_hostRead (n : Nat) (f : Die → Die) : (s.modDie n f).hostRead = s.hostRead := by simp [State.modDie]
@[simp] theorem State.modDie_snap (n : Nat) (f : Die → Die) : (s.modDie n f).snap = s.snap := by simp [State.modDie]
@[simp] theorem State.modDie_readAt (n : Nat) (f : Die → Die) : (s.modDie n f).readAt = s.readAt := by simp [State.modDie]

@[simp] theorem State.setGroup_clock (n m : Nat) (v : Group) : (s.setGroup n m v).clock = s.clock := by simp [State.setGroup]
@[simp] theorem State.setGroup_ref (n m : Nat) (v : Group) : (s.setGroup n m v).ref = s.ref := by simp [State.setGroup]
@[simp] theorem State.setGroup_fresh (n m : Nat) (v : Group) : (s.setGroup n m v).fresh = s.fresh := by simp [State.setGroup]
@[simp] theorem State.setGroup_nextId (n m : Nat) (v : Group) : (s.setGroup n m v).nextId = s.nextId := by simp [State.setGroup]
@[simp] theorem State.setGroup_agenda (n m : Nat) (v : Group) : (s.setGroup n m v).agenda = s.agenda := by simp [State.setGroup]
@[simp] theorem State.setGroup_cur (n m : Nat) (v : Group) : (s.setGroup n m v).cur = s.cur := by simp [State.setGroup]
@[simp] theorem State.setGroup_mem (n m : Nat) (v : Group) : (s.setGroup n m v).mem = s.mem := by simp [State.setGroup]
@[simp] theorem State.setGroup_poison (n m : Nat) (v : Group) : (s.setGroup n m v).poison = s.poison := by simp [State.setGroup]
@[simp] theorem State.setGroup_dscr (n m : Nat) (v : Group) : (s.setGroup n m v).dscr = s.dscr := by simp [State.setGroup]
@[simp] theorem State.setGroup_dies (n m : Nat) (v : Group) : (s.setGroup n m v).dies = s.dies := by simp [State.setGroup]
@[simp] theorem State.setGroup_slices (n m : Nat) (v : Group) : (s.setGroup n m v).slices = s.slices := by simp [State.setGroup]
@[simp] theorem State.setGroup_clsets (n m : Nat) (v : Group) : (s.setGroup n m v).clsets = s.clsets := by simp [State.setGroup]
@[simp] theorem State.setGroup_vreg (n m : Nat) (v : Group) : (s.setGroup n m v).vreg = s.vreg := by simp [State.setGroup]
@[simp] theorem State.setGroup_preg (n m : Nat) (v : Group) : (s.setGroup n m v).preg = s.preg := by simp [State.setGroup]
@[simp] theorem State.setGroup_vfs (n m : Nat) (v : Group) : (s.setGroup n m v).vfs = s.vfs := by simp [State.setGroup]
@[simp] theorem State.setGroup_jobs (n m : Nat) (v : Group) : (s.setGroup n m v).jobs = s.jobs := by simp [State.setGroup]
@[simp] theorem State.setGroup_cardOrder (n m : Nat) (v : Group) : (s.setGroup n m v).cardOrder = s.cardOrder := by simp [State.setGroup]
@[simp] theorem State.setGroup_parts (n m : Nat) (v : Group) : (s.setGroup n m v).parts = s.parts := by simp [State.setGroup]
@[simp] theorem State.setGroup_hostBias (n m : Nat) (v : Group) : (s.setGroup n m v).hostBias = s.hostBias := by simp [State.setGroup]
@[simp] theorem State.setGroup_frames (n m : Nat) (v : Group) : (s.setGroup n m v).frames = s.frames := by simp [State.setGroup]
@[simp] theorem State.setGroup_ports (n m : Nat) (v : Group) : (s.setGroup n m v).ports = s.ports := by simp [State.setGroup]
@[simp] theorem State.setGroup_sys (n m : Nat) (v : Group) : (s.setGroup n m v).sys = s.sys := by simp [State.setGroup]
@[simp] theorem State.setGroup_hostRead (n m : Nat) (v : Group) : (s.setGroup n m v).hostRead = s.hostRead := by simp [State.setGroup]
@[simp] theorem State.setGroup_snap (n m : Nat) (v : Group) : (s.setGroup n m v).snap = s.snap := by simp [State.setGroup]
@[simp] theorem State.setGroup_readAt (n m : Nat) (v : Group) : (s.setGroup n m v).readAt = s.readAt := by simp [State.setGroup]

@[simp] theorem State.modGroup_clock (n m : Nat) (f : Group → Group) : (s.modGroup n m f).clock = s.clock := by unfold State.modGroup; split <;> simp
@[simp] theorem State.modGroup_ref (n m : Nat) (f : Group → Group) : (s.modGroup n m f).ref = s.ref := by unfold State.modGroup; split <;> simp
@[simp] theorem State.modGroup_fresh (n m : Nat) (f : Group → Group) : (s.modGroup n m f).fresh = s.fresh := by unfold State.modGroup; split <;> simp
@[simp] theorem State.modGroup_nextId (n m : Nat) (f : Group → Group) : (s.modGroup n m f).nextId = s.nextId := by unfold State.modGroup; split <;> simp
@[simp] theorem State.modGroup_agenda (n m : Nat) (f : Group → Group) : (s.modGroup n m f).agenda = s.agenda := by unfold State.modGroup; split <;> simp
@[simp] theorem State.modGroup_cur (n m : Nat) (f : Group → Group) : (s.modGroup n m f).cur = s.cur := by unfold State.modGroup; split <;> simp
@[simp] theorem State.modGroup_mem (n m : Nat) (f : Group → Group) : (s.modGroup n m f).mem = s.mem := by unfold State.modGroup; split <;> simp
@[simp] theorem State.modGroup_poison (n m : Nat) (f : Group → Group) : (s.modGroup n m f).poison = s.poison := by unfold State.modGroup; split <;> simp
@[simp] theorem State.modGroup_dscr (n m : Nat) (f : Group → Group) : (s.modGroup n m f).dscr = s.dscr := by unfold State.modGroup; split <;> simp
@[simp] theorem State.modGroup_dies (n m : Nat) (f : Group → Group) : (s.modGroup n m f).dies = s.dies := by unfold State.modGroup; split <;> simp
@[simp] theorem State.modGroup_slices (n m : Nat) (f : Group → Group) : (s.modGroup n m f).slices = s.slices := by unfold State.modGroup; split <;> simp
@[simp] theorem State.modGroup_clsets (n m : Nat) (f : Group → Group) : (s.modGroup n m f).clsets = s.clsets := by unfold State.modGroup; split <;> simp
@[simp] theorem State.modGroup_vreg (n m : Nat) (f : Group → Group) : (s.modGroup n m f).vreg = s.vreg := by unfold State.modGroup; split <;> simp
@[simp] theorem State.modGroup_preg (n m : Nat) (f : Group → Group) : (s.modGroup n m f).preg = s.preg := by unfold State.modGroup; split <;> simp
@[simp] theorem State.modGroup_vfs (n m : Nat) (f : Group → Group) : (s.modGroup n m f).vfs = s.vfs := by unfold State.modGroup; split <;> simp
@[simp] theorem State.modGroup_jobs (n m : Nat) (f : Group → Group) : (s.modGroup n m f).jobs = s.jobs := by unfold State.modGroup; split <;> simp
@[simp] theorem State.modGroup_cardOrder (n m : Nat) (f : Group → Group) : (s.modGroup n m f).cardOrder = s.cardOrder := by unfold State.modGroup; split <;> simp
@[simp] theorem State.modGroup_parts (n m : Nat) (f : Group → Group) : (s.modGroup n m f).parts = s.parts := by unfold State.modGroup; split <;> simp
@[simp] theorem State.modGroup_hostBias (n m : Nat) (f : Group → Group) : (s.modGroup n m f).hostBias = s.hostBias := by unfold State.modGroup; split <;> simp
@[simp] theorem State.modGroup_frames (n m : Nat) (f : Group → Group) : (s.modGroup n m f).frames = s.frames := by unfold State.modGroup; split <;> simp
@[simp] theorem State.modGroup_ports (n m : Nat) (f : Group → Group) : (s.modGroup n m f).ports = s.ports := by unfold State.modGroup; split <;> simp
@[simp] theorem State.modGroup_sys (n m : Nat) (f : Group → Group) : (s.modGroup n m f).sys = s.sys := by unfold State.modGroup; split <;> simp
@[simp] theorem State.modGroup_hostRead (n m : Nat) (f : Group → Group) : (s.modGroup n m f).hostRead = s.hostRead := by unfold State.modGroup; split <;> simp
@[simp] theorem State.modGroup_snap (n m : Nat) (f : Group → Group) : (s.modGroup n m f).snap = s.snap := by unfold State.modGroup; split <;> simp
@[simp] theorem State.modGroup_readAt (n m : Nat) (f : Group → Group) : (s.modGroup n m f).readAt = s.readAt := by unfold State.modGroup; split <;> simp

@[simp] theorem State.setWg_clock (n m : Nat) (v : Workgroup) : (s.setWg n m v).clock = s.clock := by simp [State.setWg]
@[simp] theorem State.setWg_ref (n m : Nat) (v : Workgroup) : (s.setWg n m v).ref = s.ref := by simp [State.setWg]
@[simp] theorem State.setWg_fresh (n m : Nat) (v : Workgroup) : (s.setWg n m v).fresh = s.fresh := by simp [State.setWg]
@[simp] theorem State.setWg_nextId (n m : Nat) (v : Workgroup) : (s.setWg n m v).nextId = s.nextId := by simp [State.setWg]
@[simp] theorem State.setWg_agenda (n m : Nat) (v : Workgroup) : (s.setWg n m v).agenda = s.agenda := by simp [State.setWg]
@[simp] theorem State.setWg_cur (n m : Nat) (v : Workgroup) : (s.setWg n m v).cur = s.cur := by simp [State.setWg]
@[simp] theorem State.setWg_mem (n m : Nat) (v : Workgroup) : (s.setWg n m v).mem = s.mem := by simp [State.setWg]
@[simp] theorem State.setWg_poison (n m : Nat) (v : Workgroup) : (s.setWg n m v).poison = s.poison := by simp [State.setWg]
@[simp] theorem State.setWg_dscr (n m : Nat) (v : Workgroup) : (s.setWg n m v).dscr = s.dscr := by simp [State.setWg]
@[simp] theorem State.setWg_dies (n m : Nat) (v : Workgroup) : (s.setWg n m v).dies = s.dies := by simp [State.setWg]
@[simp] theorem State.setWg_slices (n m : Nat) (v : Workgroup) : (s.setWg n m v).slices = s.slices := by simp [State.setWg]
@[simp] theorem State.setWg_clsets (n m : Nat) (v : Workgroup) : (s.setWg n m v).clsets = s.clsets := by simp [State.setWg]
@[simp] theorem State.setWg_vreg (n m : Nat) (v : Workgroup) : (s.setWg n m v).vreg = s.vreg := by simp [State.setWg]
@[simp] theorem State.setWg_preg (n m : Nat) (v : Workgroup) : (s.setWg n m v).preg = s.preg := by simp [State.setWg]
@[simp] theorem State.setWg_vfs (n m : Nat) (v : Workgroup) : (s.setWg n m v).vfs = s.vfs := by simp [State.setWg]
@[simp] theorem State.setWg_jobs (n m : Nat) (v : Workgroup) : (s.setWg n m v).jobs = s.jobs := by simp [State.setWg]
@[simp] theorem State.setWg_cardOrder (n m : Nat) (v : Workgroup) : (s.setWg n m v).cardOrder = s.cardOrder := by simp [State.setWg]
@[simp] theorem State.setWg_parts (n m : Nat) (v : Workgroup) : (s.setWg n m v).parts = s.parts := by simp [State.setWg]
@[simp] theorem State.setWg_hostBias (n m : Nat) (v : Workgroup) : (s.setWg n m v).hostBias = s.hostBias := by simp [State.setWg]
@[simp] theorem State.setWg_frames (n m : Nat) (v : Workgroup) : (s.setWg n m v).frames = s.frames := by simp [State.setWg]
@[simp] theorem State.setWg_ports (n m : Nat) (v : Workgroup) : (s.setWg n m v).ports = s.ports := by simp [State.setWg]
@[simp] theorem State.setWg_sys (n m : Nat) (v : Workgroup) : (s.setWg n m v).sys = s.sys := by simp [State.setWg]
@[simp] theorem State.setWg_hostRead (n m : Nat) (v : Workgroup) : (s.setWg n m v).hostRead = s.hostRead := by simp [State.setWg]
@[simp] theorem State.setWg_snap (n m : Nat) (v : Workgroup) : (s.setWg n m v).snap = s.snap := by simp [State.setWg]
@[simp] theorem State.setWg_readAt (n m : Nat) (v : Workgroup) : (s.setWg n m v).readAt = s.readAt := by simp [State.setWg]

@[simp] theorem State.modWg_clock (n m : Nat) (f : Workgroup → Workgroup) : (s.modWg n m f).clock = s.clock := by unfold State.modWg; split <;> simp
@[simp] theorem State.modWg_ref (n m : Nat) (f : Workgroup → Workgroup) : (s.modWg n m f).ref = s.ref := by unfold State.modWg; split <;> simp
@[simp] theorem State.modWg_fresh (n m : Nat) (f : Workgroup → Workgroup) : (s.modWg n m f).fresh = s.fresh := by unfold State.modWg; split <;> simp
@[simp] theorem State.modWg_nextId (n m : Nat) (f : Workgroup → Workgroup) : (s.modWg n m f).nextId = s.nextId := by unfold State.modWg; split <;> simp
@[simp] theorem State.modWg_agenda (n m : Nat) (f : Workgroup → Workgroup) : (s.modWg n m f).agenda = s.agenda := by unfold State.modWg; split <;> simp
@[simp] theorem State.modWg_cur (n m : Nat) (f : Workgroup → Workgroup) : (s.modWg n m f).cur = s.cur := by unfold State.modWg; split <;> simp
@[simp] theorem State.modWg_mem (n m : Nat) (f : Workgroup → Workgroup) : (s.modWg n m f).mem = s.mem := by unfold State.modWg; split <;> simp
@[simp] theorem State.modWg_poison (n m : Nat) (f : Workgroup → Workgroup) : (s.modWg n m f).poison = s.poison := by unfold State.modWg; split <;> simp
@[simp] theorem State.modWg_dscr (n m : Nat) (f : Workgroup → Workgroup) : (s.modWg n m f).dscr = s.dscr := by unfold State.modWg; split <;> simp
@[simp] theorem State.modWg_dies (n m : Nat) (f : Workgroup → Workgroup) : (s.modWg n m f).dies = s.dies := by unfold State.modWg; split <;> simp
@[simp] theorem State.modWg_slices (n m : Nat) (f : Workgroup → Workgroup) : (s.modWg n m f).slices = s.slices := by unfold State.modWg; split <;> simp
@[simp] theorem State.modWg_clsets (n m : Nat) (f : Workgroup → Workgroup) : (s.modWg n m f).clsets = s.clsets := by unfold State.modWg; split <;> simp
@[simp] theorem State.modWg_vreg (n m : Nat) (f : Workgroup → Workgroup) : (s.modWg n m f).vreg = s.vreg := by unfold State.modWg; split <;> simp
@[simp] theorem State.modWg_preg (n m : Nat) (f : Workgroup → Workgroup) : (s.modWg n m f).preg = s.preg := by unfold State.modWg; split <;> simp
@[simp] theorem State.modWg_vfs (n m : Nat) (f : Workgroup → Workgroup) : (s.modWg n m f).vfs = s.vfs := by unfold State.modWg; split <;> simp
@[simp] theorem State.modWg_jobs (n m : Nat) (f : Workgroup → Workgroup) : (s.modWg n m f).jobs = s.jobs := by unfold State.modWg; split <;> simp
@[simp] theorem State.modWg_cardOrder (n m : Nat) (f : Workgroup → Workgroup) : (s.modWg n m f).cardOrder = s.cardOrder := by unfold State.modWg; split <;> simp
@[simp] theorem State.modWg_parts (n m : Nat) (f : Workgroup → Workgroup) : (s.modWg n m f).parts = s.parts := by unfold State.modWg; split <;> simp
@[simp] theorem State.modWg_hostBias (n m : Nat) (f : Workgroup → Workgroup) : (s.modWg n m f).hostBias = s.hostBias := by unfold State.modWg; split <;> simp
@[simp] theorem State.modWg_frames (n m : Nat) (f : Workgroup → Workgroup) : (s.modWg n m f).frames = s.frames := by unfold State.modWg; split <;> simp
@[simp] theorem State.modWg_ports (n m : Nat) (f : Workgroup → Workgroup) : (s.modWg n m f).ports = s.ports := by unfold State.modWg; split <;> simp
@[simp] theorem State.modWg_sys (n m : Nat) (f : Workgroup → Workgroup) : (s.modWg n m f).sys = s.sys := by unfold State.modWg; split <;> simp
@[simp] theorem State.modWg_hostRead (n m : Nat) (f : Workgroup → Workgroup) : (s.modWg n m f).hostRead = s.hostRead := by unfold State.modWg; split <;> simp
@[simp] theorem State.modWg_snap (n m : Nat) (f : Workgroup → Workgroup) : (s.modWg n m f).snap = s.snap := by unfold State.modWg; split <;> simp
@[simp] theorem State.modWg_readAt (n m : Nat) (f : Workgroup → Workgroup) : (s.modWg n m f).readAt = s.readAt := by unfold State.modWg; split <;> simp

@[simp] theorem State.count_clock (a b d n : Nat) : (s.count a b d n).clock = s.clock := by unfold State.count; split <;> simp
@[simp] theorem State.count_ref (a b d n : Nat) : (s.count a b d n).ref = s.ref := by unfold State.count; split <;> simp
@[simp] theorem State.count_fresh (a b d n : Nat) : (s.count a b d n).fresh = s.fresh := by unfold State.count; split <;> simp
@[simp] theorem State.count_nextId (a b d n : Nat) : (s.count a b d n).nextId = s.nextId := by unfold State.count; split <;> simp
@[simp] theorem State.count_agenda (a b d n : Nat) : (s.count a b d n).agenda = s.agenda := by unfold State.count; split <;> simp
@[simp] theorem State.count_cur (a b d n : Nat) : (s.count a b d n).cur = s.cur := by unfold State.count; split <;> simp
@[simp] theorem State.count_mem (a b d n : Nat) : (s.count a b d n).mem = s.mem := by unfold State.count; split <;> simp
@[simp] theorem State.count_poison (a b d n : Nat) : (s.count a b d n).poison = s.poison := by unfold State.count; split <;> simp
@[simp] theorem State.count_dscr (a b d n : Nat) : (s.count a b d n).dscr = s.dscr := by unfold State.count; split <;> simp
@[simp] theorem State.count_dies (a b d n : Nat) : (s.count a b d n).dies = s.dies := by unfold State.count; split <;> simp
@[simp] theorem State.count_slices (a b d n : Nat) : (s.count a b d n).slices = s.slices := by unfold State.count; split <;> simp
@[simp] theorem State.count_clsets (a b d n : Nat) : (s.count a b d n).clsets = s.clsets := by unfold State.count; split <;> simp
@[simp] theorem State.count_vreg (a b d n : Nat) : (s.count a b d n).vreg = s.vreg := by unfold State.count; split <;> simp
@[simp] theorem State.count_preg (a b d n : Nat) : (s.count a b d n).preg = s.preg := by unfold State.count; split <;> simp
@[simp] theorem State.count_vfs (a b d n : Nat) : (s.count a b d n).vfs = s.vfs := by unfold State.count; split <;> simp
@[simp] theorem State.count_jobs (a b d n : Nat) : (s.count a b d n).jobs = s.jobs := by unfold State.count; split <;> simp
@[simp] theorem State.count_cardOrder (a b d n : Nat) : (s.count a b d n).cardOrder = s.cardOrder := by unfold State.count; split <;> simp
@[simp] theorem State.count_parts (a b d n : Nat) : (s.count a b d n).parts = s.parts := by unfold State.count; split <;> simp
@[simp] theorem State.count_hostBias (a b d n : Nat) : (s.count a b d n).hostBias = s.hostBias := by unfold State.count; split <;> simp
@[simp] theorem State.count_frames (a b d n : Nat) : (s.count a b d n).frames = s.frames := by unfold State.count; split <;> simp
@[simp] theorem State.count_ports (a b d n : Nat) : (s.count a b d n).ports = s.ports := by unfold State.count; split <;> simp
@[simp] theorem State.count_sys (a b d n : Nat) : (s.count a b d n).sys = s.sys := by unfold State.count; split <;> simp
@[simp] theorem State.count_hostRead (a b d n : Nat) : (s.count a b d n).hostRead = s.hostRead := by unfold State.count; split <;> simp
@[simp] theorem State.count_snap (a b d n : Nat) : (s.count a b d n).snap = s.snap := by unfold State.count; split <;> simp
@[simp] theorem State.count_readAt (a b d n : Nat) : (s.count a b d n).readAt = s.readAt := by unfold State.count; split <;> simp

@[simp] theorem State.dropBaton_clock (a b : Nat) : (s.dropBaton a b).clock = s.clock := by simp [State.dropBaton]
@[simp] theorem State.dropBaton_ref (a b : Nat) : (s.dropBaton a b).ref = s.ref := by simp [State.dropBaton]
@[simp] theorem State.dropBaton_fresh (a b : Nat) : (s.dropBaton a b).fresh = s.fresh := by simp [State.dropBaton]
@[simp] theorem State.dropBaton_nextId (a b : Nat) : (s.dropBaton a b).nextId = s.nextId := by simp [State.dropBaton]
@[simp] theorem State.dropBaton_agenda (a b : Nat) : (s.dropBaton a b).agenda = s.agenda := by simp [State.dropBaton]
@[simp] theorem State.dropBaton_cur (a b : Nat) : (s.dropBaton a b).cur = s.cur := by simp [State.dropBaton]
@[simp] theorem State.dropBaton_mem (a b : Nat) : (s.dropBaton a b).mem = s.mem := by simp [State.dropBaton]
@[simp] theorem State.dropBaton_poison (a b : Nat) : (s.dropBaton a b).poison = s.poison := by simp [State.dropBaton]
@[simp] theorem State.dropBaton_dscr (a b : Nat) : (s.dropBaton a b).dscr = s.dscr := by simp [State.dropBaton]
@[simp] theorem State.dropBaton_dies (a b : Nat) : (s.dropBaton a b).dies = s.dies := by simp [State.dropBaton]
@[simp] theorem State.dropBaton_slices (a b : Nat) : (s.dropBaton a b).slices = s.slices := by simp [State.dropBaton]
@[simp] theorem State.dropBaton_clsets (a b : Nat) : (s.dropBaton a b).clsets = s.clsets := by simp [State.dropBaton]
@[simp] theorem State.dropBaton_vreg (a b : Nat) : (s.dropBaton a b).vreg = s.vreg := by simp [State.dropBaton]
@[simp] theorem State.dropBaton_preg (a b : Nat) : (s.dropBaton a b).preg = s.preg := by simp [State.dropBaton]
@[simp] theorem State.dropBaton_vfs (a b : Nat) : (s.dropBaton a b).vfs = s.vfs := by simp [State.dropBaton]
@[simp] theorem State.dropBaton_jobs (a b : Nat) : (s.dropBaton a b).jobs = s.jobs := by simp [State.dropBaton]
@[simp] theorem State.dropBaton_cardOrder (a b : Nat) : (s.dropBaton a b).cardOrder = s.cardOrder := by simp [State.dropBaton]
@[simp] theorem State.dropBaton_parts (a b : Nat) : (s.dropBaton a b).parts = s.parts := by simp [State.dropBaton]
@[simp] theorem State.dropBaton_hostBias (a b : Nat) : (s.dropBaton a b).hostBias = s.hostBias := by simp [State.dropBaton]
@[simp] theorem State.dropBaton_frames (a b : Nat) : (s.dropBaton a b).frames = s.frames := by simp [State.dropBaton]
@[simp] theorem State.dropBaton_ports (a b : Nat) : (s.dropBaton a b).ports = s.ports := by simp [State.dropBaton]
@[simp] theorem State.dropBaton_sys (a b : Nat) : (s.dropBaton a b).sys = s.sys := by simp [State.dropBaton]
@[simp] theorem State.dropBaton_hostRead (a b : Nat) : (s.dropBaton a b).hostRead = s.hostRead := by simp [State.dropBaton]
@[simp] theorem State.dropBaton_snap (a b : Nat) : (s.dropBaton a b).snap = s.snap := by simp [State.dropBaton]
@[simp] theorem State.dropBaton_readAt (a b : Nat) : (s.dropBaton a b).readAt = s.readAt := by simp [State.dropBaton]

@[simp] theorem State.writeBack_clock (a b : Nat) : (s.writeBack a b).clock = s.clock := by unfold State.writeBack; split <;> simp
@[simp] theorem State.writeBack_ref (a b : Nat) : (s.writeBack a b).ref = s.ref := by unfold State.writeBack; split <;> simp
@[simp] theorem State.writeBack_fresh (a b : Nat) : (s.writeBack a b).fresh = s.fresh := by unfold State.writeBack; split <;> simp
@[simp] theorem State.writeBack_nextId (a b : Nat) : (s.writeBack a b).nextId = s.nextId := by unfold State.writeBack; split <;> simp
@[simp] theorem State.writeBack_agenda (a b : Nat) : (s.writeBack a b).agenda = s.agenda := by unfold State.writeBack; split <;> simp
@[simp] theorem State.writeBack_cur (a b : Nat) : (s.writeBack a b).cur = s.cur := by unfold State.writeBack; split <;> simp
@[simp] theorem State.writeBack_mem (a b : Nat) : (s.writeBack a b).mem = s.mem := by unfold State.writeBack; split <;> simp
@[simp] theorem State.writeBack_poison (a b : Nat) : (s.writeBack a b).poison = s.poison := by unfold State.writeBack; split <;> simp
@[simp] theorem State.writeBack_dscr (a b : Nat) : (s.writeBack a b).dscr = s.dscr := by unfold State.writeBack; split <;> simp
@[simp] theorem State.writeBack_dies (a b : Nat) : (s.writeBack a b).dies = s.dies := by unfold State.writeBack; split <;> simp
@[simp] theorem State.writeBack_slices (a b : Nat) : (s.writeBack a b).slices = s.slices := by unfold State.writeBack; split <;> simp
@[simp] theorem State.writeBack_clsets (a b : Nat) : (s.writeBack a b).clsets = s.clsets := by unfold State.writeBack; split <;> simp
@[simp] theorem State.writeBack_vreg (a b : Nat) : (s.writeBack a b).vreg = s.vreg := by unfold State.writeBack; split <;> simp
@[simp] theorem State.writeBack_preg (a b : Nat) : (s.writeBack a b).preg = s.preg := by unfold State.writeBack; split <;> simp
@[simp] theorem State.writeBack_vfs (a b : Nat) : (s.writeBack a b).vfs = s.vfs := by unfold State.writeBack; split <;> simp
@[simp] theorem State.writeBack_jobs (a b : Nat) : (s.writeBack a b).jobs = s.jobs := by unfold State.writeBack; split <;> simp
@[simp] theorem State.writeBack_cardOrder (a b : Nat) : (s.writeBack a b).cardOrder = s.cardOrder := by unfold State.writeBack; split <;> simp
@[simp] theorem State.writeBack_parts (a b : Nat) : (s.writeBack a b).parts = s.parts := by unfold State.writeBack; split <;> simp
@[simp] theorem State.writeBack_hostBias (a b : Nat) : (s.writeBack a b).hostBias = s.hostBias := by unfold State.writeBack; split <;> simp
@[simp] theorem State.writeBack_frames (a b : Nat) : (s.writeBack a b).frames = s.frames := by unfold State.writeBack; split <;> simp
@[simp] theorem State.writeBack_ports (a b : Nat) : (s.writeBack a b).ports = s.ports := by unfold State.writeBack; split <;> simp
@[simp] theorem State.writeBack_sys (a b : Nat) : (s.writeBack a b).sys = s.sys := by unfold State.writeBack; split <;> simp
@[simp] theorem State.writeBack_hostRead (a b : Nat) : (s.writeBack a b).hostRead = s.hostRead := by unfold State.writeBack; split <;> simp
@[simp] theorem State.writeBack_snap (a b : Nat) : (s.writeBack a b).snap = s.snap := by unfold State.writeBack; split <;> simp
@[simp] theorem State.writeBack_readAt (a b : Nat) : (s.writeBack a b).readAt = s.readAt := by unfold State.writeBack; split <;> simp

@[simp] theorem State.leaveActive_clock (a b : Nat) : (s.leaveActive a b).clock = s.clock := by simp [State.leaveActive]
@[simp] theorem State.leaveActive_ref (a b : Nat) : (s.leaveActive a b).ref = s.ref := by simp [State.leaveActive]
@[simp] theorem State.leaveActive_fresh (a b : Nat) : (s.leaveActive a b).fresh = s.fresh := by simp [State.leaveActive]
@[simp] theorem State.leaveActive_nextId (a b : Nat) : (s.leaveActive a b).nextId = s.nextId := by simp [State.leaveActive]
@[simp] theorem State.leaveActive_agenda (a b : Nat) : (s.leaveActive a b).agenda = s.agenda := by simp [State.leaveActive]
@[simp] theorem State.leaveActive_cur (a b : Nat) : (s.leaveActive a b).cur = s.cur := by simp [State.leaveActive]
@[simp] theorem State.leaveActive_mem (a b : Nat) : (s.leaveActive a b).mem = s.mem := by simp [State.leaveActive]
@[simp] theorem State.leaveActive_poison (a b : Nat) : (s.leaveActive a b).poison = s.poison := by simp [State.leaveActive]
@[simp] theorem State.leaveActive_dscr (a b : Nat) : (s.leaveActive a b).dscr = s.dscr := by simp [State.leaveActive]
@[simp] theorem State.leaveActive_dies (a b : Nat) : (s.leaveActive a b).dies = s.dies := by simp [State.leaveActive]
@[simp] theorem State.leaveActive_slices (a b : Nat) : (s.leaveActive a b).slices = s.slices := by simp [State.leaveActive]
@[simp] theorem State.leaveActive_clsets (a b : Nat) : (s.leaveActive a b).clsets = s.clsets := by simp [State.leaveActive]
@[simp] theorem State.leaveActive_vreg (a b : Nat) : (s.leaveActive a b).vreg = s.vreg := by simp [State.leaveActive]
@[simp] theorem State.leaveActive_preg (a b : Nat) : (s.leaveActive a b).preg = s.preg := by simp [State.leaveActive]
@[simp] theorem State.leaveActive_vfs (a b : Nat) : (s.leaveActive a b).vfs = s.vfs := by simp [State.leaveActive]
@[simp] theorem State.leaveActive_jobs (a b : Nat) : (s.leaveActive a b).jobs = s.jobs := by simp [State.leaveActive]
@[simp] theorem State.leaveActive_cardOrder (a b : Nat) : (s.leaveActive a b).cardOrder = s.cardOrder := by simp [State.leaveActive]
@[simp] theorem State.leaveActive_parts (a b : Nat) : (s.leaveActive a b).parts = s.parts := by simp [State.leaveActive]
@[simp] theorem State.leaveActive_hostBias (a b : Nat) : (s.leaveActive a b).hostBias = s.hostBias := by simp [State.leaveActive]
@[simp] theorem State.leaveActive_frames (a b : Nat) : (s.leaveActive a b).frames = s.frames := by simp [State.leaveActive]
@[simp] theorem State.leaveActive_ports (a b : Nat) : (s.leaveActive a b).ports = s.ports := by simp [State.leaveActive]
@[simp] theorem State.leaveActive_sys (a b : Nat) : (s.leaveActive a b).sys = s.sys := by simp [State.leaveActive]
@[simp] theorem State.leaveActive_hostRead (a b : Nat) : (s.leaveActive a b).hostRead = s.hostRead := by simp [State.leaveActive]
@[simp] theorem State.leaveActive_snap (a b : Nat) : (s.leaveActive a b).snap = s.snap := by simp [State.leaveActive]
@[simp] theorem State.leaveActive_readAt (a b : Nat) : (s.leaveActive a b).readAt = s.readAt := by simp [State.leaveActive]

@[simp] theorem State.standDown_clock (a b : Nat) : (s.standDown a b).clock = s.clock := by unfold State.standDown; dsimp only; split <;> simp
@[simp] theorem State.standDown_ref (a b : Nat) : (s.standDown a b).ref = s.ref := by unfold State.standDown; dsimp only; split <;> simp
@[simp] theorem State.standDown_fresh (a b : Nat) : (s.standDown a b).fresh = s.fresh := by unfold State.standDown; dsimp only; split <;> simp
@[simp] theorem State.standDown_nextId (a b : Nat) : (s.standDown a b).nextId = s.nextId := by unfold State.standDown; dsimp only; split <;> simp
@[simp] theorem State.standDown_agenda (a b : Nat) : (s.standDown a b).agenda = s.agenda := by unfold State.standDown; dsimp only; split <;> simp
@[simp] theorem State.standDown_cur (a b : Nat) : (s.standDown a b).cur = s.cur := by unfold State.standDown; dsimp only; split <;> simp
@[simp] theorem State.standDown_mem (a b : Nat) : (s.standDown a b).mem = s.mem := by unfold State.standDown; dsimp only; split <;> simp
@[simp] theorem State.standDown_poison (a b : Nat) : (s.standDown a b).poison = s.poison := by unfold State.standDown; dsimp only; split <;> simp
@[simp] theorem State.standDown_dscr (a b : Nat) : (s.standDown a b).dscr = s.dscr := by unfold State.standDown; dsimp only; split <;> simp
@[simp] theorem State.standDown_dies (a b : Nat) : (s.standDown a b).dies = s.dies := by unfold State.standDown; dsimp only; split <;> simp
@[simp] theorem State.standDown_slices (a b : Nat) : (s.standDown a b).slices = s.slices := by unfold State.standDown; dsimp only; split <;> simp
@[simp] theorem State.standDown_clsets (a b : Nat) : (s.standDown a b).clsets = s.clsets := by unfold State.standDown; dsimp only; split <;> simp
@[simp] theorem State.standDown_vreg (a b : Nat) : (s.standDown a b).vreg = s.vreg := by unfold State.standDown; dsimp only; split <;> simp
@[simp] theorem State.standDown_preg (a b : Nat) : (s.standDown a b).preg = s.preg := by unfold State.standDown; dsimp only; split <;> simp
@[simp] theorem State.standDown_vfs (a b : Nat) : (s.standDown a b).vfs = s.vfs := by unfold State.standDown; dsimp only; split <;> simp
@[simp] theorem State.standDown_jobs (a b : Nat) : (s.standDown a b).jobs = s.jobs := by unfold State.standDown; dsimp only; split <;> simp
@[simp] theorem State.standDown_cardOrder (a b : Nat) : (s.standDown a b).cardOrder = s.cardOrder := by unfold State.standDown; dsimp only; split <;> simp
@[simp] theorem State.standDown_parts (a b : Nat) : (s.standDown a b).parts = s.parts := by unfold State.standDown; dsimp only; split <;> simp
@[simp] theorem State.standDown_hostBias (a b : Nat) : (s.standDown a b).hostBias = s.hostBias := by unfold State.standDown; dsimp only; split <;> simp
@[simp] theorem State.standDown_frames (a b : Nat) : (s.standDown a b).frames = s.frames := by unfold State.standDown; dsimp only; split <;> simp
@[simp] theorem State.standDown_ports (a b : Nat) : (s.standDown a b).ports = s.ports := by unfold State.standDown; dsimp only; split <;> simp
@[simp] theorem State.standDown_sys (a b : Nat) : (s.standDown a b).sys = s.sys := by unfold State.standDown; dsimp only; split <;> simp
@[simp] theorem State.standDown_hostRead (a b : Nat) : (s.standDown a b).hostRead = s.hostRead := by unfold State.standDown; dsimp only; split <;> simp
@[simp] theorem State.standDown_snap (a b : Nat) : (s.standDown a b).snap = s.snap := by unfold State.standDown; dsimp only; split <;> simp
@[simp] theorem State.standDown_readAt (a b : Nat) : (s.standDown a b).readAt = s.readAt := by unfold State.standDown; dsimp only; split <;> simp

@[simp] theorem State.debugStop_clock (a b : Nat) : (s.debugStop a b).clock = s.clock := by unfold State.debugStop; dsimp only; split <;> simp
@[simp] theorem State.debugStop_ref (a b : Nat) : (s.debugStop a b).ref = s.ref := by unfold State.debugStop; dsimp only; split <;> simp
@[simp] theorem State.debugStop_fresh (a b : Nat) : (s.debugStop a b).fresh = s.fresh := by unfold State.debugStop; dsimp only; split <;> simp
@[simp] theorem State.debugStop_nextId (a b : Nat) : (s.debugStop a b).nextId = s.nextId := by unfold State.debugStop; dsimp only; split <;> simp
@[simp] theorem State.debugStop_agenda (a b : Nat) : (s.debugStop a b).agenda = s.agenda := by unfold State.debugStop; dsimp only; split <;> simp
@[simp] theorem State.debugStop_cur (a b : Nat) : (s.debugStop a b).cur = s.cur := by unfold State.debugStop; dsimp only; split <;> simp
@[simp] theorem State.debugStop_mem (a b : Nat) : (s.debugStop a b).mem = s.mem := by unfold State.debugStop; dsimp only; split <;> simp
@[simp] theorem State.debugStop_poison (a b : Nat) : (s.debugStop a b).poison = s.poison := by unfold State.debugStop; dsimp only; split <;> simp
@[simp] theorem State.debugStop_dscr (a b : Nat) : (s.debugStop a b).dscr = s.dscr := by unfold State.debugStop; dsimp only; split <;> simp
@[simp] theorem State.debugStop_dies (a b : Nat) : (s.debugStop a b).dies = s.dies := by unfold State.debugStop; dsimp only; split <;> simp
@[simp] theorem State.debugStop_slices (a b : Nat) : (s.debugStop a b).slices = s.slices := by unfold State.debugStop; dsimp only; split <;> simp
@[simp] theorem State.debugStop_clsets (a b : Nat) : (s.debugStop a b).clsets = s.clsets := by unfold State.debugStop; dsimp only; split <;> simp
@[simp] theorem State.debugStop_vreg (a b : Nat) : (s.debugStop a b).vreg = s.vreg := by unfold State.debugStop; dsimp only; split <;> simp
@[simp] theorem State.debugStop_preg (a b : Nat) : (s.debugStop a b).preg = s.preg := by unfold State.debugStop; dsimp only; split <;> simp
@[simp] theorem State.debugStop_vfs (a b : Nat) : (s.debugStop a b).vfs = s.vfs := by unfold State.debugStop; dsimp only; split <;> simp
@[simp] theorem State.debugStop_jobs (a b : Nat) : (s.debugStop a b).jobs = s.jobs := by unfold State.debugStop; dsimp only; split <;> simp
@[simp] theorem State.debugStop_cardOrder (a b : Nat) : (s.debugStop a b).cardOrder = s.cardOrder := by unfold State.debugStop; dsimp only; split <;> simp
@[simp] theorem State.debugStop_parts (a b : Nat) : (s.debugStop a b).parts = s.parts := by unfold State.debugStop; dsimp only; split <;> simp
@[simp] theorem State.debugStop_hostBias (a b : Nat) : (s.debugStop a b).hostBias = s.hostBias := by unfold State.debugStop; dsimp only; split <;> simp
@[simp] theorem State.debugStop_frames (a b : Nat) : (s.debugStop a b).frames = s.frames := by unfold State.debugStop; dsimp only; split <;> simp
@[simp] theorem State.debugStop_ports (a b : Nat) : (s.debugStop a b).ports = s.ports := by unfold State.debugStop; dsimp only; split <;> simp
@[simp] theorem State.debugStop_sys (a b : Nat) : (s.debugStop a b).sys = s.sys := by unfold State.debugStop; dsimp only; split <;> simp
@[simp] theorem State.debugStop_hostRead (a b : Nat) : (s.debugStop a b).hostRead = s.hostRead := by unfold State.debugStop; dsimp only; split <;> simp
@[simp] theorem State.debugStop_snap (a b : Nat) : (s.debugStop a b).snap = s.snap := by unfold State.debugStop; dsimp only; split <;> simp
@[simp] theorem State.debugStop_readAt (a b : Nat) : (s.debugStop a b).readAt = s.readAt := by unfold State.debugStop; dsimp only; split <;> simp

@[simp] theorem State.stepDone_clock (a b : Nat) : (s.stepDone a b).clock = s.clock := by unfold State.stepDone; repeat' (first | split | simp)
@[simp] theorem State.stepDone_ref (a b : Nat) : (s.stepDone a b).ref = s.ref := by unfold State.stepDone; repeat' (first | split | simp)
@[simp] theorem State.stepDone_fresh (a b : Nat) : (s.stepDone a b).fresh = s.fresh := by unfold State.stepDone; repeat' (first | split | simp)
@[simp] theorem State.stepDone_nextId (a b : Nat) : (s.stepDone a b).nextId = s.nextId := by unfold State.stepDone; repeat' (first | split | simp)
@[simp] theorem State.stepDone_agenda (a b : Nat) : (s.stepDone a b).agenda = s.agenda := by unfold State.stepDone; repeat' (first | split | simp)
@[simp] theorem State.stepDone_cur (a b : Nat) : (s.stepDone a b).cur = s.cur := by unfold State.stepDone; repeat' (first | split | simp)
@[simp] theorem State.stepDone_mem (a b : Nat) : (s.stepDone a b).mem = s.mem := by unfold State.stepDone; repeat' (first | split | simp)
@[simp] theorem State.stepDone_poison (a b : Nat) : (s.stepDone a b).poison = s.poison := by unfold State.stepDone; repeat' (first | split | simp)
@[simp] theorem State.stepDone_dscr (a b : Nat) : (s.stepDone a b).dscr = s.dscr := by unfold State.stepDone; repeat' (first | split | simp)
@[simp] theorem State.stepDone_dies (a b : Nat) : (s.stepDone a b).dies = s.dies := by unfold State.stepDone; repeat' (first | split | simp)
@[simp] theorem State.stepDone_slices (a b : Nat) : (s.stepDone a b).slices = s.slices := by unfold State.stepDone; repeat' (first | split | simp)
@[simp] theorem State.stepDone_clsets (a b : Nat) : (s.stepDone a b).clsets = s.clsets := by unfold State.stepDone; repeat' (first | split | simp)
@[simp] theorem State.stepDone_vreg (a b : Nat) : (s.stepDone a b).vreg = s.vreg := by unfold State.stepDone; repeat' (first | split | simp)
@[simp] theorem State.stepDone_preg (a b : Nat) : (s.stepDone a b).preg = s.preg := by unfold State.stepDone; repeat' (first | split | simp)
@[simp] theorem State.stepDone_vfs (a b : Nat) : (s.stepDone a b).vfs = s.vfs := by unfold State.stepDone; repeat' (first | split | simp)
@[simp] theorem State.stepDone_jobs (a b : Nat) : (s.stepDone a b).jobs = s.jobs := by unfold State.stepDone; repeat' (first | split | simp)
@[simp] theorem State.stepDone_cardOrder (a b : Nat) : (s.stepDone a b).cardOrder = s.cardOrder := by unfold State.stepDone; repeat' (first | split | simp)
@[simp] theorem State.stepDone_parts (a b : Nat) : (s.stepDone a b).parts = s.parts := by unfold State.stepDone; repeat' (first | split | simp)
@[simp] theorem State.stepDone_hostBias (a b : Nat) : (s.stepDone a b).hostBias = s.hostBias := by unfold State.stepDone; repeat' (first | split | simp)
@[simp] theorem State.stepDone_frames (a b : Nat) : (s.stepDone a b).frames = s.frames := by unfold State.stepDone; repeat' (first | split | simp)
@[simp] theorem State.stepDone_ports (a b : Nat) : (s.stepDone a b).ports = s.ports := by unfold State.stepDone; repeat' (first | split | simp)
@[simp] theorem State.stepDone_sys (a b : Nat) : (s.stepDone a b).sys = s.sys := by unfold State.stepDone; repeat' (first | split | simp)
@[simp] theorem State.stepDone_hostRead (a b : Nat) : (s.stepDone a b).hostRead = s.hostRead := by unfold State.stepDone; repeat' (first | split | simp)
@[simp] theorem State.stepDone_snap (a b : Nat) : (s.stepDone a b).snap = s.snap := by unfold State.stepDone; repeat' (first | split | simp)
@[simp] theorem State.stepDone_readAt (a b : Nat) : (s.stepDone a b).readAt = s.readAt := by unfold State.stepDone; repeat' (first | split | simp)

@[simp] theorem State.standUp_clock (a b : Nat) : (s.standUp a b).clock = s.clock := by unfold State.standUp; repeat' (first | split | simp)
@[simp] theorem State.standUp_ref (a b : Nat) : (s.standUp a b).ref = s.ref := by unfold State.standUp; repeat' (first | split | simp)
@[simp] theorem State.standUp_fresh (a b : Nat) : (s.standUp a b).fresh = s.fresh := by unfold State.standUp; repeat' (first | split | simp)
@[simp] theorem State.standUp_nextId (a b : Nat) : (s.standUp a b).nextId = s.nextId := by unfold State.standUp; repeat' (first | split | simp)
@[simp] theorem State.standUp_agenda (a b : Nat) : (s.standUp a b).agenda = s.agenda := by unfold State.standUp; repeat' (first | split | simp)
@[simp] theorem State.standUp_cur (a b : Nat) : (s.standUp a b).cur = s.cur := by unfold State.standUp; repeat' (first | split | simp)
@[simp] theorem State.standUp_mem (a b : Nat) : (s.standUp a b).mem = s.mem := by unfold State.standUp; repeat' (first | split | simp)
@[simp] theorem State.standUp_poison (a b : Nat) : (s.standUp a b).poison = s.poison := by unfold State.standUp; repeat' (first | split | simp)
@[simp] theorem State.standUp_dscr (a b : Nat) : (s.standUp a b).dscr = s.dscr := by unfold State.standUp; repeat' (first | split | simp)
@[simp] theorem State.standUp_dies (a b : Nat) : (s.standUp a b).dies = s.dies := by unfold State.standUp; repeat' (first | split | simp)
@[simp] theorem State.standUp_slices (a b : Nat) : (s.standUp a b).slices = s.slices := by unfold State.standUp; repeat' (first | split | simp)
@[simp] theorem State.standUp_clsets (a b : Nat) : (s.standUp a b).clsets = s.clsets := by unfold State.standUp; repeat' (first | split | simp)
@[simp] theorem State.standUp_vreg (a b : Nat) : (s.standUp a b).vreg = s.vreg := by unfold State.standUp; repeat' (first | split | simp)
@[simp] theorem State.standUp_preg (a b : Nat) : (s.standUp a b).preg = s.preg := by unfold State.standUp; repeat' (first | split | simp)
@[simp] theorem State.standUp_vfs (a b : Nat) : (s.standUp a b).vfs = s.vfs := by unfold State.standUp; repeat' (first | split | simp)
@[simp] theorem State.standUp_jobs (a b : Nat) : (s.standUp a b).jobs = s.jobs := by unfold State.standUp; repeat' (first | split | simp)
@[simp] theorem State.standUp_cardOrder (a b : Nat) : (s.standUp a b).cardOrder = s.cardOrder := by unfold State.standUp; repeat' (first | split | simp)
@[simp] theorem State.standUp_parts (a b : Nat) : (s.standUp a b).parts = s.parts := by unfold State.standUp; repeat' (first | split | simp)
@[simp] theorem State.standUp_hostBias (a b : Nat) : (s.standUp a b).hostBias = s.hostBias := by unfold State.standUp; repeat' (first | split | simp)
@[simp] theorem State.standUp_frames (a b : Nat) : (s.standUp a b).frames = s.frames := by unfold State.standUp; repeat' (first | split | simp)
@[simp] theorem State.standUp_ports (a b : Nat) : (s.standUp a b).ports = s.ports := by unfold State.standUp; repeat' (first | split | simp)
@[simp] theorem State.standUp_sys (a b : Nat) : (s.standUp a b).sys = s.sys := by unfold State.standUp; repeat' (first | split | simp)
@[simp] theorem State.standUp_hostRead (a b : Nat) : (s.standUp a b).hostRead = s.hostRead := by unfold State.standUp; repeat' (first | split | simp)
@[simp] theorem State.standUp_snap (a b : Nat) : (s.standUp a b).snap = s.snap := by unfold State.standUp; repeat' (first | split | simp)
@[simp] theorem State.standUp_readAt (a b : Nat) : (s.standUp a b).readAt = s.readAt := by unfold State.standUp; repeat' (first | split | simp)

@[simp] theorem State.haltGroup_clock (a b : Nat) (l : LiveSet) : (s.haltGroup a b l).clock = s.clock := by simp [State.haltGroup]
@[simp] theorem State.haltGroup_ref (a b : Nat) (l : LiveSet) : (s.haltGroup a b l).ref = s.ref := by simp [State.haltGroup]
@[simp] theorem State.haltGroup_fresh (a b : Nat) (l : LiveSet) : (s.haltGroup a b l).fresh = s.fresh := by simp [State.haltGroup]
@[simp] theorem State.haltGroup_agenda (a b : Nat) (l : LiveSet) : (s.haltGroup a b l).agenda = s.agenda := by simp [State.haltGroup]
@[simp] theorem State.haltGroup_cur (a b : Nat) (l : LiveSet) : (s.haltGroup a b l).cur = s.cur := by simp [State.haltGroup]
@[simp] theorem State.haltGroup_mem (a b : Nat) (l : LiveSet) : (s.haltGroup a b l).mem = s.mem := by simp [State.haltGroup]
@[simp] theorem State.haltGroup_poison (a b : Nat) (l : LiveSet) : (s.haltGroup a b l).poison = s.poison := by simp [State.haltGroup]
@[simp] theorem State.haltGroup_dscr (a b : Nat) (l : LiveSet) : (s.haltGroup a b l).dscr = s.dscr := by simp [State.haltGroup]
@[simp] theorem State.haltGroup_dies (a b : Nat) (l : LiveSet) : (s.haltGroup a b l).dies = s.dies := by simp [State.haltGroup]
@[simp] theorem State.haltGroup_slices (a b : Nat) (l : LiveSet) : (s.haltGroup a b l).slices = s.slices := by simp [State.haltGroup]
@[simp] theorem State.haltGroup_clsets (a b : Nat) (l : LiveSet) : (s.haltGroup a b l).clsets = s.clsets := by simp [State.haltGroup]
@[simp] theorem State.haltGroup_vreg (a b : Nat) (l : LiveSet) : (s.haltGroup a b l).vreg = s.vreg := by simp [State.haltGroup]
@[simp] theorem State.haltGroup_preg (a b : Nat) (l : LiveSet) : (s.haltGroup a b l).preg = s.preg := by simp [State.haltGroup]
@[simp] theorem State.haltGroup_vfs (a b : Nat) (l : LiveSet) : (s.haltGroup a b l).vfs = s.vfs := by simp [State.haltGroup]
@[simp] theorem State.haltGroup_jobs (a b : Nat) (l : LiveSet) : (s.haltGroup a b l).jobs = s.jobs := by simp [State.haltGroup]
@[simp] theorem State.haltGroup_cardOrder (a b : Nat) (l : LiveSet) : (s.haltGroup a b l).cardOrder = s.cardOrder := by simp [State.haltGroup]
@[simp] theorem State.haltGroup_parts (a b : Nat) (l : LiveSet) : (s.haltGroup a b l).parts = s.parts := by simp [State.haltGroup]
@[simp] theorem State.haltGroup_hostBias (a b : Nat) (l : LiveSet) : (s.haltGroup a b l).hostBias = s.hostBias := by simp [State.haltGroup]
@[simp] theorem State.haltGroup_frames (a b : Nat) (l : LiveSet) : (s.haltGroup a b l).frames = s.frames := by simp [State.haltGroup]
@[simp] theorem State.haltGroup_ports (a b : Nat) (l : LiveSet) : (s.haltGroup a b l).ports = s.ports := by simp [State.haltGroup]
@[simp] theorem State.haltGroup_sys (a b : Nat) (l : LiveSet) : (s.haltGroup a b l).sys = s.sys := by simp [State.haltGroup]
@[simp] theorem State.haltGroup_hostRead (a b : Nat) (l : LiveSet) : (s.haltGroup a b l).hostRead = s.hostRead := by simp [State.haltGroup]
@[simp] theorem State.haltGroup_snap (a b : Nat) (l : LiveSet) : (s.haltGroup a b l).snap = s.snap := by simp [State.haltGroup]
@[simp] theorem State.haltGroup_readAt (a b : Nat) (l : LiveSet) : (s.haltGroup a b l).readAt = s.readAt := by simp [State.haltGroup]

@[simp] theorem State.askBanks_clock (c : Ctx) (i : Form) : (s.askBanks c i).clock = s.clock := by unfold State.askBanks; split <;> simp
@[simp] theorem State.askBanks_ref (c : Ctx) (i : Form) : (s.askBanks c i).ref = s.ref := by unfold State.askBanks; split <;> simp
@[simp] theorem State.askBanks_fresh (c : Ctx) (i : Form) : (s.askBanks c i).fresh = s.fresh := by unfold State.askBanks; split <;> simp
@[simp] theorem State.askBanks_nextId (c : Ctx) (i : Form) : (s.askBanks c i).nextId = s.nextId := by unfold State.askBanks; split <;> simp
@[simp] theorem State.askBanks_agenda (c : Ctx) (i : Form) : (s.askBanks c i).agenda = s.agenda := by unfold State.askBanks; split <;> simp
@[simp] theorem State.askBanks_cur (c : Ctx) (i : Form) : (s.askBanks c i).cur = s.cur := by unfold State.askBanks; split <;> simp
@[simp] theorem State.askBanks_mem (c : Ctx) (i : Form) : (s.askBanks c i).mem = s.mem := by unfold State.askBanks; split <;> simp
@[simp] theorem State.askBanks_poison (c : Ctx) (i : Form) : (s.askBanks c i).poison = s.poison := by unfold State.askBanks; split <;> simp
@[simp] theorem State.askBanks_dscr (c : Ctx) (i : Form) : (s.askBanks c i).dscr = s.dscr := by unfold State.askBanks; split <;> simp
@[simp] theorem State.askBanks_dies (c : Ctx) (i : Form) : (s.askBanks c i).dies = s.dies := by unfold State.askBanks; split <;> simp
@[simp] theorem State.askBanks_slices (c : Ctx) (i : Form) : (s.askBanks c i).slices = s.slices := by unfold State.askBanks; split <;> simp
@[simp] theorem State.askBanks_clsets (c : Ctx) (i : Form) : (s.askBanks c i).clsets = s.clsets := by unfold State.askBanks; split <;> simp
@[simp] theorem State.askBanks_vreg (c : Ctx) (i : Form) : (s.askBanks c i).vreg = s.vreg := by unfold State.askBanks; split <;> simp
@[simp] theorem State.askBanks_preg (c : Ctx) (i : Form) : (s.askBanks c i).preg = s.preg := by unfold State.askBanks; split <;> simp
@[simp] theorem State.askBanks_vfs (c : Ctx) (i : Form) : (s.askBanks c i).vfs = s.vfs := by unfold State.askBanks; split <;> simp
@[simp] theorem State.askBanks_jobs (c : Ctx) (i : Form) : (s.askBanks c i).jobs = s.jobs := by unfold State.askBanks; split <;> simp
@[simp] theorem State.askBanks_cardOrder (c : Ctx) (i : Form) : (s.askBanks c i).cardOrder = s.cardOrder := by unfold State.askBanks; split <;> simp
@[simp] theorem State.askBanks_parts (c : Ctx) (i : Form) : (s.askBanks c i).parts = s.parts := by unfold State.askBanks; split <;> simp
@[simp] theorem State.askBanks_hostBias (c : Ctx) (i : Form) : (s.askBanks c i).hostBias = s.hostBias := by unfold State.askBanks; split <;> simp
@[simp] theorem State.askBanks_frames (c : Ctx) (i : Form) : (s.askBanks c i).frames = s.frames := by unfold State.askBanks; split <;> simp
@[simp] theorem State.askBanks_ports (c : Ctx) (i : Form) : (s.askBanks c i).ports = s.ports := by unfold State.askBanks; split <;> simp
@[simp] theorem State.askBanks_sys (c : Ctx) (i : Form) : (s.askBanks c i).sys = s.sys := by unfold State.askBanks; split <;> simp
@[simp] theorem State.askBanks_hostRead (c : Ctx) (i : Form) : (s.askBanks c i).hostRead = s.hostRead := by unfold State.askBanks; split <;> simp
@[simp] theorem State.askBanks_snap (c : Ctx) (i : Form) : (s.askBanks c i).snap = s.snap := by unfold State.askBanks; split <;> simp
@[simp] theorem State.askBanks_readAt (c : Ctx) (i : Form) : (s.askBanks c i).readAt = s.readAt := by unfold State.askBanks; split <;> simp

@[simp] theorem State.countIssue_clock (c : Ctx) (i : Form) : (s.countIssue c i).clock = s.clock := by unfold State.countIssue; split <;> simp
@[simp] theorem State.countIssue_ref (c : Ctx) (i : Form) : (s.countIssue c i).ref = s.ref := by unfold State.countIssue; split <;> simp
@[simp] theorem State.countIssue_fresh (c : Ctx) (i : Form) : (s.countIssue c i).fresh = s.fresh := by unfold State.countIssue; split <;> simp
@[simp] theorem State.countIssue_nextId (c : Ctx) (i : Form) : (s.countIssue c i).nextId = s.nextId := by unfold State.countIssue; split <;> simp
@[simp] theorem State.countIssue_agenda (c : Ctx) (i : Form) : (s.countIssue c i).agenda = s.agenda := by unfold State.countIssue; split <;> simp
@[simp] theorem State.countIssue_cur (c : Ctx) (i : Form) : (s.countIssue c i).cur = s.cur := by unfold State.countIssue; split <;> simp
@[simp] theorem State.countIssue_mem (c : Ctx) (i : Form) : (s.countIssue c i).mem = s.mem := by unfold State.countIssue; split <;> simp
@[simp] theorem State.countIssue_poison (c : Ctx) (i : Form) : (s.countIssue c i).poison = s.poison := by unfold State.countIssue; split <;> simp
@[simp] theorem State.countIssue_dscr (c : Ctx) (i : Form) : (s.countIssue c i).dscr = s.dscr := by unfold State.countIssue; split <;> simp
@[simp] theorem State.countIssue_dies (c : Ctx) (i : Form) : (s.countIssue c i).dies = s.dies := by unfold State.countIssue; split <;> simp
@[simp] theorem State.countIssue_slices (c : Ctx) (i : Form) : (s.countIssue c i).slices = s.slices := by unfold State.countIssue; split <;> simp
@[simp] theorem State.countIssue_clsets (c : Ctx) (i : Form) : (s.countIssue c i).clsets = s.clsets := by unfold State.countIssue; split <;> simp
@[simp] theorem State.countIssue_vreg (c : Ctx) (i : Form) : (s.countIssue c i).vreg = s.vreg := by unfold State.countIssue; split <;> simp
@[simp] theorem State.countIssue_preg (c : Ctx) (i : Form) : (s.countIssue c i).preg = s.preg := by unfold State.countIssue; split <;> simp
@[simp] theorem State.countIssue_vfs (c : Ctx) (i : Form) : (s.countIssue c i).vfs = s.vfs := by unfold State.countIssue; split <;> simp
@[simp] theorem State.countIssue_jobs (c : Ctx) (i : Form) : (s.countIssue c i).jobs = s.jobs := by unfold State.countIssue; split <;> simp
@[simp] theorem State.countIssue_cardOrder (c : Ctx) (i : Form) : (s.countIssue c i).cardOrder = s.cardOrder := by unfold State.countIssue; split <;> simp
@[simp] theorem State.countIssue_parts (c : Ctx) (i : Form) : (s.countIssue c i).parts = s.parts := by unfold State.countIssue; split <;> simp
@[simp] theorem State.countIssue_hostBias (c : Ctx) (i : Form) : (s.countIssue c i).hostBias = s.hostBias := by unfold State.countIssue; split <;> simp
@[simp] theorem State.countIssue_frames (c : Ctx) (i : Form) : (s.countIssue c i).frames = s.frames := by unfold State.countIssue; split <;> simp
@[simp] theorem State.countIssue_ports (c : Ctx) (i : Form) : (s.countIssue c i).ports = s.ports := by unfold State.countIssue; split <;> simp
@[simp] theorem State.countIssue_sys (c : Ctx) (i : Form) : (s.countIssue c i).sys = s.sys := by unfold State.countIssue; split <;> simp
@[simp] theorem State.countIssue_hostRead (c : Ctx) (i : Form) : (s.countIssue c i).hostRead = s.hostRead := by unfold State.countIssue; split <;> simp
@[simp] theorem State.countIssue_snap (c : Ctx) (i : Form) : (s.countIssue c i).snap = s.snap := by unfold State.countIssue; split <;> simp
@[simp] theorem State.countIssue_readAt (c : Ctx) (i : Form) : (s.countIssue c i).readAt = s.readAt := by unfold State.countIssue; split <;> simp

@[simp] theorem State.countWrites_clock (c : Ctx) (i : Form) (g : Group) : (s.countWrites c i g).clock = s.clock := by unfold State.countWrites; split <;> simp
@[simp] theorem State.countWrites_ref (c : Ctx) (i : Form) (g : Group) : (s.countWrites c i g).ref = s.ref := by unfold State.countWrites; split <;> simp
@[simp] theorem State.countWrites_fresh (c : Ctx) (i : Form) (g : Group) : (s.countWrites c i g).fresh = s.fresh := by unfold State.countWrites; split <;> simp
@[simp] theorem State.countWrites_nextId (c : Ctx) (i : Form) (g : Group) : (s.countWrites c i g).nextId = s.nextId := by unfold State.countWrites; split <;> simp
@[simp] theorem State.countWrites_agenda (c : Ctx) (i : Form) (g : Group) : (s.countWrites c i g).agenda = s.agenda := by unfold State.countWrites; split <;> simp
@[simp] theorem State.countWrites_cur (c : Ctx) (i : Form) (g : Group) : (s.countWrites c i g).cur = s.cur := by unfold State.countWrites; split <;> simp
@[simp] theorem State.countWrites_mem (c : Ctx) (i : Form) (g : Group) : (s.countWrites c i g).mem = s.mem := by unfold State.countWrites; split <;> simp
@[simp] theorem State.countWrites_poison (c : Ctx) (i : Form) (g : Group) : (s.countWrites c i g).poison = s.poison := by unfold State.countWrites; split <;> simp
@[simp] theorem State.countWrites_dscr (c : Ctx) (i : Form) (g : Group) : (s.countWrites c i g).dscr = s.dscr := by unfold State.countWrites; split <;> simp
@[simp] theorem State.countWrites_dies (c : Ctx) (i : Form) (g : Group) : (s.countWrites c i g).dies = s.dies := by unfold State.countWrites; split <;> simp
@[simp] theorem State.countWrites_slices (c : Ctx) (i : Form) (g : Group) : (s.countWrites c i g).slices = s.slices := by unfold State.countWrites; split <;> simp
@[simp] theorem State.countWrites_clsets (c : Ctx) (i : Form) (g : Group) : (s.countWrites c i g).clsets = s.clsets := by unfold State.countWrites; split <;> simp
@[simp] theorem State.countWrites_vreg (c : Ctx) (i : Form) (g : Group) : (s.countWrites c i g).vreg = s.vreg := by unfold State.countWrites; split <;> simp
@[simp] theorem State.countWrites_preg (c : Ctx) (i : Form) (g : Group) : (s.countWrites c i g).preg = s.preg := by unfold State.countWrites; split <;> simp
@[simp] theorem State.countWrites_vfs (c : Ctx) (i : Form) (g : Group) : (s.countWrites c i g).vfs = s.vfs := by unfold State.countWrites; split <;> simp
@[simp] theorem State.countWrites_jobs (c : Ctx) (i : Form) (g : Group) : (s.countWrites c i g).jobs = s.jobs := by unfold State.countWrites; split <;> simp
@[simp] theorem State.countWrites_cardOrder (c : Ctx) (i : Form) (g : Group) : (s.countWrites c i g).cardOrder = s.cardOrder := by unfold State.countWrites; split <;> simp
@[simp] theorem State.countWrites_parts (c : Ctx) (i : Form) (g : Group) : (s.countWrites c i g).parts = s.parts := by unfold State.countWrites; split <;> simp
@[simp] theorem State.countWrites_hostBias (c : Ctx) (i : Form) (g : Group) : (s.countWrites c i g).hostBias = s.hostBias := by unfold State.countWrites; split <;> simp
@[simp] theorem State.countWrites_frames (c : Ctx) (i : Form) (g : Group) : (s.countWrites c i g).frames = s.frames := by unfold State.countWrites; split <;> simp
@[simp] theorem State.countWrites_ports (c : Ctx) (i : Form) (g : Group) : (s.countWrites c i g).ports = s.ports := by unfold State.countWrites; split <;> simp
@[simp] theorem State.countWrites_sys (c : Ctx) (i : Form) (g : Group) : (s.countWrites c i g).sys = s.sys := by unfold State.countWrites; split <;> simp
@[simp] theorem State.countWrites_hostRead (c : Ctx) (i : Form) (g : Group) : (s.countWrites c i g).hostRead = s.hostRead := by unfold State.countWrites; split <;> simp
@[simp] theorem State.countWrites_snap (c : Ctx) (i : Form) (g : Group) : (s.countWrites c i g).snap = s.snap := by unfold State.countWrites; split <;> simp
@[simp] theorem State.countWrites_readAt (c : Ctx) (i : Form) (g : Group) : (s.countWrites c i g).readAt = s.readAt := by unfold State.countWrites; split <;> simp

@[simp] theorem State.takePipe_clock (c : Ctx) (i : Form) : (s.takePipe c i).clock = s.clock := by unfold State.takePipe; dsimp only; split <;> simp
@[simp] theorem State.takePipe_ref (c : Ctx) (i : Form) : (s.takePipe c i).ref = s.ref := by unfold State.takePipe; dsimp only; split <;> simp
@[simp] theorem State.takePipe_fresh (c : Ctx) (i : Form) : (s.takePipe c i).fresh = s.fresh := by unfold State.takePipe; dsimp only; split <;> simp
@[simp] theorem State.takePipe_nextId (c : Ctx) (i : Form) : (s.takePipe c i).nextId = s.nextId := by unfold State.takePipe; dsimp only; split <;> simp
@[simp] theorem State.takePipe_agenda (c : Ctx) (i : Form) : (s.takePipe c i).agenda = s.agenda := by unfold State.takePipe; dsimp only; split <;> simp
@[simp] theorem State.takePipe_cur (c : Ctx) (i : Form) : (s.takePipe c i).cur = s.cur := by unfold State.takePipe; dsimp only; split <;> simp
@[simp] theorem State.takePipe_mem (c : Ctx) (i : Form) : (s.takePipe c i).mem = s.mem := by unfold State.takePipe; dsimp only; split <;> simp
@[simp] theorem State.takePipe_poison (c : Ctx) (i : Form) : (s.takePipe c i).poison = s.poison := by unfold State.takePipe; dsimp only; split <;> simp
@[simp] theorem State.takePipe_dscr (c : Ctx) (i : Form) : (s.takePipe c i).dscr = s.dscr := by unfold State.takePipe; dsimp only; split <;> simp
@[simp] theorem State.takePipe_dies (c : Ctx) (i : Form) : (s.takePipe c i).dies = s.dies := by unfold State.takePipe; dsimp only; split <;> simp
@[simp] theorem State.takePipe_slices (c : Ctx) (i : Form) : (s.takePipe c i).slices = s.slices := by unfold State.takePipe; dsimp only; split <;> simp
@[simp] theorem State.takePipe_clsets (c : Ctx) (i : Form) : (s.takePipe c i).clsets = s.clsets := by unfold State.takePipe; dsimp only; split <;> simp
@[simp] theorem State.takePipe_vreg (c : Ctx) (i : Form) : (s.takePipe c i).vreg = s.vreg := by unfold State.takePipe; dsimp only; split <;> simp
@[simp] theorem State.takePipe_preg (c : Ctx) (i : Form) : (s.takePipe c i).preg = s.preg := by unfold State.takePipe; dsimp only; split <;> simp
@[simp] theorem State.takePipe_vfs (c : Ctx) (i : Form) : (s.takePipe c i).vfs = s.vfs := by unfold State.takePipe; dsimp only; split <;> simp
@[simp] theorem State.takePipe_jobs (c : Ctx) (i : Form) : (s.takePipe c i).jobs = s.jobs := by unfold State.takePipe; dsimp only; split <;> simp
@[simp] theorem State.takePipe_cardOrder (c : Ctx) (i : Form) : (s.takePipe c i).cardOrder = s.cardOrder := by unfold State.takePipe; dsimp only; split <;> simp
@[simp] theorem State.takePipe_parts (c : Ctx) (i : Form) : (s.takePipe c i).parts = s.parts := by unfold State.takePipe; dsimp only; split <;> simp
@[simp] theorem State.takePipe_hostBias (c : Ctx) (i : Form) : (s.takePipe c i).hostBias = s.hostBias := by unfold State.takePipe; dsimp only; split <;> simp
@[simp] theorem State.takePipe_frames (c : Ctx) (i : Form) : (s.takePipe c i).frames = s.frames := by unfold State.takePipe; dsimp only; split <;> simp
@[simp] theorem State.takePipe_ports (c : Ctx) (i : Form) : (s.takePipe c i).ports = s.ports := by unfold State.takePipe; dsimp only; split <;> simp
@[simp] theorem State.takePipe_sys (c : Ctx) (i : Form) : (s.takePipe c i).sys = s.sys := by unfold State.takePipe; dsimp only; split <;> simp
@[simp] theorem State.takePipe_hostRead (c : Ctx) (i : Form) : (s.takePipe c i).hostRead = s.hostRead := by unfold State.takePipe; dsimp only; split <;> simp
@[simp] theorem State.takePipe_snap (c : Ctx) (i : Form) : (s.takePipe c i).snap = s.snap := by unfold State.takePipe; dsimp only; split <;> simp
@[simp] theorem State.takePipe_readAt (c : Ctx) (i : Form) : (s.takePipe c i).readAt = s.readAt := by unfold State.takePipe; dsimp only; split <;> simp

@[simp] theorem State.issues_clock (c : Ctx) (i : Form) : (s.issues c i).clock = s.clock := by unfold State.issues; split <;> simp
@[simp] theorem State.issues_ref (c : Ctx) (i : Form) : (s.issues c i).ref = s.ref := by unfold State.issues; split <;> simp
@[simp] theorem State.issues_fresh (c : Ctx) (i : Form) : (s.issues c i).fresh = s.fresh := by unfold State.issues; split <;> simp
@[simp] theorem State.issues_nextId (c : Ctx) (i : Form) : (s.issues c i).nextId = s.nextId := by unfold State.issues; split <;> simp
@[simp] theorem State.issues_agenda (c : Ctx) (i : Form) : (s.issues c i).agenda = s.agenda := by unfold State.issues; split <;> simp
@[simp] theorem State.issues_cur (c : Ctx) (i : Form) : (s.issues c i).cur = s.cur := by unfold State.issues; split <;> simp
@[simp] theorem State.issues_mem (c : Ctx) (i : Form) : (s.issues c i).mem = s.mem := by unfold State.issues; split <;> simp
@[simp] theorem State.issues_poison (c : Ctx) (i : Form) : (s.issues c i).poison = s.poison := by unfold State.issues; split <;> simp
@[simp] theorem State.issues_dscr (c : Ctx) (i : Form) : (s.issues c i).dscr = s.dscr := by unfold State.issues; split <;> simp
@[simp] theorem State.issues_dies (c : Ctx) (i : Form) : (s.issues c i).dies = s.dies := by unfold State.issues; split <;> simp
@[simp] theorem State.issues_slices (c : Ctx) (i : Form) : (s.issues c i).slices = s.slices := by unfold State.issues; split <;> simp
@[simp] theorem State.issues_clsets (c : Ctx) (i : Form) : (s.issues c i).clsets = s.clsets := by unfold State.issues; split <;> simp
@[simp] theorem State.issues_vreg (c : Ctx) (i : Form) : (s.issues c i).vreg = s.vreg := by unfold State.issues; split <;> simp
@[simp] theorem State.issues_preg (c : Ctx) (i : Form) : (s.issues c i).preg = s.preg := by unfold State.issues; split <;> simp
@[simp] theorem State.issues_vfs (c : Ctx) (i : Form) : (s.issues c i).vfs = s.vfs := by unfold State.issues; split <;> simp
@[simp] theorem State.issues_jobs (c : Ctx) (i : Form) : (s.issues c i).jobs = s.jobs := by unfold State.issues; split <;> simp
@[simp] theorem State.issues_cardOrder (c : Ctx) (i : Form) : (s.issues c i).cardOrder = s.cardOrder := by unfold State.issues; split <;> simp
@[simp] theorem State.issues_parts (c : Ctx) (i : Form) : (s.issues c i).parts = s.parts := by unfold State.issues; split <;> simp
@[simp] theorem State.issues_hostBias (c : Ctx) (i : Form) : (s.issues c i).hostBias = s.hostBias := by unfold State.issues; split <;> simp
@[simp] theorem State.issues_frames (c : Ctx) (i : Form) : (s.issues c i).frames = s.frames := by unfold State.issues; split <;> simp
@[simp] theorem State.issues_ports (c : Ctx) (i : Form) : (s.issues c i).ports = s.ports := by unfold State.issues; split <;> simp
@[simp] theorem State.issues_sys (c : Ctx) (i : Form) : (s.issues c i).sys = s.sys := by unfold State.issues; split <;> simp
@[simp] theorem State.issues_hostRead (c : Ctx) (i : Form) : (s.issues c i).hostRead = s.hostRead := by unfold State.issues; split <;> simp
@[simp] theorem State.issues_snap (c : Ctx) (i : Form) : (s.issues c i).snap = s.snap := by unfold State.issues; split <;> simp
@[simp] theorem State.issues_readAt (c : Ctx) (i : Form) : (s.issues c i).readAt = s.readAt := by unfold State.issues; split <;> simp

@[simp] theorem State.heldIssue_clock (c : Ctx) (i : Form) : (s.heldIssue c i).clock = s.clock := by unfold State.heldIssue; split <;> simp
@[simp] theorem State.heldIssue_ref (c : Ctx) (i : Form) : (s.heldIssue c i).ref = s.ref := by unfold State.heldIssue; split <;> simp
@[simp] theorem State.heldIssue_fresh (c : Ctx) (i : Form) : (s.heldIssue c i).fresh = s.fresh := by unfold State.heldIssue; split <;> simp
@[simp] theorem State.heldIssue_nextId (c : Ctx) (i : Form) : (s.heldIssue c i).nextId = s.nextId := by unfold State.heldIssue; split <;> simp
@[simp] theorem State.heldIssue_agenda (c : Ctx) (i : Form) : (s.heldIssue c i).agenda = s.agenda := by unfold State.heldIssue; split <;> simp
@[simp] theorem State.heldIssue_cur (c : Ctx) (i : Form) : (s.heldIssue c i).cur = s.cur := by unfold State.heldIssue; split <;> simp
@[simp] theorem State.heldIssue_mem (c : Ctx) (i : Form) : (s.heldIssue c i).mem = s.mem := by unfold State.heldIssue; split <;> simp
@[simp] theorem State.heldIssue_poison (c : Ctx) (i : Form) : (s.heldIssue c i).poison = s.poison := by unfold State.heldIssue; split <;> simp
@[simp] theorem State.heldIssue_dscr (c : Ctx) (i : Form) : (s.heldIssue c i).dscr = s.dscr := by unfold State.heldIssue; split <;> simp
@[simp] theorem State.heldIssue_dies (c : Ctx) (i : Form) : (s.heldIssue c i).dies = s.dies := by unfold State.heldIssue; split <;> simp
@[simp] theorem State.heldIssue_slices (c : Ctx) (i : Form) : (s.heldIssue c i).slices = s.slices := by unfold State.heldIssue; split <;> simp
@[simp] theorem State.heldIssue_clsets (c : Ctx) (i : Form) : (s.heldIssue c i).clsets = s.clsets := by unfold State.heldIssue; split <;> simp
@[simp] theorem State.heldIssue_vreg (c : Ctx) (i : Form) : (s.heldIssue c i).vreg = s.vreg := by unfold State.heldIssue; split <;> simp
@[simp] theorem State.heldIssue_preg (c : Ctx) (i : Form) : (s.heldIssue c i).preg = s.preg := by unfold State.heldIssue; split <;> simp
@[simp] theorem State.heldIssue_vfs (c : Ctx) (i : Form) : (s.heldIssue c i).vfs = s.vfs := by unfold State.heldIssue; split <;> simp
@[simp] theorem State.heldIssue_jobs (c : Ctx) (i : Form) : (s.heldIssue c i).jobs = s.jobs := by unfold State.heldIssue; split <;> simp
@[simp] theorem State.heldIssue_cardOrder (c : Ctx) (i : Form) : (s.heldIssue c i).cardOrder = s.cardOrder := by unfold State.heldIssue; split <;> simp
@[simp] theorem State.heldIssue_parts (c : Ctx) (i : Form) : (s.heldIssue c i).parts = s.parts := by unfold State.heldIssue; split <;> simp
@[simp] theorem State.heldIssue_hostBias (c : Ctx) (i : Form) : (s.heldIssue c i).hostBias = s.hostBias := by unfold State.heldIssue; split <;> simp
@[simp] theorem State.heldIssue_frames (c : Ctx) (i : Form) : (s.heldIssue c i).frames = s.frames := by unfold State.heldIssue; split <;> simp
@[simp] theorem State.heldIssue_ports (c : Ctx) (i : Form) : (s.heldIssue c i).ports = s.ports := by unfold State.heldIssue; split <;> simp
@[simp] theorem State.heldIssue_sys (c : Ctx) (i : Form) : (s.heldIssue c i).sys = s.sys := by unfold State.heldIssue; split <;> simp
@[simp] theorem State.heldIssue_hostRead (c : Ctx) (i : Form) : (s.heldIssue c i).hostRead = s.hostRead := by unfold State.heldIssue; split <;> simp
@[simp] theorem State.heldIssue_snap (c : Ctx) (i : Form) : (s.heldIssue c i).snap = s.snap := by unfold State.heldIssue; split <;> simp
@[simp] theorem State.heldIssue_readAt (c : Ctx) (i : Form) : (s.heldIssue c i).readAt = s.readAt := by unfold State.heldIssue; split <;> simp

@[simp] theorem State.issued_clock (c : Ctx) (i : Form) : (s.issued c i).clock = s.clock := by unfold State.issued; repeat' (first | split | simp)
@[simp] theorem State.issued_ref (c : Ctx) (i : Form) : (s.issued c i).ref = s.ref := by unfold State.issued; repeat' (first | split | simp)
@[simp] theorem State.issued_fresh (c : Ctx) (i : Form) : (s.issued c i).fresh = s.fresh := by unfold State.issued; repeat' (first | split | simp)
@[simp] theorem State.issued_nextId (c : Ctx) (i : Form) : (s.issued c i).nextId = s.nextId := by unfold State.issued; repeat' (first | split | simp)
@[simp] theorem State.issued_agenda (c : Ctx) (i : Form) : (s.issued c i).agenda = s.agenda := by unfold State.issued; repeat' (first | split | simp)
@[simp] theorem State.issued_cur (c : Ctx) (i : Form) : (s.issued c i).cur = s.cur := by unfold State.issued; repeat' (first | split | simp)
@[simp] theorem State.issued_mem (c : Ctx) (i : Form) : (s.issued c i).mem = s.mem := by unfold State.issued; repeat' (first | split | simp)
@[simp] theorem State.issued_poison (c : Ctx) (i : Form) : (s.issued c i).poison = s.poison := by unfold State.issued; repeat' (first | split | simp)
@[simp] theorem State.issued_dscr (c : Ctx) (i : Form) : (s.issued c i).dscr = s.dscr := by unfold State.issued; repeat' (first | split | simp)
@[simp] theorem State.issued_dies (c : Ctx) (i : Form) : (s.issued c i).dies = s.dies := by unfold State.issued; repeat' (first | split | simp)
@[simp] theorem State.issued_slices (c : Ctx) (i : Form) : (s.issued c i).slices = s.slices := by unfold State.issued; repeat' (first | split | simp)
@[simp] theorem State.issued_clsets (c : Ctx) (i : Form) : (s.issued c i).clsets = s.clsets := by unfold State.issued; repeat' (first | split | simp)
@[simp] theorem State.issued_vreg (c : Ctx) (i : Form) : (s.issued c i).vreg = s.vreg := by unfold State.issued; repeat' (first | split | simp)
@[simp] theorem State.issued_preg (c : Ctx) (i : Form) : (s.issued c i).preg = s.preg := by unfold State.issued; repeat' (first | split | simp)
@[simp] theorem State.issued_vfs (c : Ctx) (i : Form) : (s.issued c i).vfs = s.vfs := by unfold State.issued; repeat' (first | split | simp)
@[simp] theorem State.issued_jobs (c : Ctx) (i : Form) : (s.issued c i).jobs = s.jobs := by unfold State.issued; repeat' (first | split | simp)
@[simp] theorem State.issued_cardOrder (c : Ctx) (i : Form) : (s.issued c i).cardOrder = s.cardOrder := by unfold State.issued; repeat' (first | split | simp)
@[simp] theorem State.issued_parts (c : Ctx) (i : Form) : (s.issued c i).parts = s.parts := by unfold State.issued; repeat' (first | split | simp)
@[simp] theorem State.issued_hostBias (c : Ctx) (i : Form) : (s.issued c i).hostBias = s.hostBias := by unfold State.issued; repeat' (first | split | simp)
@[simp] theorem State.issued_frames (c : Ctx) (i : Form) : (s.issued c i).frames = s.frames := by unfold State.issued; repeat' (first | split | simp)
@[simp] theorem State.issued_ports (c : Ctx) (i : Form) : (s.issued c i).ports = s.ports := by unfold State.issued; repeat' (first | split | simp)
@[simp] theorem State.issued_sys (c : Ctx) (i : Form) : (s.issued c i).sys = s.sys := by unfold State.issued; repeat' (first | split | simp)
@[simp] theorem State.issued_hostRead (c : Ctx) (i : Form) : (s.issued c i).hostRead = s.hostRead := by unfold State.issued; repeat' (first | split | simp)
@[simp] theorem State.issued_snap (c : Ctx) (i : Form) : (s.issued c i).snap = s.snap := by unfold State.issued; repeat' (first | split | simp)
@[simp] theorem State.issued_readAt (c : Ctx) (i : Form) : (s.issued c i).readAt = s.readAt := by unfold State.issued; repeat' (first | split | simp)

@[simp] theorem State.withGroup_clock (c : Ctx) (f : Group → Group) : (s.withGroup c f).clock = s.clock := by simp [State.withGroup]
@[simp] theorem State.withGroup_ref (c : Ctx) (f : Group → Group) : (s.withGroup c f).ref = s.ref := by simp [State.withGroup]
@[simp] theorem State.withGroup_fresh (c : Ctx) (f : Group → Group) : (s.withGroup c f).fresh = s.fresh := by simp [State.withGroup]
@[simp] theorem State.withGroup_nextId (c : Ctx) (f : Group → Group) : (s.withGroup c f).nextId = s.nextId := by simp [State.withGroup]
@[simp] theorem State.withGroup_agenda (c : Ctx) (f : Group → Group) : (s.withGroup c f).agenda = s.agenda := by simp [State.withGroup]
@[simp] theorem State.withGroup_cur (c : Ctx) (f : Group → Group) : (s.withGroup c f).cur = s.cur := by simp [State.withGroup]
@[simp] theorem State.withGroup_mem (c : Ctx) (f : Group → Group) : (s.withGroup c f).mem = s.mem := by simp [State.withGroup]
@[simp] theorem State.withGroup_poison (c : Ctx) (f : Group → Group) : (s.withGroup c f).poison = s.poison := by simp [State.withGroup]
@[simp] theorem State.withGroup_dscr (c : Ctx) (f : Group → Group) : (s.withGroup c f).dscr = s.dscr := by simp [State.withGroup]
@[simp] theorem State.withGroup_dies (c : Ctx) (f : Group → Group) : (s.withGroup c f).dies = s.dies := by simp [State.withGroup]
@[simp] theorem State.withGroup_slices (c : Ctx) (f : Group → Group) : (s.withGroup c f).slices = s.slices := by simp [State.withGroup]
@[simp] theorem State.withGroup_clsets (c : Ctx) (f : Group → Group) : (s.withGroup c f).clsets = s.clsets := by simp [State.withGroup]
@[simp] theorem State.withGroup_vreg (c : Ctx) (f : Group → Group) : (s.withGroup c f).vreg = s.vreg := by simp [State.withGroup]
@[simp] theorem State.withGroup_preg (c : Ctx) (f : Group → Group) : (s.withGroup c f).preg = s.preg := by simp [State.withGroup]
@[simp] theorem State.withGroup_vfs (c : Ctx) (f : Group → Group) : (s.withGroup c f).vfs = s.vfs := by simp [State.withGroup]
@[simp] theorem State.withGroup_jobs (c : Ctx) (f : Group → Group) : (s.withGroup c f).jobs = s.jobs := by simp [State.withGroup]
@[simp] theorem State.withGroup_cardOrder (c : Ctx) (f : Group → Group) : (s.withGroup c f).cardOrder = s.cardOrder := by simp [State.withGroup]
@[simp] theorem State.withGroup_parts (c : Ctx) (f : Group → Group) : (s.withGroup c f).parts = s.parts := by simp [State.withGroup]
@[simp] theorem State.withGroup_hostBias (c : Ctx) (f : Group → Group) : (s.withGroup c f).hostBias = s.hostBias := by simp [State.withGroup]
@[simp] theorem State.withGroup_frames (c : Ctx) (f : Group → Group) : (s.withGroup c f).frames = s.frames := by simp [State.withGroup]
@[simp] theorem State.withGroup_ports (c : Ctx) (f : Group → Group) : (s.withGroup c f).ports = s.ports := by simp [State.withGroup]
@[simp] theorem State.withGroup_sys (c : Ctx) (f : Group → Group) : (s.withGroup c f).sys = s.sys := by simp [State.withGroup]
@[simp] theorem State.withGroup_hostRead (c : Ctx) (f : Group → Group) : (s.withGroup c f).hostRead = s.hostRead := by simp [State.withGroup]
@[simp] theorem State.withGroup_snap (c : Ctx) (f : Group → Group) : (s.withGroup c f).snap = s.snap := by simp [State.withGroup]
@[simp] theorem State.withGroup_readAt (c : Ctx) (f : Group → Group) : (s.withGroup c f).readAt = s.readAt := by simp [State.withGroup]

@[simp] theorem State.putS_clock (c : Ctx) (d : Nat) (v : DWord) : (s.putS c d v).clock = s.clock := by simp [State.putS]
@[simp] theorem State.putS_ref (c : Ctx) (d : Nat) (v : DWord) : (s.putS c d v).ref = s.ref := by simp [State.putS]
@[simp] theorem State.putS_fresh (c : Ctx) (d : Nat) (v : DWord) : (s.putS c d v).fresh = s.fresh := by simp [State.putS]
@[simp] theorem State.putS_nextId (c : Ctx) (d : Nat) (v : DWord) : (s.putS c d v).nextId = s.nextId := by simp [State.putS]
@[simp] theorem State.putS_agenda (c : Ctx) (d : Nat) (v : DWord) : (s.putS c d v).agenda = s.agenda := by simp [State.putS]
@[simp] theorem State.putS_cur (c : Ctx) (d : Nat) (v : DWord) : (s.putS c d v).cur = s.cur := by simp [State.putS]
@[simp] theorem State.putS_mem (c : Ctx) (d : Nat) (v : DWord) : (s.putS c d v).mem = s.mem := by simp [State.putS]
@[simp] theorem State.putS_poison (c : Ctx) (d : Nat) (v : DWord) : (s.putS c d v).poison = s.poison := by simp [State.putS]
@[simp] theorem State.putS_dscr (c : Ctx) (d : Nat) (v : DWord) : (s.putS c d v).dscr = s.dscr := by simp [State.putS]
@[simp] theorem State.putS_dies (c : Ctx) (d : Nat) (v : DWord) : (s.putS c d v).dies = s.dies := by simp [State.putS]
@[simp] theorem State.putS_slices (c : Ctx) (d : Nat) (v : DWord) : (s.putS c d v).slices = s.slices := by simp [State.putS]
@[simp] theorem State.putS_clsets (c : Ctx) (d : Nat) (v : DWord) : (s.putS c d v).clsets = s.clsets := by simp [State.putS]
@[simp] theorem State.putS_vreg (c : Ctx) (d : Nat) (v : DWord) : (s.putS c d v).vreg = s.vreg := by simp [State.putS]
@[simp] theorem State.putS_preg (c : Ctx) (d : Nat) (v : DWord) : (s.putS c d v).preg = s.preg := by simp [State.putS]
@[simp] theorem State.putS_vfs (c : Ctx) (d : Nat) (v : DWord) : (s.putS c d v).vfs = s.vfs := by simp [State.putS]
@[simp] theorem State.putS_jobs (c : Ctx) (d : Nat) (v : DWord) : (s.putS c d v).jobs = s.jobs := by simp [State.putS]
@[simp] theorem State.putS_cardOrder (c : Ctx) (d : Nat) (v : DWord) : (s.putS c d v).cardOrder = s.cardOrder := by simp [State.putS]
@[simp] theorem State.putS_parts (c : Ctx) (d : Nat) (v : DWord) : (s.putS c d v).parts = s.parts := by simp [State.putS]
@[simp] theorem State.putS_hostBias (c : Ctx) (d : Nat) (v : DWord) : (s.putS c d v).hostBias = s.hostBias := by simp [State.putS]
@[simp] theorem State.putS_frames (c : Ctx) (d : Nat) (v : DWord) : (s.putS c d v).frames = s.frames := by simp [State.putS]
@[simp] theorem State.putS_ports (c : Ctx) (d : Nat) (v : DWord) : (s.putS c d v).ports = s.ports := by simp [State.putS]
@[simp] theorem State.putS_sys (c : Ctx) (d : Nat) (v : DWord) : (s.putS c d v).sys = s.sys := by simp [State.putS]
@[simp] theorem State.putS_hostRead (c : Ctx) (d : Nat) (v : DWord) : (s.putS c d v).hostRead = s.hostRead := by simp [State.putS]
@[simp] theorem State.putS_snap (c : Ctx) (d : Nat) (v : DWord) : (s.putS c d v).snap = s.snap := by simp [State.putS]
@[simp] theorem State.putS_readAt (c : Ctx) (d : Nat) (v : DWord) : (s.putS c d v).readAt = s.readAt := by simp [State.putS]

@[simp] theorem State.modEng_clock (a : Nat) (f : Engine → Engine) : (s.modEng a f).clock = s.clock := by simp [State.modEng]
@[simp] theorem State.modEng_ref (a : Nat) (f : Engine → Engine) : (s.modEng a f).ref = s.ref := by simp [State.modEng]
@[simp] theorem State.modEng_fresh (a : Nat) (f : Engine → Engine) : (s.modEng a f).fresh = s.fresh := by simp [State.modEng]
@[simp] theorem State.modEng_nextId (a : Nat) (f : Engine → Engine) : (s.modEng a f).nextId = s.nextId := by simp [State.modEng]
@[simp] theorem State.modEng_agenda (a : Nat) (f : Engine → Engine) : (s.modEng a f).agenda = s.agenda := by simp [State.modEng]
@[simp] theorem State.modEng_cur (a : Nat) (f : Engine → Engine) : (s.modEng a f).cur = s.cur := by simp [State.modEng]
@[simp] theorem State.modEng_mem (a : Nat) (f : Engine → Engine) : (s.modEng a f).mem = s.mem := by simp [State.modEng]
@[simp] theorem State.modEng_poison (a : Nat) (f : Engine → Engine) : (s.modEng a f).poison = s.poison := by simp [State.modEng]
@[simp] theorem State.modEng_dscr (a : Nat) (f : Engine → Engine) : (s.modEng a f).dscr = s.dscr := by simp [State.modEng]
@[simp] theorem State.modEng_dies (a : Nat) (f : Engine → Engine) : (s.modEng a f).dies = s.dies := by simp [State.modEng]
@[simp] theorem State.modEng_slices (a : Nat) (f : Engine → Engine) : (s.modEng a f).slices = s.slices := by simp [State.modEng]
@[simp] theorem State.modEng_clsets (a : Nat) (f : Engine → Engine) : (s.modEng a f).clsets = s.clsets := by simp [State.modEng]
@[simp] theorem State.modEng_vreg (a : Nat) (f : Engine → Engine) : (s.modEng a f).vreg = s.vreg := by simp [State.modEng]
@[simp] theorem State.modEng_preg (a : Nat) (f : Engine → Engine) : (s.modEng a f).preg = s.preg := by simp [State.modEng]
@[simp] theorem State.modEng_vfs (a : Nat) (f : Engine → Engine) : (s.modEng a f).vfs = s.vfs := by simp [State.modEng]
@[simp] theorem State.modEng_jobs (a : Nat) (f : Engine → Engine) : (s.modEng a f).jobs = s.jobs := by simp [State.modEng]
@[simp] theorem State.modEng_cardOrder (a : Nat) (f : Engine → Engine) : (s.modEng a f).cardOrder = s.cardOrder := by simp [State.modEng]
@[simp] theorem State.modEng_parts (a : Nat) (f : Engine → Engine) : (s.modEng a f).parts = s.parts := by simp [State.modEng]
@[simp] theorem State.modEng_hostBias (a : Nat) (f : Engine → Engine) : (s.modEng a f).hostBias = s.hostBias := by simp [State.modEng]
@[simp] theorem State.modEng_frames (a : Nat) (f : Engine → Engine) : (s.modEng a f).frames = s.frames := by simp [State.modEng]
@[simp] theorem State.modEng_ports (a : Nat) (f : Engine → Engine) : (s.modEng a f).ports = s.ports := by simp [State.modEng]
@[simp] theorem State.modEng_sys (a : Nat) (f : Engine → Engine) : (s.modEng a f).sys = s.sys := by simp [State.modEng]
@[simp] theorem State.modEng_hostRead (a : Nat) (f : Engine → Engine) : (s.modEng a f).hostRead = s.hostRead := by simp [State.modEng]
@[simp] theorem State.modEng_snap (a : Nat) (f : Engine → Engine) : (s.modEng a f).snap = s.snap := by simp [State.modEng]
@[simp] theorem State.modEng_readAt (a : Nat) (f : Engine → Engine) : (s.modEng a f).readAt = s.readAt := by simp [State.modEng]

@[simp] theorem State.modTile_clock (a b : Nat) (f : Tile → Tile) : (s.modTile a b f).clock = s.clock := by simp [State.modTile]
@[simp] theorem State.modTile_ref (a b : Nat) (f : Tile → Tile) : (s.modTile a b f).ref = s.ref := by simp [State.modTile]
@[simp] theorem State.modTile_fresh (a b : Nat) (f : Tile → Tile) : (s.modTile a b f).fresh = s.fresh := by simp [State.modTile]
@[simp] theorem State.modTile_nextId (a b : Nat) (f : Tile → Tile) : (s.modTile a b f).nextId = s.nextId := by simp [State.modTile]
@[simp] theorem State.modTile_agenda (a b : Nat) (f : Tile → Tile) : (s.modTile a b f).agenda = s.agenda := by simp [State.modTile]
@[simp] theorem State.modTile_cur (a b : Nat) (f : Tile → Tile) : (s.modTile a b f).cur = s.cur := by simp [State.modTile]
@[simp] theorem State.modTile_mem (a b : Nat) (f : Tile → Tile) : (s.modTile a b f).mem = s.mem := by simp [State.modTile]
@[simp] theorem State.modTile_poison (a b : Nat) (f : Tile → Tile) : (s.modTile a b f).poison = s.poison := by simp [State.modTile]
@[simp] theorem State.modTile_dscr (a b : Nat) (f : Tile → Tile) : (s.modTile a b f).dscr = s.dscr := by simp [State.modTile]
@[simp] theorem State.modTile_dies (a b : Nat) (f : Tile → Tile) : (s.modTile a b f).dies = s.dies := by simp [State.modTile]
@[simp] theorem State.modTile_slices (a b : Nat) (f : Tile → Tile) : (s.modTile a b f).slices = s.slices := by simp [State.modTile]
@[simp] theorem State.modTile_clsets (a b : Nat) (f : Tile → Tile) : (s.modTile a b f).clsets = s.clsets := by simp [State.modTile]
@[simp] theorem State.modTile_vreg (a b : Nat) (f : Tile → Tile) : (s.modTile a b f).vreg = s.vreg := by simp [State.modTile]
@[simp] theorem State.modTile_preg (a b : Nat) (f : Tile → Tile) : (s.modTile a b f).preg = s.preg := by simp [State.modTile]
@[simp] theorem State.modTile_vfs (a b : Nat) (f : Tile → Tile) : (s.modTile a b f).vfs = s.vfs := by simp [State.modTile]
@[simp] theorem State.modTile_jobs (a b : Nat) (f : Tile → Tile) : (s.modTile a b f).jobs = s.jobs := by simp [State.modTile]
@[simp] theorem State.modTile_cardOrder (a b : Nat) (f : Tile → Tile) : (s.modTile a b f).cardOrder = s.cardOrder := by simp [State.modTile]
@[simp] theorem State.modTile_parts (a b : Nat) (f : Tile → Tile) : (s.modTile a b f).parts = s.parts := by simp [State.modTile]
@[simp] theorem State.modTile_hostBias (a b : Nat) (f : Tile → Tile) : (s.modTile a b f).hostBias = s.hostBias := by simp [State.modTile]
@[simp] theorem State.modTile_frames (a b : Nat) (f : Tile → Tile) : (s.modTile a b f).frames = s.frames := by simp [State.modTile]
@[simp] theorem State.modTile_ports (a b : Nat) (f : Tile → Tile) : (s.modTile a b f).ports = s.ports := by simp [State.modTile]
@[simp] theorem State.modTile_sys (a b : Nat) (f : Tile → Tile) : (s.modTile a b f).sys = s.sys := by simp [State.modTile]
@[simp] theorem State.modTile_hostRead (a b : Nat) (f : Tile → Tile) : (s.modTile a b f).hostRead = s.hostRead := by simp [State.modTile]
@[simp] theorem State.modTile_snap (a b : Nat) (f : Tile → Tile) : (s.modTile a b f).snap = s.snap := by simp [State.modTile]
@[simp] theorem State.modTile_readAt (a b : Nat) (f : Tile → Tile) : (s.modTile a b f).readAt = s.readAt := by simp [State.modTile]

@[simp] theorem State.modDq_clock (v q : Nat) (f : DQueue → DQueue) : (s.modDq v q f).clock = s.clock := by simp [State.modDq]
@[simp] theorem State.modDq_ref (v q : Nat) (f : DQueue → DQueue) : (s.modDq v q f).ref = s.ref := by simp [State.modDq]
@[simp] theorem State.modDq_fresh (v q : Nat) (f : DQueue → DQueue) : (s.modDq v q f).fresh = s.fresh := by simp [State.modDq]
@[simp] theorem State.modDq_nextId (v q : Nat) (f : DQueue → DQueue) : (s.modDq v q f).nextId = s.nextId := by simp [State.modDq]
@[simp] theorem State.modDq_agenda (v q : Nat) (f : DQueue → DQueue) : (s.modDq v q f).agenda = s.agenda := by simp [State.modDq]
@[simp] theorem State.modDq_cur (v q : Nat) (f : DQueue → DQueue) : (s.modDq v q f).cur = s.cur := by simp [State.modDq]
@[simp] theorem State.modDq_mem (v q : Nat) (f : DQueue → DQueue) : (s.modDq v q f).mem = s.mem := by simp [State.modDq]
@[simp] theorem State.modDq_poison (v q : Nat) (f : DQueue → DQueue) : (s.modDq v q f).poison = s.poison := by simp [State.modDq]
@[simp] theorem State.modDq_dscr (v q : Nat) (f : DQueue → DQueue) : (s.modDq v q f).dscr = s.dscr := by simp [State.modDq]
@[simp] theorem State.modDq_cores (v q : Nat) (f : DQueue → DQueue) : (s.modDq v q f).cores = s.cores := by simp [State.modDq]
@[simp] theorem State.modDq_dies (v q : Nat) (f : DQueue → DQueue) : (s.modDq v q f).dies = s.dies := by simp [State.modDq]
@[simp] theorem State.modDq_slices (v q : Nat) (f : DQueue → DQueue) : (s.modDq v q f).slices = s.slices := by simp [State.modDq]
@[simp] theorem State.modDq_clsets (v q : Nat) (f : DQueue → DQueue) : (s.modDq v q f).clsets = s.clsets := by simp [State.modDq]
@[simp] theorem State.modDq_vreg (v q : Nat) (f : DQueue → DQueue) : (s.modDq v q f).vreg = s.vreg := by simp [State.modDq]
@[simp] theorem State.modDq_preg (v q : Nat) (f : DQueue → DQueue) : (s.modDq v q f).preg = s.preg := by simp [State.modDq]
@[simp] theorem State.modDq_jobs (v q : Nat) (f : DQueue → DQueue) : (s.modDq v q f).jobs = s.jobs := by simp [State.modDq]
@[simp] theorem State.modDq_cardOrder (v q : Nat) (f : DQueue → DQueue) : (s.modDq v q f).cardOrder = s.cardOrder := by simp [State.modDq]
@[simp] theorem State.modDq_parts (v q : Nat) (f : DQueue → DQueue) : (s.modDq v q f).parts = s.parts := by simp [State.modDq]
@[simp] theorem State.modDq_hostBias (v q : Nat) (f : DQueue → DQueue) : (s.modDq v q f).hostBias = s.hostBias := by simp [State.modDq]
@[simp] theorem State.modDq_frames (v q : Nat) (f : DQueue → DQueue) : (s.modDq v q f).frames = s.frames := by simp [State.modDq]
@[simp] theorem State.modDq_ports (v q : Nat) (f : DQueue → DQueue) : (s.modDq v q f).ports = s.ports := by simp [State.modDq]
@[simp] theorem State.modDq_sys (v q : Nat) (f : DQueue → DQueue) : (s.modDq v q f).sys = s.sys := by simp [State.modDq]
@[simp] theorem State.modDq_hostRead (v q : Nat) (f : DQueue → DQueue) : (s.modDq v q f).hostRead = s.hostRead := by simp [State.modDq]
@[simp] theorem State.modDq_snap (v q : Nat) (f : DQueue → DQueue) : (s.modDq v q f).snap = s.snap := by simp [State.modDq]
@[simp] theorem State.modDq_readAt (v q : Nat) (f : DQueue → DQueue) : (s.modDq v q f).readAt = s.readAt := by simp [State.modDq]

@[simp] theorem State.modJq_clock (v q : Nat) (f : JQueue → JQueue) : (s.modJq v q f).clock = s.clock := by simp [State.modJq]
@[simp] theorem State.modJq_ref (v q : Nat) (f : JQueue → JQueue) : (s.modJq v q f).ref = s.ref := by simp [State.modJq]
@[simp] theorem State.modJq_fresh (v q : Nat) (f : JQueue → JQueue) : (s.modJq v q f).fresh = s.fresh := by simp [State.modJq]
@[simp] theorem State.modJq_nextId (v q : Nat) (f : JQueue → JQueue) : (s.modJq v q f).nextId = s.nextId := by simp [State.modJq]
@[simp] theorem State.modJq_agenda (v q : Nat) (f : JQueue → JQueue) : (s.modJq v q f).agenda = s.agenda := by simp [State.modJq]
@[simp] theorem State.modJq_cur (v q : Nat) (f : JQueue → JQueue) : (s.modJq v q f).cur = s.cur := by simp [State.modJq]
@[simp] theorem State.modJq_mem (v q : Nat) (f : JQueue → JQueue) : (s.modJq v q f).mem = s.mem := by simp [State.modJq]
@[simp] theorem State.modJq_poison (v q : Nat) (f : JQueue → JQueue) : (s.modJq v q f).poison = s.poison := by simp [State.modJq]
@[simp] theorem State.modJq_dscr (v q : Nat) (f : JQueue → JQueue) : (s.modJq v q f).dscr = s.dscr := by simp [State.modJq]
@[simp] theorem State.modJq_cores (v q : Nat) (f : JQueue → JQueue) : (s.modJq v q f).cores = s.cores := by simp [State.modJq]
@[simp] theorem State.modJq_dies (v q : Nat) (f : JQueue → JQueue) : (s.modJq v q f).dies = s.dies := by simp [State.modJq]
@[simp] theorem State.modJq_slices (v q : Nat) (f : JQueue → JQueue) : (s.modJq v q f).slices = s.slices := by simp [State.modJq]
@[simp] theorem State.modJq_clsets (v q : Nat) (f : JQueue → JQueue) : (s.modJq v q f).clsets = s.clsets := by simp [State.modJq]
@[simp] theorem State.modJq_vreg (v q : Nat) (f : JQueue → JQueue) : (s.modJq v q f).vreg = s.vreg := by simp [State.modJq]
@[simp] theorem State.modJq_preg (v q : Nat) (f : JQueue → JQueue) : (s.modJq v q f).preg = s.preg := by simp [State.modJq]
@[simp] theorem State.modJq_jobs (v q : Nat) (f : JQueue → JQueue) : (s.modJq v q f).jobs = s.jobs := by simp [State.modJq]
@[simp] theorem State.modJq_cardOrder (v q : Nat) (f : JQueue → JQueue) : (s.modJq v q f).cardOrder = s.cardOrder := by simp [State.modJq]
@[simp] theorem State.modJq_parts (v q : Nat) (f : JQueue → JQueue) : (s.modJq v q f).parts = s.parts := by simp [State.modJq]
@[simp] theorem State.modJq_hostBias (v q : Nat) (f : JQueue → JQueue) : (s.modJq v q f).hostBias = s.hostBias := by simp [State.modJq]
@[simp] theorem State.modJq_frames (v q : Nat) (f : JQueue → JQueue) : (s.modJq v q f).frames = s.frames := by simp [State.modJq]
@[simp] theorem State.modJq_ports (v q : Nat) (f : JQueue → JQueue) : (s.modJq v q f).ports = s.ports := by simp [State.modJq]
@[simp] theorem State.modJq_sys (v q : Nat) (f : JQueue → JQueue) : (s.modJq v q f).sys = s.sys := by simp [State.modJq]
@[simp] theorem State.modJq_hostRead (v q : Nat) (f : JQueue → JQueue) : (s.modJq v q f).hostRead = s.hostRead := by simp [State.modJq]
@[simp] theorem State.modJq_snap (v q : Nat) (f : JQueue → JQueue) : (s.modJq v q f).snap = s.snap := by simp [State.modJq]
@[simp] theorem State.modJq_readAt (v q : Nat) (f : JQueue → JQueue) : (s.modJq v q f).readAt = s.readAt := by simp [State.modJq]

@[simp] theorem State.delay_clock (n : Nat) (x : Late) : (s.delay n x).clock = s.clock := by simp [State.delay]
@[simp] theorem State.delay_ref (n : Nat) (x : Late) : (s.delay n x).ref = s.ref := by simp [State.delay]
@[simp] theorem State.delay_fresh (n : Nat) (x : Late) : (s.delay n x).fresh = s.fresh := by simp [State.delay]
@[simp] theorem State.delay_nextId (n : Nat) (x : Late) : (s.delay n x).nextId = s.nextId := by simp [State.delay]
@[simp] theorem State.delay_agenda (n : Nat) (x : Late) : (s.delay n x).agenda = s.agenda := by simp [State.delay]
@[simp] theorem State.delay_cur (n : Nat) (x : Late) : (s.delay n x).cur = s.cur := by simp [State.delay]
@[simp] theorem State.delay_mem (n : Nat) (x : Late) : (s.delay n x).mem = s.mem := by simp [State.delay]
@[simp] theorem State.delay_poison (n : Nat) (x : Late) : (s.delay n x).poison = s.poison := by simp [State.delay]
@[simp] theorem State.delay_dscr (n : Nat) (x : Late) : (s.delay n x).dscr = s.dscr := by simp [State.delay]
@[simp] theorem State.delay_cores (n : Nat) (x : Late) : (s.delay n x).cores = s.cores := by simp [State.delay]
@[simp] theorem State.delay_dies (n : Nat) (x : Late) : (s.delay n x).dies = s.dies := by simp [State.delay]
@[simp] theorem State.delay_slices (n : Nat) (x : Late) : (s.delay n x).slices = s.slices := by simp [State.delay]
@[simp] theorem State.delay_clsets (n : Nat) (x : Late) : (s.delay n x).clsets = s.clsets := by simp [State.delay]
@[simp] theorem State.delay_vreg (n : Nat) (x : Late) : (s.delay n x).vreg = s.vreg := by simp [State.delay]
@[simp] theorem State.delay_preg (n : Nat) (x : Late) : (s.delay n x).preg = s.preg := by simp [State.delay]
@[simp] theorem State.delay_jobs (n : Nat) (x : Late) : (s.delay n x).jobs = s.jobs := by simp [State.delay]
@[simp] theorem State.delay_cardOrder (n : Nat) (x : Late) : (s.delay n x).cardOrder = s.cardOrder := by simp [State.delay]
@[simp] theorem State.delay_parts (n : Nat) (x : Late) : (s.delay n x).parts = s.parts := by simp [State.delay]
@[simp] theorem State.delay_hostBias (n : Nat) (x : Late) : (s.delay n x).hostBias = s.hostBias := by simp [State.delay]
@[simp] theorem State.delay_frames (n : Nat) (x : Late) : (s.delay n x).frames = s.frames := by simp [State.delay]
@[simp] theorem State.delay_ports (n : Nat) (x : Late) : (s.delay n x).ports = s.ports := by simp [State.delay]
@[simp] theorem State.delay_sys (n : Nat) (x : Late) : (s.delay n x).sys = s.sys := by simp [State.delay]
@[simp] theorem State.delay_hostRead (n : Nat) (x : Late) : (s.delay n x).hostRead = s.hostRead := by simp [State.delay]
@[simp] theorem State.delay_snap (n : Nat) (x : Late) : (s.delay n x).snap = s.snap := by simp [State.delay]
@[simp] theorem State.delay_readAt (n : Nat) (x : Late) : (s.delay n x).readAt = s.readAt := by simp [State.delay]

@[simp] theorem State.park_clock (c : Ctx) (i : Form) (w : WaitRec) (r : Resume) : (s.park c i w r).clock = s.clock := by simp [State.park]
@[simp] theorem State.park_ref (c : Ctx) (i : Form) (w : WaitRec) (r : Resume) : (s.park c i w r).ref = s.ref := by simp [State.park]
@[simp] theorem State.park_fresh (c : Ctx) (i : Form) (w : WaitRec) (r : Resume) : (s.park c i w r).fresh = s.fresh := by simp [State.park]
@[simp] theorem State.park_nextId (c : Ctx) (i : Form) (w : WaitRec) (r : Resume) : (s.park c i w r).nextId = s.nextId := by simp [State.park]
@[simp] theorem State.park_agenda (c : Ctx) (i : Form) (w : WaitRec) (r : Resume) : (s.park c i w r).agenda = s.agenda := by simp [State.park]
@[simp] theorem State.park_cur (c : Ctx) (i : Form) (w : WaitRec) (r : Resume) : (s.park c i w r).cur = s.cur := by simp [State.park]
@[simp] theorem State.park_mem (c : Ctx) (i : Form) (w : WaitRec) (r : Resume) : (s.park c i w r).mem = s.mem := by simp [State.park]
@[simp] theorem State.park_poison (c : Ctx) (i : Form) (w : WaitRec) (r : Resume) : (s.park c i w r).poison = s.poison := by simp [State.park]
@[simp] theorem State.park_dscr (c : Ctx) (i : Form) (w : WaitRec) (r : Resume) : (s.park c i w r).dscr = s.dscr := by simp [State.park]
@[simp] theorem State.park_dies (c : Ctx) (i : Form) (w : WaitRec) (r : Resume) : (s.park c i w r).dies = s.dies := by simp [State.park]
@[simp] theorem State.park_slices (c : Ctx) (i : Form) (w : WaitRec) (r : Resume) : (s.park c i w r).slices = s.slices := by simp [State.park]
@[simp] theorem State.park_clsets (c : Ctx) (i : Form) (w : WaitRec) (r : Resume) : (s.park c i w r).clsets = s.clsets := by simp [State.park]
@[simp] theorem State.park_vreg (c : Ctx) (i : Form) (w : WaitRec) (r : Resume) : (s.park c i w r).vreg = s.vreg := by simp [State.park]
@[simp] theorem State.park_preg (c : Ctx) (i : Form) (w : WaitRec) (r : Resume) : (s.park c i w r).preg = s.preg := by simp [State.park]
@[simp] theorem State.park_vfs (c : Ctx) (i : Form) (w : WaitRec) (r : Resume) : (s.park c i w r).vfs = s.vfs := by simp [State.park]
@[simp] theorem State.park_jobs (c : Ctx) (i : Form) (w : WaitRec) (r : Resume) : (s.park c i w r).jobs = s.jobs := by simp [State.park]
@[simp] theorem State.park_cardOrder (c : Ctx) (i : Form) (w : WaitRec) (r : Resume) : (s.park c i w r).cardOrder = s.cardOrder := by simp [State.park]
@[simp] theorem State.park_parts (c : Ctx) (i : Form) (w : WaitRec) (r : Resume) : (s.park c i w r).parts = s.parts := by simp [State.park]
@[simp] theorem State.park_hostBias (c : Ctx) (i : Form) (w : WaitRec) (r : Resume) : (s.park c i w r).hostBias = s.hostBias := by simp [State.park]
@[simp] theorem State.park_frames (c : Ctx) (i : Form) (w : WaitRec) (r : Resume) : (s.park c i w r).frames = s.frames := by simp [State.park]
@[simp] theorem State.park_ports (c : Ctx) (i : Form) (w : WaitRec) (r : Resume) : (s.park c i w r).ports = s.ports := by simp [State.park]
@[simp] theorem State.park_sys (c : Ctx) (i : Form) (w : WaitRec) (r : Resume) : (s.park c i w r).sys = s.sys := by simp [State.park]
@[simp] theorem State.park_hostRead (c : Ctx) (i : Form) (w : WaitRec) (r : Resume) : (s.park c i w r).hostRead = s.hostRead := by simp [State.park]
@[simp] theorem State.park_snap (c : Ctx) (i : Form) (w : WaitRec) (r : Resume) : (s.park c i w r).snap = s.snap := by simp [State.park]
@[simp] theorem State.park_readAt (c : Ctx) (i : Form) (w : WaitRec) (r : Resume) : (s.park c i w r).readAt = s.readAt := by simp [State.park]

end Sys2Proof.Machine
end

