-- ==== Sys2Proof/Laws/Ops.lean ====
section
/-! SUPPORT. What each way of running an instruction or an event can do, said once: with everything an answer of a next
state can mean, and the answer of a body that succeeds. -/

namespace Sys2Proof.Machine

/-- All that an instruction run by `instr` can answer. -/
theorem instr_cases (i : Form) (body : Ctx → State → Except Trap State) (s : State) :
    (s.sys.stopped = true ∧ instr i body s = .fault .stopped) ∨
    (s.sys.stopped = false ∧ s.ctx? = none ∧ instr i body s = .refused .noIssuingGroup) ∨
    (∃ c t, s.sys.stopped = false ∧ s.ctx? = some c ∧ body c s = .error t ∧ instr i body s = .next ((s.trap c t).heldIssue c i)) ∨
    (∃ c u, s.sys.stopped = false ∧ s.ctx? = some c ∧ body c s = .ok u ∧ c.g.pc.next c.g.sv = none ∧
      instr i body s = .next (s.preciseOpen c fcLanding 2 c.g.mask)) ∨
    (∃ c u pc, s.sys.stopped = false ∧ s.ctx? = some c ∧ body c s = .ok u ∧ c.g.pc.next c.g.sv = some pc ∧
      instr i body s = .next ((u.modGroup c.core c.slot fun g => { g with pc := pc, completing := false }).issued c i)) := by
  unfold instr
  cases hs : s.sys.stopped with
  | true => simp
  | false =>
    cases hc : s.ctx? with
    | none => simp
    | some c =>
      cases hb : body c s with
      | error t => simp [hb]
      | ok u =>
        cases hp : c.g.pc.next c.g.sv with
        | none => simp [hb, hp]
        | some pc => simp [hb, hp]

theorem instr_ok {i : Form} {body : Ctx → State → Except Trap State} {s u : State} {c : Ctx} {pc : PC}
    (hs : s.sys.stopped = false) (hc : s.ctx? = some c) (hb : body c s = .ok u)
    (hp : c.g.pc.next c.g.sv = some pc) :
    instr i body s = .next ((u.modGroup c.core c.slot fun g => { g with pc := pc, completing := false }).issued c i) := by
  simp [instr, hs, hc, hb, hp]

theorem instr_trap {i : Form} {body : Ctx → State → Except Trap State} {s : State} {c : Ctx} {t : Trap}
    (hs : s.sys.stopped = false) (hc : s.ctx? = some c) (hb : body c s = .error t) :
    instr i body s = .next ((s.trap c t).heldIssue c i) := by
  simp [instr, hs, hc, hb]

theorem localInstr_ok {i : Form} {body : Ctx → Except Trap Group} {s : State} {c : Ctx} {g : Group} {pc : PC}
    (hs : s.sys.stopped = false) (hc : s.ctx? = some c) (hb : body c = .ok g)
    (hp : c.g.pc.next c.g.sv = some pc) :
    localInstr i body s =
      .next (((s.setGroup c.core c.slot g).modGroup c.core c.slot fun g => { g with pc := pc, completing := false }).issued c i) :=
  instr_ok hs hc (by simp [hb, Except.map]) hp

theorem jumpInstr_ok {i : Form} {body : Ctx → State → Except Trap State} {s u : State} {c : Ctx}
    (hs : s.sys.stopped = false) (hc : s.ctx? = some c) (hb : body c s = .ok u) :
    jumpInstr i body s = .next (u.issued c i) := by
  simp [jumpInstr, hs, hc, hb]

theorem jumpInstr_trap {i : Form} {body : Ctx → State → Except Trap State} {s : State} {c : Ctx} {t : Trap}
    (hs : s.sys.stopped = false) (hc : s.ctx? = some c) (hb : body c s = .error t) :
    jumpInstr i body s = .next ((s.trap c t).heldIssue c i) := by
  simp [jumpInstr, hs, hc, hb]

/-- Only a page fault of an access makes an instruction that does not complete count as issued. -/
theorem State.heldIssue_eq {s : State} {c : Ctx} {i : Form}
    (h : ∀ g, s.group? c.core c.slot = some g → g.resume ≠ .replay) : s.heldIssue c i = s := by
  unfold State.heldIssue
  cases hg : s.group? c.core c.slot with
  | none => simp
  | some g => simp [h g hg]

/-- A stall counts nothing. -/
theorem State.heldIssue_self {s : State} {c : Ctx} {i : Form} (h : s.group? c.core c.slot = some c.g) :
    s.heldIssue c i = s := by
  unfold State.heldIssue
  cases hr : c.g.resume == .replay <;> simp_all [bne]

theorem event_on {f : State → State} {s : State} (hs : s.sys.off = false) : event f s = .next (f s) := by
  simp [event, hs]

theorem event_off {f : State → State} {s : State} (hs : s.sys.off = true) : event f s = .fault .stopped := by
  simp [event, hs]

theorem coreEvent_running {f : State → State} {s : State} (ho : s.sys.off = false) (hs : s.sys.stopped = false) :
    coreEvent f s = .next (f s) := by
  simp [coreEvent, event, ho, hs]

theorem coreEvent_stopped {f : State → State} {s : State} (ho : s.sys.off = false) (hs : s.sys.stopped = true) :
    coreEvent f s = .next s := by
  simp [coreEvent, event, ho, hs]

theorem coreEvent_off {f : State → State} {s : State} (hs : s.sys.off = true) : coreEvent f s = .fault .stopped := event_off hs

theorem hostEvent_running {f : State → State} {s : State} (hs : s.sys.off = false)
    (hi : s.sys.identityOnly = false) : hostEvent f s = .next (f s) := by
  simp [hostEvent, event, hs, hi]

theorem instr_stopped {i : Form} {body : Ctx → State → Except Trap State} {s : State} (hs : s.sys.stopped = true) :
    instr i body s = .fault .stopped := by
  simp [instr, hs]

theorem localInstr_stopped {i : Form} {body : Ctx → Except Trap Group} {s : State} (hs : s.sys.stopped = true) :
    localInstr i body s = .fault .stopped := instr_stopped hs

theorem jumpInstr_stopped {i : Form} {body : Ctx → State → Except Trap State} {s : State} (hs : s.sys.stopped = true) :
    jumpInstr i body s = .fault .stopped := by
  simp [jumpInstr, hs]

theorem hostEvent_off {f : State → State} {s : State} (hs : s.sys.off = true) :
    hostEvent f s = .fault .stopped := event_off hs

/-! ## Groups -/

/-- A core that does not exist has no groups. -/
theorem State.group?_lt {s : State} {c n : Nat} {g : Group} (h : s.group? c n = some g) : c < 64 := by
  unfold State.group? State.core at h
  split at h
  · assumption
  · simp [nfind] at h

theorem State.core_setCore_self {s : State} {c : Nat} {k : Core} (h : c < 64) : (s.setCore c k).core c = k := by
  simp [State.setCore, State.core, h]

theorem State.core_setCore_ne {s : State} {c d : Nat} {k : Core} (h : d ≠ c) : (s.setCore c k).core d = s.core d := by
  unfold State.setCore
  split
  · unfold State.core
    split
    · simp [Ne.symm h]
    · rfl
  · rfl

/-- A stored group is the group then read. -/
theorem State.group?_setGroup_self {s : State} {c n : Nat} {g : Group} (h : c < 64) :
    (s.setGroup c n g).group? c n = some g := by
  simp [State.setGroup, State.modCore, State.group?, State.core_setCore_self h]

/-- Storing a group leaves every other group as it is. -/
theorem State.group?_setGroup_ne {s : State} {c n c' n' : Nat} {g : Group} (h : (c', n') ≠ (c, n)) :
    (s.setGroup c n g).group? c' n' = s.group? c' n' := by
  unfold State.setGroup State.modCore State.group?
  by_cases hc : c' = c
  · subst hc
    have hn : n' ≠ n := by intro e; exact h (by rw [e])
    by_cases hl : c' < 64
    · rw [State.core_setCore_self hl]; exact nfind_nins_ne _ _ hn
    · simp [State.setCore, hl]
  · rw [State.core_setCore_ne hc]

theorem State.group?_modGroup_ne {s : State} {c n c' n' : Nat} {f : Group → Group} (h : (c', n') ≠ (c, n)) :
    (s.modGroup c n f).group? c' n' = s.group? c' n' := by
  unfold State.modGroup
  split
  · exact State.group?_setGroup_ne h
  · rfl

theorem State.group?_modGroup_self {s : State} {c n : Nat} {f : Group → Group} {g : Group}
    (h : s.group? c n = some g) : (s.modGroup c n f).group? c n = some (f g) := by
  unfold State.modGroup
  rw [h]
  exact State.group?_setGroup_self (State.group?_lt h)

/-- What a context names is a group of the state. -/
theorem State.ctx?_group {s : State} {c : Ctx} (h : s.ctx? = some c) :
    s.group? c.core c.slot = some c.g ∧ c.core = s.cur.1 ∧ c.slot = s.cur.2 := by
  unfold State.ctx? State.ctxOf at h
  split at h
  · cases h
  · rename_i g hg
    simp only [Option.some.injEq] at h
    subst h
    exact ⟨hg, rfl, rfl⟩

end Sys2Proof.Machine
end

