-- ==== Sys2Proof/Laws/Cache.lean ====
section
/-! SUPPORT. What the cache operations can change: L2 keeps tags only, so an access to it changes slices, directories and
the free-value counter, and nothing else. -/

namespace Sys2Proof.Machine

/-- Two states that differ in their L2 slices, their dies and the free-value counter alone. -/
structure CacheOnly (s t : State) : Prop where
  eq : t = { s with slices := t.slices, dies := t.dies, fresh := t.fresh }

theorem CacheOnly.refl (s : State) : CacheOnly s s := ⟨rfl⟩

theorem CacheOnly.trans {s t u : State} (h : CacheOnly s t) (k : CacheOnly t u) : CacheOnly s u := by
  obtain ⟨h⟩ := h
  obtain ⟨k⟩ := k
  constructor
  rw [k, h]

theorem CacheOnly.mem {s t : State} (h : CacheOnly s t) : t.mem = s.mem := by rw [h.eq]
theorem CacheOnly.poison {s t : State} (h : CacheOnly s t) : t.poison = s.poison := by rw [h.eq]
theorem CacheOnly.dscr {s t : State} (h : CacheOnly s t) : t.dscr = s.dscr := by rw [h.eq]
theorem CacheOnly.cores {s t : State} (h : CacheOnly s t) : t.cores = s.cores := by rw [h.eq]
theorem CacheOnly.vfs {s t : State} (h : CacheOnly s t) : t.vfs = s.vfs := by rw [h.eq]
theorem CacheOnly.sys {s t : State} (h : CacheOnly s t) : t.sys = s.sys := by rw [h.eq]
theorem CacheOnly.clsets {s t : State} (h : CacheOnly s t) : t.clsets = s.clsets := by rw [h.eq]

theorem setSlice_cacheOnly (s : State) (i : Nat) (k : Slice) : CacheOnly s (s.setSlice i k) := ⟨rfl⟩

theorem modDie_cacheOnly (s : State) (d : Nat) (f : Die → Die) : CacheOnly s (s.modDie d f) := by
  unfold State.modDie State.setDie
  split
  · exact ⟨rfl⟩
  · exact .refl s

theorem free_cacheOnly (s : State) : CacheOnly s s.free.2 := ⟨rfl⟩

theorem ite_cacheOnly {s a b : State} (p : Prop) [Decidable p] (h : CacheOnly s a) (k : CacheOnly s b) :
    CacheOnly s (if p then a else b) := by
  split
  · exact h
  · exact k

/-- A fold of operations each of which stays within the caches. -/
theorem foldl_cacheOnly {α : Type} (l : List α) (f : State → α → State) (h : ∀ s a, CacheOnly s (f s a)) (s : State) :
    CacheOnly s (l.foldl f s) := by
  induction l generalizing s with
  | nil => exact .refl s
  | cons a t ih => exact (h s a).trans (ih _)

theorem dropFwd_cacheOnly (s : State) (d line : Nat) : CacheOnly s (s.dropFwd d line) := by
  refine foldl_cacheOnly _ _ (fun s j => ?_) s
  dsimp only
  split
  · exact setSlice_cacheOnly _ _ _
  · exact .refl s

theorem dropCopies_cacheOnly (s : State) (line : Nat) : CacheOnly s (s.dropCopies line) := by
  unfold State.dropCopies
  dsimp only
  split
  · exact .refl s
  · refine (modDie_cacheOnly s _ _).trans (foldl_cacheOnly _ _ (fun s i => ?_) _)
    split
    · exact setSlice_cacheOnly _ _ _
    · exact .refl s

theorem l2Fill_cacheOnly (s : State) (i line ctx hint : Nat) (kind : L2Kind) (dirty : Bool)
    (cl : Option Nat) : CacheOnly s (s.l2Fill i line ctx hint kind dirty cl) := by
  unfold State.l2Fill
  split
  · exact .refl s
  · split
    · exact .refl s
    · refine CacheOnly.trans ?_ (setSlice_cacheOnly _ _ _)
      split
      · exact .refl s
      · split
        · exact (setSlice_cacheOnly _ _ _).trans (dropFwd_cacheOnly _ _ _)
        · exact setSlice_cacheOnly _ _ _

theorem dropSlice_cacheOnly (s : State) (i : Nat) (p : L2Line → Bool) : CacheOnly s (s.dropSlice i p) :=
  setSlice_cacheOnly _ _ _

theorem l2Migrate_cacheOnly (s : State) (home i : Nat) (l : L2Line) (part : Nat) :
    CacheOnly s (s.l2Migrate home i l part) := by
  unfold State.l2Migrate
  dsimp only
  split
  · refine ite_cacheOnly _ ?_ (CacheOnly.trans ?_ (dropFwd_cacheOnly _ _ _)) <;>
      exact ((dropSlice_cacheOnly _ _ _).trans (setSlice_cacheOnly _ _ _)).trans (l2Fill_cacheOnly _ _ _ _ _ _ _ _)
  · exact setSlice_cacheOnly _ _ _

theorem sliceAccess_cacheOnly (s : State) (home i line ctx part hint : Nat) (cl : Option Nat) (kind : L2Kind)
    (w : Bool) : CacheOnly s (s.sliceAccess home i line ctx part hint cl kind w) := by
  unfold State.sliceAccess
  dsimp only
  split
  · split
    · exact (setSlice_cacheOnly _ _ _).trans (l2Migrate_cacheOnly _ _ _ _ _)
    · exact setSlice_cacheOnly _ _ _
  · have h : CacheOnly s (if (s.slice i).lines.any fun l => l.pa == line then
        s.setSlice i ((s.slice i).dropLines true fun l => l.pa == line) else s) := by
      split
      · exact setSlice_cacheOnly _ _ _
      · exact .refl s
    split
    · exact (h.trans (dropFwd_cacheOnly _ _ _)).trans (l2Fill_cacheOnly _ _ _ _ _ _ _ _)
    · exact h.trans (l2Fill_cacheOnly _ _ _ _ _ _ _ _)

theorem dirAdd_cacheOnly (s : State) (line die : Nat) : CacheOnly s (s.dirAdd line die) := by
  unfold State.dirAdd
  dsimp only
  refine CacheOnly.trans ?_ (modDie_cacheOnly _ _ _)
  split <;> split
  all_goals first
    | exact .refl s
    | (split
       · exact (free_cacheOnly s).trans (dropCopies_cacheOnly _ _)
       · exact free_cacheOnly s)

/-- An access to L2 changes slices, directories and the free-value counter alone. -/
theorem l2Access_cacheOnly (s : State) (core part ctx pa hint : Nat) (w : Bool) :
    CacheOnly s (s.l2Access core part ctx pa hint w) := by
  unfold State.l2Access
  dsimp only
  split
  · exact .refl s
  · split
    · exact (sliceAccess_cacheOnly _ _ _ _ _ _ _ _ _ _).trans (dropCopies_cacheOnly _ _)
    · split
      · exact sliceAccess_cacheOnly _ _ _ _ _ _ _ _ _ _
      · split
        · exact sliceAccess_cacheOnly _ _ _ _ _ _ _ _ _ _
        · refine ite_cacheOnly _ (sliceAccess_cacheOnly _ _ _ _ _ _ _ _ _ _) (ite_cacheOnly _ ?_ ?_)
          · exact ((sliceAccess_cacheOnly _ _ _ _ _ _ _ _ _ _).trans (sliceAccess_cacheOnly _ _ _ _ _ _ _ _ _ _)).trans
              (dirAdd_cacheOnly _ _ _)
          · exact (sliceAccess_cacheOnly _ _ _ _ _ _ _ _ _ _).trans (sliceAccess_cacheOnly _ _ _ _ _ _ _ _ _ _)

end Sys2Proof.Machine
end

