-- ==== Sys2Proof/Laws/Decode.lean ====
section
/-! SUPPORT. What the decoder of each format reads from the word that the encoder of that format writes. -/

namespace Sys2Proof

open Machine

theorem vnameOfCode_vnameCode (x : VName) : vnameOfCode (vnameCode x) = some x := by
  cases x with
  | age a => have := a.isLt; simp [vnameCode, vnameOfCode, this]
  | frame n =>
    have := n.isLt
    have h1 : ¬ (0x40 + n.val < 0x40) := by omega
    have h2 : 0x40 + n.val < 0x300 := by omega
    simp [vnameCode, vnameOfCode, h2]
  | konst n =>
    have := n.isLt
    have h1 : ¬ (0x300 + n.val < 0x40) := by omega
    have h2 : 0x300 + n.val < 0x380 := by omega
    simp [vnameCode, vnameOfCode, h1, h2]
  | scalar n =>
    have := n.isLt
    have h1 : ¬ (0x380 + n.val < 0x40) := by omega
    have h2 : ¬ (0x380 + n.val < 0x300) := by omega
    have h3 : 0x380 + n.val < 0x3C0 := by omega
    simp [vnameCode, vnameOfCode, h1, h2, h3]
  | special s => cases s <;> rfl
  | zero => rfl
  | imm => rfl

theorem vnameCode_lt (x : VName) : vnameCode x < 1024 := by
  cases x with
  | special s => cases s <;> decide
  | zero => decide
  | imm => decide
  | age n => have := n.isLt; simp only [vnameCode]; omega
  | frame n => have := n.isLt; simp only [vnameCode]; omega
  | konst n => have := n.isLt; simp only [vnameCode]; omega
  | scalar n => have := n.isLt; simp only [vnameCode]; omega

theorem snameOfCode_snameCode (x : SName) : snameOfCode (snameCode x) = some x := by
  cases x with
  | scalar a => have := a.isLt; simp [snameCode, snameOfCode, this]
  | konst n =>
    have := n.isLt
    have h1 : ¬ (0x40 + n.val < 0x40) := by omega
    have h2 : 0x40 + n.val < 0xC0 := by omega
    simp [snameCode, snameOfCode, h2]
  | _ => rfl

theorem snameCode_lt (x : SName) : snameCode x < 256 := by
  cases x with
  | scalar n => have := n.isLt; simp only [snameCode]; omega
  | konst n => have := n.isLt; simp only [snameCode]; omega
  | _ => decide

theorem tyOfCode_tyCode (t : Ty) : tyOfCode (tyCode t) = some t := by cases t <;> rfl
theorem tyCode_lt (t : Ty) : tyCode t < 16 := by cases t <;> decide
theorem scopeOfCode_scopeCode (x : Scope) : scopeOfCode (scopeCode x) = some x := by cases x <;> rfl
theorem scopeCode_lt (x : Scope) : scopeCode x < 8 := by cases x <;> decide

theorem guardOfCode_guardCode (g : Guard) : guardOfCode (guardCode g) = g := by
  obtain ⟨i, p⟩ := g
  revert i p
  decide

theorem guardCode_lt (g : Guard) : guardCode g < 16 := by
  obtain ⟨i, p⟩ := g
  revert i p
  decide

/-- The field that a concatenation holds above its low part. -/
theorem extract_append_high {m n lo len : Nat} (x : BitVec m) (y : BitVec n) (h : n ≤ lo) :
    (x ++ y).extractLsb' lo len = x.extractLsb' (lo - n) len := by
  ext i hi
  simp only [BitVec.getElem_extractLsb', BitVec.getLsbD_append]
  have : ¬ (lo + i < n) := by omega
  simp [this, show lo + i - n = lo - n + i by omega]

/-- The low part itself. -/
theorem extract_append_right {m n : Nat} (x : BitVec m) (y : BitVec n) : (x ++ y).extractLsb' 0 n = y := by
  ext i hi
  simp only [BitVec.getElem_extractLsb', BitVec.getLsbD_append]
  simp [hi]

theorem extract_all {n : Nat} (x : BitVec n) : x.extractLsb' 0 n = x := by
  ext i hi
  simp

theorem getLsbD_append_low {m n i : Nat} (x : BitVec m) (y : BitVec n) (h : i < n) :
    (x ++ y).getLsbD i = y.getLsbD i := by simp [BitVec.getLsbD_append, h]

theorem getLsbD_append_high {m n i : Nat} (x : BitVec m) (y : BitVec n) (h : n ≤ i) :
    (x ++ y).getLsbD i = x.getLsbD (i - n) := by
  have : ¬ i < n := by omega
  simp [BitVec.getLsbD_append, this]

theorem finBits_toNat {w n : Nat} (x : Fin n) (h : n ≤ 2 ^ w) : (finBits w x).toNat = x.val := by
  have := x.isLt
  simp only [finBits, BitVec.toNat_ofNat]
  exact Nat.mod_eq_of_lt (by omega)

theorem bit1_getLsbD (b : Bool) : (bit1 b).getLsbD 0 = b := by cases b <;> rfl

theorem vBits_toNat (x : VName) : (vBits x).toNat = vnameCode x := by
  simpa [vBits] using vnameCode_lt x

theorem sBits_toNat (x : SName) : (sBits x).toNat = snameCode x := by
  simpa [sBits] using snameCode_lt x

theorem gBits_toNat (g : Guard) : (gBits g).toNat = guardCode g := by
  simpa [gBits] using guardCode_lt g

theorem tyBits_toNat (t : Ty) : (BitVec.ofNat 4 (tyCode t)).toNat = tyCode t := by
  simpa using tyCode_lt t

theorem scopeBits_toNat (x : Scope) : (BitVec.ofNat 3 (scopeCode x)).toNat = scopeCode x := by
  simpa using scopeCode_lt x

theorem fld_wordV (op : Nat) (f : VOps) (lo len : Nat) : fld (wordV op f) lo len = (BitVec.extractLsb' lo len
    (BitVec.ofNat 9 op ++ gBits f.g1 ++ gBits f.g2 ++ vBits f.a ++ vBits f.b ++ vBits f.c ++
      BitVec.ofNat 4 (tyCode f.ty) ++ f.mod ++ f.imm ++ 0#1)).toNat := rfl

theorem ext_wordV (op : Nat) (f : VOps) (lo len : Nat) : (wordV op f).extractLsb' lo len = BitVec.extractLsb' lo len
    (BitVec.ofNat 9 op ++ gBits f.g1 ++ gBits f.g2 ++ vBits f.a ++ vBits f.b ++ vBits f.c ++
      BitVec.ofNat 4 (tyCode f.ty) ++ f.mod ++ f.imm ++ 0#1) := rfl

theorem bit_wordV (op : Nat) (f : VOps) (i : Nat) : (wordV op f).getLsbD i = BitVec.getLsbD
    (BitVec.ofNat 9 op ++ gBits f.g1 ++ gBits f.g2 ++ vBits f.a ++ vBits f.b ++ vBits f.c ++
      BitVec.ofNat 4 (tyCode f.ty) ++ f.mod ++ f.imm ++ 0#1) i := rfl

theorem fld_wordPlop (f : PlopOps) (lo len : Nat) : fld (wordPlop f) lo len = (BitVec.extractLsb' lo len
    (0x027#9 ++ gBits f.g1 ++ gBits f.g2 ++ 0x3E0#10 ++ 0x3E0#10 ++ 0x3E0#10 ++ 0#1 ++ finBits 3 f.pb ++
      f.table ++ 0#2 ++ finBits 3 f.pa ++ finBits 3 f.pd ++ 0#1)).toNat := rfl

theorem ext_wordPlop (f : PlopOps) (lo len : Nat) : (wordPlop f).extractLsb' lo len = BitVec.extractLsb' lo len
    (0x027#9 ++ gBits f.g1 ++ gBits f.g2 ++ 0x3E0#10 ++ 0x3E0#10 ++ 0x3E0#10 ++ 0#1 ++ finBits 3 f.pb ++
      f.table ++ 0#2 ++ finBits 3 f.pa ++ finBits 3 f.pd ++ 0#1) := rfl

theorem bit_wordPlop (f : PlopOps) (i : Nat) : (wordPlop f).getLsbD i = BitVec.getLsbD
    (0x027#9 ++ gBits f.g1 ++ gBits f.g2 ++ 0x3E0#10 ++ 0x3E0#10 ++ 0x3E0#10 ++ 0#1 ++ finBits 3 f.pb ++
      f.table ++ 0#2 ++ finBits 3 f.pa ++ finBits 3 f.pd ++ 0#1) i := rfl

theorem fld_wordS (op : Nat) (f : SOps) (lo len : Nat) : fld (wordS op f) lo len = (BitVec.extractLsb' lo len
    (BitVec.ofNat 9 op ++ gBits f.g1 ++ gBits f.g2 ++ finBits 6 f.d ++ sBits f.a ++ sBits f.b ++
      sBits f.c ++ BitVec.ofNat 4 (tyCode f.ty) ++ f.mod ++ f.imm ++ 0#1)).toNat := rfl

theorem ext_wordS (op : Nat) (f : SOps) (lo len : Nat) : (wordS op f).extractLsb' lo len = BitVec.extractLsb' lo len
    (BitVec.ofNat 9 op ++ gBits f.g1 ++ gBits f.g2 ++ finBits 6 f.d ++ sBits f.a ++ sBits f.b ++
      sBits f.c ++ BitVec.ofNat 4 (tyCode f.ty) ++ f.mod ++ f.imm ++ 0#1) := rfl

theorem bit_wordS (op : Nat) (f : SOps) (i : Nat) : (wordS op f).getLsbD i = BitVec.getLsbD
    (BitVec.ofNat 9 op ++ gBits f.g1 ++ gBits f.g2 ++ finBits 6 f.d ++ sBits f.a ++ sBits f.b ++
      sBits f.c ++ BitVec.ofNat 4 (tyCode f.ty) ++ f.mod ++ f.imm ++ 0#1) i := rfl

theorem fld_wordSmovi (f : SmoviOps) (lo len : Nat) : fld (wordSmovi f) lo len = (BitVec.extractLsb' lo len
    (0x0EE#9 ++ gBits f.g1 ++ gBits f.g2 ++ finBits 6 f.d ++ f.lit.extractLsb' 8 24 ++
      BitVec.ofNat 4 (tyCode f.ty) ++ 0#3 ++ bit1 f.hi ++ f.lit.extractLsb' 0 8 ++ 0#1)).toNat := rfl

theorem ext_wordSmovi (f : SmoviOps) (lo len : Nat) : (wordSmovi f).extractLsb' lo len = BitVec.extractLsb' lo len
    (0x0EE#9 ++ gBits f.g1 ++ gBits f.g2 ++ finBits 6 f.d ++ f.lit.extractLsb' 8 24 ++
      BitVec.ofNat 4 (tyCode f.ty) ++ 0#3 ++ bit1 f.hi ++ f.lit.extractLsb' 0 8 ++ 0#1) := rfl

theorem bit_wordSmovi (f : SmoviOps) (i : Nat) : (wordSmovi f).getLsbD i = BitVec.getLsbD
    (0x0EE#9 ++ gBits f.g1 ++ gBits f.g2 ++ finBits 6 f.d ++ f.lit.extractLsb' 8 24 ++
      BitVec.ofNat 4 (tyCode f.ty) ++ 0#3 ++ bit1 f.hi ++ f.lit.extractLsb' 0 8 ++ 0#1) i := rfl

theorem fld_wordM (op : Nat) (f : MOps) (lo len : Nat) : fld (wordM op f) lo len = (BitVec.extractLsb' lo len
    (BitVec.ofNat 9 op ++ gBits f.g1 ++ gBits f.g2 ++ finBits 6 f.base ++ vBits f.ofs ++ vBits f.data ++
      f.size ++ f.scale ++ BitVec.ofNat 3 (scopeCode f.scope) ++ f.order ++ f.hint ++ f.disp)).toNat := rfl

theorem ext_wordM (op : Nat) (f : MOps) (lo len : Nat) : (wordM op f).extractLsb' lo len = BitVec.extractLsb' lo len
    (BitVec.ofNat 9 op ++ gBits f.g1 ++ gBits f.g2 ++ finBits 6 f.base ++ vBits f.ofs ++ vBits f.data ++
      f.size ++ f.scale ++ BitVec.ofNat 3 (scopeCode f.scope) ++ f.order ++ f.hint ++ f.disp) := rfl

theorem bit_wordM (op : Nat) (f : MOps) (i : Nat) : (wordM op f).getLsbD i = BitVec.getLsbD
    (BitVec.ofNat 9 op ++ gBits f.g1 ++ gBits f.g2 ++ finBits 6 f.base ++ vBits f.ofs ++ vBits f.data ++
      f.size ++ f.scale ++ BitVec.ofNat 3 (scopeCode f.scope) ++ f.order ++ f.hint ++ f.disp) i := rfl

theorem fld_wordB (op : Nat) (f : BOps) (lo len : Nat) : fld (wordB op f) lo len = (BitVec.extractLsb' lo len
    (BitVec.ofNat 9 op ++ gBits f.g1 ++ gBits f.g2 ++ f.disp ++ f.disp2 ++ gBits f.cond ++ f.aux)).toNat := rfl

theorem ext_wordB (op : Nat) (f : BOps) (lo len : Nat) : (wordB op f).extractLsb' lo len = BitVec.extractLsb' lo len
    (BitVec.ofNat 9 op ++ gBits f.g1 ++ gBits f.g2 ++ f.disp ++ f.disp2 ++ gBits f.cond ++ f.aux) := rfl

theorem bit_wordB (op : Nat) (f : BOps) (i : Nat) : (wordB op f).getLsbD i = BitVec.getLsbD
    (BitVec.ofNat 9 op ++ gBits f.g1 ++ gBits f.g2 ++ f.disp ++ f.disp2 ++ gBits f.cond ++ f.aux) i := rfl

theorem fld_wordBI (op : Nat) (f : BIOps) (lo len : Nat) : fld (wordBI op f) lo len = (BitVec.extractLsb' lo len
    (BitVec.ofNat 9 op ++ gBits f.g1 ++ gBits f.g2 ++ finBits 6 f.t ++ 0#14 ++ 0#20 ++ 0#4 ++ f.aux)).toNat := rfl

theorem ext_wordBI (op : Nat) (f : BIOps) (lo len : Nat) : (wordBI op f).extractLsb' lo len = BitVec.extractLsb' lo len
    (BitVec.ofNat 9 op ++ gBits f.g1 ++ gBits f.g2 ++ finBits 6 f.t ++ 0#14 ++ 0#20 ++ 0#4 ++ f.aux) := rfl

theorem bit_wordBI (op : Nat) (f : BIOps) (i : Nat) : (wordBI op f).getLsbD i = BitVec.getLsbD
    (BitVec.ofNat 9 op ++ gBits f.g1 ++ gBits f.g2 ++ finBits 6 f.t ++ 0#14 ++ 0#20 ++ 0#4 ++ f.aux) i := rfl

theorem fld_wordE (op : Nat) (f : EOps) (lo len : Nat) : fld (wordE op f) lo len = (BitVec.extractLsb' lo len
    (BitVec.ofNat 9 op ++ gBits f.g1 ++ gBits f.g2 ++ finBits 2 f.tile ++ vBits f.an ++ finBits 6 f.p ++
      finBits 6 f.q ++ finBits 7 f.kix ++ f.cnt ++ bit1 f.reuse ++ bit1 f.commit ++ f.mode)).toNat := rfl

theorem ext_wordE (op : Nat) (f : EOps) (lo len : Nat) : (wordE op f).extractLsb' lo len = BitVec.extractLsb' lo len
    (BitVec.ofNat 9 op ++ gBits f.g1 ++ gBits f.g2 ++ finBits 2 f.tile ++ vBits f.an ++ finBits 6 f.p ++
      finBits 6 f.q ++ finBits 7 f.kix ++ f.cnt ++ bit1 f.reuse ++ bit1 f.commit ++ f.mode) := rfl

theorem bit_wordE (op : Nat) (f : EOps) (i : Nat) : (wordE op f).getLsbD i = BitVec.getLsbD
    (BitVec.ofNat 9 op ++ gBits f.g1 ++ gBits f.g2 ++ finBits 2 f.tile ++ vBits f.an ++ finBits 6 f.p ++
      finBits 6 f.q ++ finBits 7 f.kix ++ f.cnt ++ bit1 f.reuse ++ bit1 f.commit ++ f.mode) i := rfl

theorem fld_wordT (op : Nat) (f : TOps) (lo len : Nat) : fld (wordT op f) lo len = (BitVec.extractLsb' lo len
    (BitVec.ofNat 9 op ++ gBits f.g1 ++ gBits f.g2 ++ finBits 6 f.d ++ finBits 6 f.a ++ finBits 6 f.b ++
      finBits 7 f.kix ++ f.imm ++ f.op)).toNat := rfl

theorem ext_wordT (op : Nat) (f : TOps) (lo len : Nat) : (wordT op f).extractLsb' lo len = BitVec.extractLsb' lo len
    (BitVec.ofNat 9 op ++ gBits f.g1 ++ gBits f.g2 ++ finBits 6 f.d ++ finBits 6 f.a ++ finBits 6 f.b ++
      finBits 7 f.kix ++ f.imm ++ f.op) := rfl

theorem bit_wordT (op : Nat) (f : TOps) (i : Nat) : (wordT op f).getLsbD i = BitVec.getLsbD
    (BitVec.ofNat 9 op ++ gBits f.g1 ++ gBits f.g2 ++ finBits 6 f.d ++ finBits 6 f.a ++ finBits 6 f.b ++
      finBits 7 f.kix ++ f.imm ++ f.op) i := rfl

theorem decodeV_wordV (mk : VOps → Instr) (op : Nat) (f : VOps) : decodeV mk (wordV op f) = finish (mk f) false := by
  simp only [decodeV, guard1, guard2, fld_wordV, ext_wordV, bit_wordV, extract_append_high, extract_append_right, Nat.reduceLeDiff, Nat.reduceSub, Nat.sub_self, Nat.le_refl,
    getLsbD_append_low, Nat.reduceLT, vBits_toNat, gBits_toNat, tyBits_toNat, vnameOfCode_vnameCode, tyOfCode_tyCode,
    guardOfCode_guardCode]
  rfl

theorem decodePlop_wordPlop (f : PlopOps) : decodePlop (wordPlop f) = finish (.plop f) false := by
  have hz : vnameOfCode (BitVec.toNat 0x3E0#10) = some .zero := rfl
  have h16 : (wordPlop f).getLsbD 16 = false := by
    rw [bit_wordPlop]
    simp only [getLsbD_append_high, getLsbD_append_low, Nat.reduceLeDiff, Nat.reduceSub, Nat.reduceLT]
    rfl
  have h0 : (wordPlop f).getLsbD 0 = false := by
    rw [bit_wordPlop]
    simp only [getLsbD_append_low, Nat.reduceLT]
    rfl
  simp only [decodePlop, guard1, guard2, fld_wordPlop, ext_wordPlop, h16, h0, extract_append_high, extract_append_right, Nat.reduceLeDiff, Nat.reduceSub, Nat.sub_self, Nat.le_refl,
    gBits_toNat, guardOfCode_guardCode, hz, finBits_toNat, fin8, Nat.reducePow]
  simp [Nat.mod_eq_of_lt]

theorem decodeS_wordS (mk : SOps → Instr) (op : Nat) (f : SOps) : decodeS mk (wordS op f) = finish (mk f) false := by
  simp only [decodeS, guard1, guard2, fld_wordS, ext_wordS, bit_wordS, extract_append_high, extract_append_right, Nat.reduceLeDiff, Nat.reduceSub, Nat.sub_self, Nat.le_refl,
    getLsbD_append_low, Nat.reduceLT, sBits_toNat, gBits_toNat, tyBits_toNat, snameOfCode_snameCode, tyOfCode_tyCode,
    guardOfCode_guardCode, finBits_toNat, fin64, Nat.reducePow]
  simp [Nat.mod_eq_of_lt]

theorem decodeSmovi_wordSmovi (f : SmoviOps) (h : breach (.smovi f) = none) :
    decodeSmovi (wordSmovi f) = .ok (.smovi f) := by
  have h9 : (wordSmovi f).getLsbD 9 = f.hi := by
    rw [bit_wordSmovi]
    simp only [getLsbD_append_high, getLsbD_append_low, Nat.reduceLeDiff, Nat.reduceSub, Nat.reduceLT, Nat.sub_self,
      Nat.le_refl]
    exact bit1_getLsbD f.hi
  have h0 : (wordSmovi f).getLsbD 0 = false := by
    rw [bit_wordSmovi]
    simp only [getLsbD_append_low, Nat.reduceLT]
    rfl
  have hl : f.lit.extractLsb' 8 24 ++ f.lit.extractLsb' 0 8 = f.lit := by
    apply BitVec.eq_of_getLsbD_eq
    intro i hi
    rw [BitVec.getLsbD_append]
    split
    · simp [*]
    · have : i - 8 < 24 := by omega
      simp [this, show 8 + (i - 8) = i by omega]
  simp only [decodeSmovi, guard1, guard2, fld_wordSmovi, ext_wordSmovi, h9, h0, extract_append_high, extract_append_right, Nat.reduceLeDiff, Nat.reduceSub, Nat.sub_self, Nat.le_refl,
    gBits_toNat, tyBits_toNat, tyOfCode_tyCode, guardOfCode_guardCode, finBits_toNat, fin64, Nat.reducePow, hl]
  simp [Nat.mod_eq_of_lt, finish, h]

theorem decodeM_wordM (n : Nat) (mk : MOps → Instr) (op : Nat) (f : MOps) :
    decodeM n mk (wordM op f) = finish (mk f) false := by
  simp only [decodeM, guard1, guard2, fld_wordM, ext_wordM, extract_append_high, extract_append_right, Nat.reduceLeDiff, Nat.reduceSub, Nat.sub_self, Nat.le_refl,
    vBits_toNat, gBits_toNat, scopeBits_toNat, vnameOfCode_vnameCode, scopeOfCode_scopeCode, guardOfCode_guardCode,
    finBits_toNat, fin64, Nat.reducePow]
  simp [Nat.mod_eq_of_lt]

theorem decodeB_wordB (mk : BOps → Instr) (op : Nat) (f : BOps) : decodeB mk (wordB op f) = finish (mk f) false := by
  simp only [decodeB, guard1, guard2, fld_wordB, ext_wordB, extract_append_high, extract_append_right, Nat.reduceLeDiff, Nat.reduceSub, Nat.sub_self, Nat.le_refl, gBits_toNat, guardOfCode_guardCode]

theorem decodeBI_wordBI (mk : BIOps → Instr) (op : Nat) (f : BIOps) : decodeBI mk (wordBI op f) = finish (mk f) false := by
  simp only [decodeBI, guard1, guard2, fld_wordBI, ext_wordBI, extract_append_high, extract_append_right, Nat.reduceLeDiff, Nat.reduceSub, Nat.sub_self, Nat.le_refl, gBits_toNat, guardOfCode_guardCode, finBits_toNat,
    fin64, Nat.reducePow]
  simp [Nat.mod_eq_of_lt]

theorem decodeE_wordE (mk : EOps → Instr) (op : Nat) (f : EOps) : decodeE mk (wordE op f) = finish (mk f) false := by
  have h7 : (wordE op f).getLsbD 7 = f.reuse := by
    rw [bit_wordE]
    simp only [getLsbD_append_high, getLsbD_append_low, Nat.reduceLeDiff, Nat.reduceSub, Nat.reduceLT, Nat.sub_self,
      Nat.le_refl]
    exact bit1_getLsbD f.reuse
  have h6 : (wordE op f).getLsbD 6 = f.commit := by
    rw [bit_wordE]
    simp only [getLsbD_append_high, getLsbD_append_low, Nat.reduceLT, Nat.sub_self, Nat.le_refl]
    exact bit1_getLsbD f.commit
  simp only [decodeE, guard1, guard2, fld_wordE, ext_wordE, h6, h7, extract_append_high, extract_append_right, Nat.reduceLeDiff, Nat.reduceSub, Nat.sub_self, Nat.le_refl,
    vBits_toNat, gBits_toNat, vnameOfCode_vnameCode, guardOfCode_guardCode, finBits_toNat, fin64, fin4, fin128,
    Nat.reducePow]
  simp [Nat.mod_eq_of_lt]

theorem decodeT_wordT (mk : TOps → Instr) (op : Nat) (f : TOps) : decodeT mk (wordT op f) = finish (mk f) false := by
  simp only [decodeT, guard1, guard2, fld_wordT, ext_wordT, extract_append_high, extract_append_right, Nat.reduceLeDiff, Nat.reduceSub, Nat.sub_self, Nat.le_refl,
    gBits_toNat, guardOfCode_guardCode, finBits_toNat, fin64, fin128, Nat.reducePow]
  simp [Nat.mod_eq_of_lt]

theorem op_wordV (op : Nat) (f : VOps) : fld (wordV op f) 55 9 = op % 512 := by
  rw [fld_wordV]
  simp only [extract_append_high, Nat.reduceLeDiff, Nat.reduceSub, Nat.sub_self, Nat.le_refl, extract_all, BitVec.toNat_ofNat, Nat.reducePow]

theorem op_wordS (op : Nat) (f : SOps) : fld (wordS op f) 55 9 = op % 512 := by
  rw [fld_wordS]
  simp only [extract_append_high, Nat.reduceLeDiff, Nat.reduceSub, Nat.sub_self, Nat.le_refl, extract_all, BitVec.toNat_ofNat, Nat.reducePow]

theorem op_wordM (op : Nat) (f : MOps) : fld (wordM op f) 55 9 = op % 512 := by
  rw [fld_wordM]
  simp only [extract_append_high, Nat.reduceLeDiff, Nat.reduceSub, Nat.sub_self, Nat.le_refl, extract_all, BitVec.toNat_ofNat, Nat.reducePow]

theorem op_wordB (op : Nat) (f : BOps) : fld (wordB op f) 55 9 = op % 512 := by
  rw [fld_wordB]
  simp only [extract_append_high, Nat.reduceLeDiff, Nat.reduceSub, Nat.sub_self, Nat.le_refl, extract_all, BitVec.toNat_ofNat, Nat.reducePow]

theorem op_wordBI (op : Nat) (f : BIOps) : fld (wordBI op f) 55 9 = op % 512 := by
  rw [fld_wordBI]
  simp only [extract_append_high, Nat.reduceLeDiff, Nat.reduceSub, Nat.sub_self, Nat.le_refl, extract_all, BitVec.toNat_ofNat, Nat.reducePow]

theorem op_wordE (op : Nat) (f : EOps) : fld (wordE op f) 55 9 = op % 512 := by
  rw [fld_wordE]
  simp only [extract_append_high, Nat.reduceLeDiff, Nat.reduceSub, Nat.sub_self, Nat.le_refl, extract_all, BitVec.toNat_ofNat, Nat.reducePow]

theorem op_wordT (op : Nat) (f : TOps) : fld (wordT op f) 55 9 = op % 512 := by
  rw [fld_wordT]
  simp only [extract_append_high, Nat.reduceLeDiff, Nat.reduceSub, Nat.sub_self, Nat.le_refl, extract_all, BitVec.toNat_ofNat, Nat.reducePow]

theorem op_wordPlop (f : PlopOps) : fld (wordPlop f) 55 9 = 0x027 := by
  rw [fld_wordPlop]
  simp only [extract_append_high, Nat.reduceLeDiff, Nat.reduceSub, Nat.sub_self, Nat.le_refl, extract_all]
  rfl

theorem op_wordSmovi (f : SmoviOps) : fld (wordSmovi f) 55 9 = 0x0EE := by
  rw [fld_wordSmovi]
  simp only [extract_append_high, Nat.reduceLeDiff, Nat.reduceSub, Nat.sub_self, Nat.le_refl, extract_all]
  rfl

/-- A word of format V whose opcode is one of the format's decodes to that instruction, unless a field is refused. -/
theorem decode_wordV {op : Nat} {mk : VOps → Instr} (hop : op < 512)
    (h : mkV op = some mk) (h1 : op ≠ 0x027) (h2 : op ≠ 0x0EE) (f : VOps) :
    decode (wordV op f) = finish (mk f) false := by
  have ho : fld (wordV op f) 55 9 = op := by rw [op_wordV]; exact Nat.mod_eq_of_lt hop
  simp only [decode, ho, h1, h2, if_false, h]
  exact decodeV_wordV mk op f

/-- A word of format S whose opcode is one of the format's decodes to that instruction, unless a field is refused. -/
theorem decode_wordS {op : Nat} {mk : SOps → Instr} (hop : op < 512) (hV : mkV op = none)
    (h : mkS op = some mk) (h1 : op ≠ 0x027) (h2 : op ≠ 0x0EE) (f : SOps) :
    decode (wordS op f) = finish (mk f) false := by
  have ho : fld (wordS op f) 55 9 = op := by rw [op_wordS]; exact Nat.mod_eq_of_lt hop
  simp only [decode, ho, h1, h2, if_false, hV, h]
  exact decodeS_wordS mk op f

/-- A word of format M whose opcode is one of the format's decodes to that instruction, unless a field is refused. -/
theorem decode_wordM {op : Nat} {mk : MOps → Instr} (hop : op < 512) (hV : mkV op = none) (hS : mkS op = none)
    (h : mkM op = some mk) (h1 : op ≠ 0x027) (h2 : op ≠ 0x0EE) (f : MOps) :
    decode (wordM op f) = finish (mk f) false := by
  have ho : fld (wordM op f) 55 9 = op := by rw [op_wordM]; exact Nat.mod_eq_of_lt hop
  simp only [decode, ho, h1, h2, if_false, hV, hS, h]
  exact decodeM_wordM op mk op f

/-- A word of format B whose opcode is one of the format's decodes to that instruction, unless a field is refused. -/
theorem decode_wordB {op : Nat} {mk : BOps → Instr} (hop : op < 512) (hV : mkV op = none) (hS : mkS op = none) (hM : mkM op = none)
    (h : mkB op = some mk) (h1 : op ≠ 0x027) (h2 : op ≠ 0x0EE) (f : BOps) :
    decode (wordB op f) = finish (mk f) false := by
  have ho : fld (wordB op f) 55 9 = op := by rw [op_wordB]; exact Nat.mod_eq_of_lt hop
  simp only [decode, ho, h1, h2, if_false, hV, hS, hM, h]
  exact decodeB_wordB mk op f

/-- A word of format BI whose opcode is one of the format's decodes to that instruction, unless a field is refused. -/
theorem decode_wordBI {op : Nat} {mk : BIOps → Instr} (hop : op < 512) (hV : mkV op = none) (hS : mkS op = none) (hM : mkM op = none) (hB : mkB op = none)
    (h : mkBI op = some mk) (h1 : op ≠ 0x027) (h2 : op ≠ 0x0EE) (f : BIOps) :
    decode (wordBI op f) = finish (mk f) false := by
  have ho : fld (wordBI op f) 55 9 = op := by rw [op_wordBI]; exact Nat.mod_eq_of_lt hop
  simp only [decode, ho, h1, h2, if_false, hV, hS, hM, hB, h]
  exact decodeBI_wordBI mk op f

/-- A word of format E whose opcode is one of the format's decodes to that instruction, unless a field is refused. -/
theorem decode_wordE {op : Nat} {mk : EOps → Instr} (hop : op < 512) (hV : mkV op = none) (hS : mkS op = none) (hM : mkM op = none) (hB : mkB op = none) (hBI : mkBI op = none)
    (h : mkE op = some mk) (h1 : op ≠ 0x027) (h2 : op ≠ 0x0EE) (f : EOps) :
    decode (wordE op f) = finish (mk f) false := by
  have ho : fld (wordE op f) 55 9 = op := by rw [op_wordE]; exact Nat.mod_eq_of_lt hop
  simp only [decode, ho, h1, h2, if_false, hV, hS, hM, hB, hBI, h]
  exact decodeE_wordE mk op f

/-- A word of format T whose opcode is one of the format's decodes to that instruction, unless a field is refused. -/
theorem decode_wordT {op : Nat} {mk : TOps → Instr} (hop : op < 512) (hV : mkV op = none) (hS : mkS op = none) (hM : mkM op = none) (hB : mkB op = none) (hBI : mkBI op = none) (hE : mkE op = none)
    (h : mkT op = some mk) (h1 : op ≠ 0x027) (h2 : op ≠ 0x0EE) (f : TOps) :
    decode (wordT op f) = finish (mk f) false := by
  have ho : fld (wordT op f) 55 9 = op := by rw [op_wordT]; exact Nat.mod_eq_of_lt hop
  simp only [decode, ho, h1, h2, if_false, hV, hS, hM, hB, hBI, hE, h]
  exact decodeT_wordT mk op f

theorem decode_wordPlop (f : PlopOps) : decode (wordPlop f) = finish (.plop f) false := by
  simp only [decode, op_wordPlop, if_true]
  exact decodePlop_wordPlop f

theorem decode_wordSmovi (f : SmoviOps) (h : breach (.smovi f) = none) : decode (wordSmovi f) = .ok (.smovi f) := by
  simp only [decode, op_wordSmovi]
  exact decodeSmovi_wordSmovi f h

theorem finish_wf {i : Instr} (h : i.wf = true) : finish i false = .ok i := by
  have hb : breach i = none := by simpa [Instr.wf] using h
  simp [finish, hb]

end Sys2Proof
end

