-- ==== Sys2Proof/Laws/Instr.lean ====
section
/-! SUPPORT. What the shared ways of running a family of instructions answer: the lane-by-lane vector instructions, the
exchanges, the scalar instructions. -/

namespace Sys2Proof.Machine

/-- A mask that is there and sound. -/
theorem Ctx.maskReady_ok {c : Ctx} (h : c.maskReady = .ok ()) : c.maskWait = .ok () ∧ c.maskSound = .ok () := by
  unfold Ctx.maskReady at h
  cases hw : c.maskWait with
  | error e => simp [hw, bind, Except.bind] at h
  | ok u => exact ⟨rfl, by simpa [hw, bind, Except.bind] using h⟩

/-- An instruction that issues and whose body succeeds goes on. -/
theorem instr_goes {i : Form} {body : Ctx → State → Except Trap State} {s u : State} {c : Ctx} {g1 g2 : Guard} {E : LaneMask}
    {pc : PC} (h : Issues s c g1 g2 E pc) (hb : body c s = .ok u) : instr i body s = .next (u.goes c i pc) :=
  instr_ok h.running h.group hb h.next

theorem instr_goesAs {i : Form} {body : Ctx → Except Trap Group} {s : State} {c : Ctx} {g1 g2 : Guard} {E : LaneMask} {g : Group}
    {pc : PC} (h : Issues s c g1 g2 E pc) (hb : body c = .ok g) : localInstr i body s = .next (s.goesAs c i g pc) :=
  localInstr_ok h.running h.group hb h.next

/-- An instruction that sets its own PC, issues, and whose body succeeds. -/
theorem jumpInstr_goes {i : Form} {body : Ctx → State → Except Trap State} {s u : State} {c : Ctx} {g1 g2 : Guard} {E : LaneMask}
    {pc : PC} (h : Issues s c g1 g2 E pc) (hb : body c s = .ok u) : jumpInstr i body s = .next (u.issued c i) :=
  jumpInstr_ok h.running h.group hb

/-- A lane-by-lane instruction whose sources are at hand. -/
theorem vecInstr_ok {op : Nat} {f : VOps} {fn : VOps → LaneIn → LaneOut} {s : State} {c : Ctx} {E : LaneMask} {pc : PC}
    {a b t : Vector DWord 96} (h : Issues s c f.g1 f.g2 E pc)
    (hs : c.sources (s.wgidOf c) E f ((vrule op).uses f) = .ok (a, b, t)) :
    vecInstr op f fn s = .next (s.goesAs c (.v op f)
      (c.g.modLanes E fun l ln => ln.apply c.g.coilD (f.imm.toNat % 8) (fn f ⟨a[l], b[l], t[l]⟩)) pc) := by
  obtain ⟨h1, h2, h3, h4, h5⟩ := h
  subst h4
  refine instr_ok h1 h2 ?_ h5
  simp [vecBody, (Ctx.maskReady_ok h3).1, hs, Except.map, bind, Except.bind, pure, Except.pure]

/-- The same whose sources are not at hand. -/
theorem vecInstr_trap {op : Nat} {f : VOps} {fn : VOps → LaneIn → LaneOut} {s : State} {c : Ctx} {t : Trap}
    (h1 : s.sys.stopped = false) (h2 : s.ctx? = some c) (h3 : c.maskWait = .ok ())
    (hs : c.sources (s.wgidOf c) (c.g.exec f.g1 f.g2) f ((vrule op).uses f) = .error t) :
    vecInstr op f fn s = .next ((s.trap c t).heldIssue c (.v op f)) := by
  refine instr_trap h1 h2 ?_
  simp [vecBody, h3, hs, Except.map, bind, Except.bind]

/-- An exchange whose sources are at hand. -/
theorem exchInstr_ok {op : Nat} {f : VOps} {fn : Ctx → LaneMask → Vector DWord 96 → Vector DWord 96 → Fin 96 → LaneOut}
    {s : State} {c : Ctx} {E : LaneMask} {pc : PC} {a b t : Vector DWord 96} (h : Issues s c f.g1 f.g2 E pc)
    (hs : c.sources (s.wgidOf c) E f ((vrule op).uses f) = .ok (a, b, t)) :
    exchInstr op f fn s = .next (s.goesAs c (.v op f)
      (c.g.modLanes E fun l ln => ln.apply c.g.coilD (f.imm.toNat % 8) (fn c E a b l)) pc) := by
  obtain ⟨h1, h2, h3, h4, h5⟩ := h
  subst h4
  refine instr_ok h1 h2 ?_ h5
  simp [exchBody, (Ctx.maskReady_ok h3).1, hs, Except.map, bind, Except.bind, pure, Except.pure]

/-- A scalar instruction with a lane executing, whose sources and destination are free. -/
theorem scalarInstr_ok {op : Nat} {f : SOps} {fn : Ctx → DWord → DWord → DWord → DWord} {s : State} {c : Ctx}
    {E : LaneMask} {pc : PC} {a b t : DWord} {g : Group} (h : Issues s c f.g1 f.g2 E pc) (hE : E ≠ 0)
    (hs : c.ssources (s.wgidOf c) op f = .ok (a, b, t)) (hf : c.freeS f.d.val = .ok ())
    (hw : writeS c.g f.d.val (fn c a b t) = .ok g) : scalarInstr op f fn s = .next (s.goesAs c (.s op f) g pc) := by
  obtain ⟨h1, h2, h3, h4, h5⟩ := h
  subst h4
  refine instr_ok h1 h2 ?_ h5
  have hE' : ¬ c.g.exec f.g1 f.g2 = 0#96 := hE
  simp [scalarBody, h3, hE', hs, hf, hw, Except.map, bind, Except.bind]

/-- A scalar instruction with no lane executing. -/
theorem scalarInstr_skip {op : Nat} {f : SOps} {fn : Ctx → DWord → DWord → DWord → DWord} {s : State} {c : Ctx} {pc : PC}
    (h : Issues s c f.g1 f.g2 0 pc) : scalarInstr op f fn s = .next (s.goesAs c (.s op f) c.g pc) := by
  obtain ⟨h1, h2, h3, h4, h5⟩ := h
  refine instr_ok h1 h2 ?_ h5
  simp [scalarBody, h3, h4, Except.map, bind, Except.bind, pure, Except.pure]

end Sys2Proof.Machine
end

