-- ==== Sys2Proof/Laws/Issue.lean ====
section
/-! SUPPORT. What issuing an instruction, stopping a group and counting leave of the groups: said once for any function f of
a group that reads none of what they change. -/

namespace Sys2Proof.Machine

/-- A change to a core that leaves its groups leaves every group. -/
theorem State.group?_modCore {s : State} {c : Nat} {f : Core → Core} (hf : ∀ k, (f k).groups = k.groups) (d n : Nat) :
    (s.modCore c f).group? d n = s.group? d n := by
  unfold State.modCore State.group?
  by_cases hc : d = c
  · subst hc
    by_cases hl : d < 64
    · rw [State.core_setCore_self hl, hf]
    · simp [State.setCore, hl]
  · rw [State.core_setCore_ne hc]

/-- Counting leaves every group. -/
theorem State.group?_count (s : State) (c vf ev n d m : Nat) : (s.count c vf ev n).group? d m = s.group? d m := by
  unfold State.count
  split
  · refine State.group?_modCore ?_ d m; intro k; rfl
  · rfl

/-- What f reads of each group is the same in two states. -/
def Keeps {α : Type} (f : Group → α) (s t : State) : Prop := ∀ d m, (t.group? d m).map f = (s.group? d m).map f

theorem Keeps.refl {α} (f : Group → α) (s : State) : Keeps f s s := fun _ _ => rfl
theorem Keeps.trans {α} {f : Group → α} {s t u : State} (h : Keeps f s t) (k : Keeps f t u) : Keeps f s u :=
  fun d m => (k d m).trans (h d m)
theorem Keeps.modCore {α} (f : Group → α) (s : State) (c : Nat) {g : Core → Core} (hg : ∀ k, (g k).groups = k.groups) :
    Keeps f s (s.modCore c g) := fun d m => by rw [State.group?_modCore hg]
theorem Keeps.count {α} (f : Group → α) (s : State) (c vf ev n : Nat) : Keeps f s (s.count c vf ev n) :=
  fun d m => by rw [State.group?_count]
theorem Keeps.modGroup {α} (f : Group → α) (s : State) (c n : Nat) {h : Group → Group} (hf : ∀ g, f (h g) = f g) :
    Keeps f s (s.modGroup c n h) := by
  intro d m
  by_cases e : (d, m) = (c, n)
  · obtain ⟨rfl, rfl⟩ := Prod.mk.inj e
    cases hg : s.group? d m with
    | none => simp [State.modGroup, hg]
    | some g => rw [State.group?_modGroup_self hg]; simp [hf]
  · rw [State.group?_modGroup_ne e]
theorem Keeps.setGroup {α} (f : Group → α) (s : State) (c n : Nat) {g h : Group} (hg : s.group? c n = some g) (hf : f h = f g) :
    Keeps f s (s.setGroup c n h) := by
  intro d m
  by_cases e : (d, m) = (c, n)
  · obtain ⟨rfl, rfl⟩ := Prod.mk.inj e
    rw [State.group?_setGroup_self (State.group?_lt hg), hg]; simp [hf]
  · rw [State.group?_setGroup_ne e]

/-- f reads nothing of what a stop changes in a group (R375, R416, R447). -/
structure Blind {α : Type} (f : Group → α) : Prop where
  floor : ∀ g x, f { g with cacheFloor := x, bankAt := none } = f g
  rejoin : ∀ g x, f { g with rejoin := x } = f g
  stop : ∀ g x y, f { g with dstop := x, dstep := y } = f g

theorem Keeps.writeBack {α} {f : Group → α} (b : Blind f) (s : State) (c n : Nat) : Keeps f s (s.writeBack c n) := by
  unfold State.writeBack
  split
  · exact Keeps.refl f s
  · next g hg => exact (Keeps.setGroup f s c n hg (b.floor g _)).trans (Keeps.count f _ _ _ _ _)

/-- All that a stop changes in a group. -/
theorem Keeps.standDown {α} {f : Group → α} (b : Blind f) (s : State) (c n : Nat) : Keeps f s (s.standDown c n) := by
  unfold State.standDown
  refine (Keeps.writeBack b s c n).trans ?_
  refine Keeps.trans ?_ (Keeps.modCore f _ c fun _ => rfl)
  refine Keeps.trans ?_ (Keeps.modCore f _ c fun k => by split <;> rfl)
  refine Keeps.trans ?_ (Keeps.modCore f _ c fun _ => rfl)
  split
  · exact Keeps.modGroup f _ c n fun g => b.rejoin g _
  · exact Keeps.refl f _

theorem Keeps.debugStop {α} {f : Group → α} (b : Blind f) (s : State) (c n : Nat) : Keeps f s (s.debugStop c n) :=
  by
  unfold State.debugStop
  have h := (Keeps.standDown b s c n).trans
    (Keeps.modGroup f _ c n (h := fun g => { g with dstop := true, dstep := false }) fun g => b.stop g _ _)
  dsimp only
  split
  · exact h.trans (Keeps.modCore f _ c fun _ => rfl)
  · exact h

theorem Keeps.stepDone {α} {f : Group → α} (b : Blind f) (s : State) (c n : Nat) : Keeps f s (s.stepDone c n) := by
  unfold State.stepDone
  split
  · split
    · exact (Keeps.debugStop b s c n).trans (Keeps.modGroup f _ c n fun g => b.stop g g.dstop true)
    · exact Keeps.refl f s
  · exact Keeps.refl f s

theorem Keeps.countIssue {α} (f : Group → α) (s : State) (c : Ctx) (i : Form) : Keeps f s (s.countIssue c i) := by
  unfold State.countIssue
  split
  · exact Keeps.refl f s
  · exact fun d m => by simp only [State.group?_count]

theorem Keeps.countWrites {α} (f : Group → α) (s : State) (c : Ctx) (i : Form) (g : Group) :
    Keeps f s (s.countWrites c i g) := by
  unfold State.countWrites
  split
  · exact Keeps.refl f s
  · exact Keeps.count f _ _ _ _ _

theorem Keeps.takePipe {α} (f : Group → α) (s : State) (c : Ctx) (i : Form) : Keeps f s (s.takePipe c i) := by
  unfold State.takePipe
  dsimp only
  split
  · exact Keeps.modCore f _ _ fun _ => rfl
  · exact Keeps.modCore f _ _ fun _ => rfl
  · exact Keeps.refl f s

/-- f reads nothing of what an issue changes in a group beside the instruction's own effect (R147, R152, R159, R478). -/
structure IssueBlind {α : Type} (f : Group → α) : Prop extends Blind f where
  asks : ∀ g x, f { g with bankAt := x } = f g
  goes : ∀ g p t, f { g with progress := p, busy := t } = f g
  ends : ∀ g, f { g with bankAt := none, counted := false } = f g

theorem Keeps.askBanks {α} {f : Group → α} (b : IssueBlind f) (s : State) (c : Ctx) (i : Form) : Keeps f s (s.askBanks c i) := by
  unfold State.askBanks
  split
  · exact Keeps.refl f s
  · exact (Keeps.modGroup f s _ _ fun g => b.asks g _).trans (Keeps.modCore f _ _ fun _ => rfl)

theorem Keeps.issues {α} {f : Group → α} (b : IssueBlind f) (s : State) (c : Ctx) (i : Form) : Keeps f s (s.issues c i) := by
  unfold State.issues
  split
  · exact Keeps.refl f s
  · exact (((Keeps.askBanks b s c i).trans (Keeps.countIssue f _ c i)).trans (Keeps.takePipe f _ c i)).trans
      (Keeps.modGroup f _ _ _ fun g => b.goes g _ _)

/-- All that the accounting of an issue changes in a group: progress, pipe, banks, the numbers of its pushes, a debug stop. -/
theorem Keeps.issued {α} {f : Group → α} (b : IssueBlind f) (s : State) (c : Ctx) (i : Form)
    (hs : ∀ g x l, f { Group.stampFrom g x i with lastPC := l, lostTo := none, bpPass := none } = f g) :
    Keeps f s (s.issued c i) := by
  unfold State.issued
  split
  · exact Keeps.refl f s
  · next g hg =>
    refine Keeps.trans ?_ (Keeps.stepDone b.toBlind _ _ _)
    refine Keeps.trans ?_ (Keeps.modGroup f _ _ _ fun g => b.ends g)
    exact ((Keeps.setGroup f s _ _ hg (hs g c.g c.g.pc)).trans (Keeps.countWrites f _ c i _)).trans (Keeps.issues b _ c i)

end Sys2Proof.Machine
end

