-- ==== Sys2Proof/Laws/PerInstr.lean ====
section
/-! SUPPORT. What holds of each instruction as syntax: its form's opcode leads the decoder back to its constructor.
One lemma for each constructor of Instr. -/

namespace Sys2Proof

/-- The decoder finds an instruction's constructor under the opcode of its form, in the table of its format and in no
table that is asked before it; an event has no opcode (R83). -/
def Laws.Listed.Statement (i : Instr) : Prop :=
  match i.form with
  | .v op f => ∃ c, mkV op = some c ∧ c f = i ∧ op < 512 ∧ op ≠ 0x027 ∧ op ≠ 0x0EE
  | .s op f => mkV op = none ∧ ∃ c, mkS op = some c ∧ c f = i ∧ op < 512 ∧ op ≠ 0x027 ∧ op ≠ 0x0EE
  | .m op f => mkV op = none ∧ mkS op = none ∧ ∃ c, mkM op = some c ∧ c f = i ∧ op < 512 ∧ op ≠ 0x027 ∧ op ≠ 0x0EE
  | .b op f => mkV op = none ∧ mkS op = none ∧ mkM op = none ∧ ∃ c, mkB op = some c ∧ c f = i ∧ op < 512 ∧ op ≠ 0x027 ∧ op ≠ 0x0EE
  | .bi op f => mkV op = none ∧ mkS op = none ∧ mkM op = none ∧ mkB op = none ∧ ∃ c, mkBI op = some c ∧ c f = i ∧ op < 512 ∧ op ≠ 0x027 ∧ op ≠ 0x0EE
  | .e op f => mkV op = none ∧ mkS op = none ∧ mkM op = none ∧ mkB op = none ∧ mkBI op = none ∧ ∃ c, mkE op = some c ∧ c f = i ∧ op < 512 ∧ op ≠ 0x027 ∧ op ≠ 0x0EE
  | .t op f => mkV op = none ∧ mkS op = none ∧ mkM op = none ∧ mkB op = none ∧ mkBI op = none ∧ mkE op = none ∧ ∃ c, mkT op = some c ∧ c f = i ∧ op < 512 ∧ op ≠ 0x027 ∧ op ≠ 0x0EE
  | .plop f => .plop f = i
  | .smovi f => .smovi f = i
  | .event => encode i = none

theorem Laws.Listed.nop (f : BOps) :
    Laws.Listed.Statement (.nop f) := ⟨rfl, rfl, rfl, _, rfl, rfl, by decide, by decide, by decide⟩
theorem Laws.Listed.br (f : BOps) :
    Laws.Listed.Statement (.br f) := ⟨rfl, rfl, rfl, _, rfl, rfl, by decide, by decide, by decide⟩
theorem Laws.Listed.brc (f : BOps) :
    Laws.Listed.Statement (.brc f) := ⟨rfl, rfl, rfl, _, rfl, rfl, by decide, by decide, by decide⟩
theorem Laws.Listed.jmpi (f : BIOps) :
    Laws.Listed.Statement (.jmpi f) := ⟨rfl, rfl, rfl, rfl, _, rfl, rfl, by decide, by decide, by decide⟩
theorem Laws.Listed.brk (f : BOps) :
    Laws.Listed.Statement (.brk f) := ⟨rfl, rfl, rfl, _, rfl, rfl, by decide, by decide, by decide⟩
theorem Laws.Listed.yldp (f : BOps) :
    Laws.Listed.Statement (.yldp f) := ⟨rfl, rfl, rfl, _, rfl, rfl, by decide, by decide, by decide⟩
theorem Laws.Listed.exit (f : BOps) :
    Laws.Listed.Statement (.exit f) := ⟨rfl, rfl, rfl, _, rfl, rfl, by decide, by decide, by decide⟩
theorem Laws.Listed.call (f : BOps) :
    Laws.Listed.Statement (.call f) := ⟨rfl, rfl, rfl, _, rfl, rfl, by decide, by decide, by decide⟩
theorem Laws.Listed.calli (f : BIOps) :
    Laws.Listed.Statement (.calli f) := ⟨rfl, rfl, rfl, rfl, _, rfl, rfl, by decide, by decide, by decide⟩
theorem Laws.Listed.ret (f : BOps) :
    Laws.Listed.Statement (.ret f) := ⟨rfl, rfl, rfl, _, rfl, rfl, by decide, by decide, by decide⟩
theorem Laws.Listed.pick (f : VOps) :
    Laws.Listed.Statement (.pick f) := ⟨_, rfl, rfl, by decide, by decide, by decide⟩
theorem Laws.Listed.pick2 (f : VOps) :
    Laws.Listed.Statement (.pick2 f) := ⟨_, rfl, rfl, by decide, by decide, by decide⟩
theorem Laws.Listed.save (f : VOps) :
    Laws.Listed.Statement (.save f) := ⟨_, rfl, rfl, by decide, by decide, by decide⟩
theorem Laws.Listed.savem (f : VOps) :
    Laws.Listed.Statement (.savem f) := ⟨_, rfl, rfl, by decide, by decide, by decide⟩
theorem Laws.Listed.frame (f : VOps) :
    Laws.Listed.Statement (.frame f) := ⟨_, rfl, rfl, by decide, by decide, by decide⟩
theorem Laws.Listed.rjn (f : VOps) : Laws.Listed.Statement (.rjn f) := ⟨_, rfl, rfl, by decide, by decide, by decide⟩
theorem Laws.Listed.setp (f : VOps) :
    Laws.Listed.Statement (.setp f) := ⟨_, rfl, rfl, by decide, by decide, by decide⟩
theorem Laws.Listed.plop (f : PlopOps) : Laws.Listed.Statement (.plop f) := rfl
theorem Laws.Listed.p2v (f : VOps) : Laws.Listed.Statement (.p2v f) := ⟨_, rfl, rfl, by decide, by decide, by decide⟩
theorem Laws.Listed.iadd (f : VOps) :
    Laws.Listed.Statement (.iadd f) := ⟨_, rfl, rfl, by decide, by decide, by decide⟩
theorem Laws.Listed.isub (f : VOps) :
    Laws.Listed.Statement (.isub f) := ⟨_, rfl, rfl, by decide, by decide, by decide⟩
theorem Laws.Listed.imul (f : VOps) :
    Laws.Listed.Statement (.imul f) := ⟨_, rfl, rfl, by decide, by decide, by decide⟩
theorem Laws.Listed.imulh (f : VOps) :
    Laws.Listed.Statement (.imulh f) := ⟨_, rfl, rfl, by decide, by decide, by decide⟩
theorem Laws.Listed.imad (f : VOps) :
    Laws.Listed.Statement (.imad f) := ⟨_, rfl, rfl, by decide, by decide, by decide⟩
theorem Laws.Listed.imadw (f : VOps) :
    Laws.Listed.Statement (.imadw f) := ⟨_, rfl, rfl, by decide, by decide, by decide⟩
theorem Laws.Listed.idivm (f : VOps) :
    Laws.Listed.Statement (.idivm f) := ⟨_, rfl, rfl, by decide, by decide, by decide⟩
theorem Laws.Listed.imin (f : VOps) :
    Laws.Listed.Statement (.imin f) := ⟨_, rfl, rfl, by decide, by decide, by decide⟩
theorem Laws.Listed.imax (f : VOps) :
    Laws.Listed.Statement (.imax f) := ⟨_, rfl, rfl, by decide, by decide, by decide⟩
theorem Laws.Listed.iabs (f : VOps) :
    Laws.Listed.Statement (.iabs f) := ⟨_, rfl, rfl, by decide, by decide, by decide⟩
theorem Laws.Listed.ineg (f : VOps) :
    Laws.Listed.Statement (.ineg f) := ⟨_, rfl, rfl, by decide, by decide, by decide⟩
theorem Laws.Listed.iadds (f : VOps) :
    Laws.Listed.Statement (.iadds f) := ⟨_, rfl, rfl, by decide, by decide, by decide⟩
theorem Laws.Listed.isubs (f : VOps) :
    Laws.Listed.Statement (.isubs f) := ⟨_, rfl, rfl, by decide, by decide, by decide⟩
theorem Laws.Listed.and (f : VOps) : Laws.Listed.Statement (.and f) := ⟨_, rfl, rfl, by decide, by decide, by decide⟩
theorem Laws.Listed.or (f : VOps) : Laws.Listed.Statement (.or f) := ⟨_, rfl, rfl, by decide, by decide, by decide⟩
theorem Laws.Listed.xor (f : VOps) : Laws.Listed.Statement (.xor f) := ⟨_, rfl, rfl, by decide, by decide, by decide⟩
theorem Laws.Listed.andn (f : VOps) :
    Laws.Listed.Statement (.andn f) := ⟨_, rfl, rfl, by decide, by decide, by decide⟩
theorem Laws.Listed.not (f : VOps) : Laws.Listed.Statement (.not f) := ⟨_, rfl, rfl, by decide, by decide, by decide⟩
theorem Laws.Listed.shl (f : VOps) : Laws.Listed.Statement (.shl f) := ⟨_, rfl, rfl, by decide, by decide, by decide⟩
theorem Laws.Listed.shr (f : VOps) : Laws.Listed.Statement (.shr f) := ⟨_, rfl, rfl, by decide, by decide, by decide⟩
theorem Laws.Listed.sar (f : VOps) : Laws.Listed.Statement (.sar f) := ⟨_, rfl, rfl, by decide, by decide, by decide⟩
theorem Laws.Listed.funsh (f : VOps) :
    Laws.Listed.Statement (.funsh f) := ⟨_, rfl, rfl, by decide, by decide, by decide⟩
theorem Laws.Listed.bfx (f : VOps) : Laws.Listed.Statement (.bfx f) := ⟨_, rfl, rfl, by decide, by decide, by decide⟩
theorem Laws.Listed.bfi (f : VOps) : Laws.Listed.Statement (.bfi f) := ⟨_, rfl, rfl, by decide, by decide, by decide⟩
theorem Laws.Listed.popc (f : VOps) :
    Laws.Listed.Statement (.popc f) := ⟨_, rfl, rfl, by decide, by decide, by decide⟩
theorem Laws.Listed.clz (f : VOps) : Laws.Listed.Statement (.clz f) := ⟨_, rfl, rfl, by decide, by decide, by decide⟩
theorem Laws.Listed.ctz (f : VOps) : Laws.Listed.Statement (.ctz f) := ⟨_, rfl, rfl, by decide, by decide, by decide⟩
theorem Laws.Listed.brev (f : VOps) :
    Laws.Listed.Statement (.brev f) := ⟨_, rfl, rfl, by decide, by decide, by decide⟩
theorem Laws.Listed.prmb (f : VOps) :
    Laws.Listed.Statement (.prmb f) := ⟨_, rfl, rfl, by decide, by decide, by decide⟩
theorem Laws.Listed.icmp (f : VOps) :
    Laws.Listed.Statement (.icmp f) := ⟨_, rfl, rfl, by decide, by decide, by decide⟩
theorem Laws.Listed.isel (f : VOps) :
    Laws.Listed.Statement (.isel f) := ⟨_, rfl, rfl, by decide, by decide, by decide⟩
theorem Laws.Listed.iaddc (f : VOps) :
    Laws.Listed.Statement (.iaddc f) := ⟨_, rfl, rfl, by decide, by decide, by decide⟩
theorem Laws.Listed.agen (f : VOps) :
    Laws.Listed.Statement (.agen f) := ⟨_, rfl, rfl, by decide, by decide, by decide⟩
theorem Laws.Listed.iadd64 (f : VOps) :
    Laws.Listed.Statement (.iadd64 f) := ⟨_, rfl, rfl, by decide, by decide, by decide⟩
theorem Laws.Listed.iext (f : VOps) :
    Laws.Listed.Statement (.iext f) := ⟨_, rfl, rfl, by decide, by decide, by decide⟩
theorem Laws.Listed.idot4 (f : VOps) :
    Laws.Listed.Statement (.idot4 f) := ⟨_, rfl, rfl, by decide, by decide, by decide⟩
theorem Laws.Listed.fadd (f : VOps) :
    Laws.Listed.Statement (.fadd f) := ⟨_, rfl, rfl, by decide, by decide, by decide⟩
theorem Laws.Listed.fsub (f : VOps) :
    Laws.Listed.Statement (.fsub f) := ⟨_, rfl, rfl, by decide, by decide, by decide⟩
theorem Laws.Listed.fmul (f : VOps) :
    Laws.Listed.Statement (.fmul f) := ⟨_, rfl, rfl, by decide, by decide, by decide⟩
theorem Laws.Listed.ffma (f : VOps) :
    Laws.Listed.Statement (.ffma f) := ⟨_, rfl, rfl, by decide, by decide, by decide⟩
theorem Laws.Listed.fmin (f : VOps) :
    Laws.Listed.Statement (.fmin f) := ⟨_, rfl, rfl, by decide, by decide, by decide⟩
theorem Laws.Listed.fmax (f : VOps) :
    Laws.Listed.Statement (.fmax f) := ⟨_, rfl, rfl, by decide, by decide, by decide⟩
theorem Laws.Listed.fcmp (f : VOps) :
    Laws.Listed.Statement (.fcmp f) := ⟨_, rfl, rfl, by decide, by decide, by decide⟩
theorem Laws.Listed.fclass (f : VOps) :
    Laws.Listed.Statement (.fclass f) := ⟨_, rfl, rfl, by decide, by decide, by decide⟩
theorem Laws.Listed.frnd (f : VOps) :
    Laws.Listed.Statement (.frnd f) := ⟨_, rfl, rfl, by decide, by decide, by decide⟩
theorem Laws.Listed.fscale (f : VOps) :
    Laws.Listed.Statement (.fscale f) := ⟨_, rfl, rfl, by decide, by decide, by decide⟩
theorem Laws.Listed.frcp (f : VOps) :
    Laws.Listed.Statement (.frcp f) := ⟨_, rfl, rfl, by decide, by decide, by decide⟩
theorem Laws.Listed.frsq (f : VOps) :
    Laws.Listed.Statement (.frsq f) := ⟨_, rfl, rfl, by decide, by decide, by decide⟩
theorem Laws.Listed.fsqrt (f : VOps) :
    Laws.Listed.Statement (.fsqrt f) := ⟨_, rfl, rfl, by decide, by decide, by decide⟩
theorem Laws.Listed.fdiv (f : VOps) :
    Laws.Listed.Statement (.fdiv f) := ⟨_, rfl, rfl, by decide, by decide, by decide⟩
theorem Laws.Listed.fex2 (f : VOps) :
    Laws.Listed.Statement (.fex2 f) := ⟨_, rfl, rfl, by decide, by decide, by decide⟩
theorem Laws.Listed.flg2 (f : VOps) :
    Laws.Listed.Statement (.flg2 f) := ⟨_, rfl, rfl, by decide, by decide, by decide⟩
theorem Laws.Listed.fsin (f : VOps) :
    Laws.Listed.Statement (.fsin f) := ⟨_, rfl, rfl, by decide, by decide, by decide⟩
theorem Laws.Listed.fcos (f : VOps) :
    Laws.Listed.Statement (.fcos f) := ⟨_, rfl, rfl, by decide, by decide, by decide⟩
theorem Laws.Listed.ftanh (f : VOps) :
    Laws.Listed.Statement (.ftanh f) := ⟨_, rfl, rfl, by decide, by decide, by decide⟩
theorem Laws.Listed.fcvt (f : VOps) :
    Laws.Listed.Statement (.fcvt f) := ⟨_, rfl, rfl, by decide, by decide, by decide⟩
theorem Laws.Listed.fcvti (f : VOps) :
    Laws.Listed.Statement (.fcvti f) := ⟨_, rfl, rfl, by decide, by decide, by decide⟩
theorem Laws.Listed.icvtf (f : VOps) :
    Laws.Listed.Statement (.icvtf f) := ⟨_, rfl, rfl, by decide, by decide, by decide⟩
theorem Laws.Listed.hadd2 (f : VOps) :
    Laws.Listed.Statement (.hadd2 f) := ⟨_, rfl, rfl, by decide, by decide, by decide⟩
theorem Laws.Listed.hmul2 (f : VOps) :
    Laws.Listed.Statement (.hmul2 f) := ⟨_, rfl, rfl, by decide, by decide, by decide⟩
theorem Laws.Listed.hfma2 (f : VOps) :
    Laws.Listed.Statement (.hfma2 f) := ⟨_, rfl, rfl, by decide, by decide, by decide⟩
theorem Laws.Listed.hmin2 (f : VOps) :
    Laws.Listed.Statement (.hmin2 f) := ⟨_, rfl, rfl, by decide, by decide, by decide⟩
theorem Laws.Listed.hmax2 (f : VOps) :
    Laws.Listed.Statement (.hmax2 f) := ⟨_, rfl, rfl, by decide, by decide, by decide⟩
theorem Laws.Listed.qscl (f : VOps) :
    Laws.Listed.Statement (.qscl f) := ⟨_, rfl, rfl, by decide, by decide, by decide⟩
theorem Laws.Listed.fpack (f : VOps) :
    Laws.Listed.Statement (.fpack f) := ⟨_, rfl, rfl, by decide, by decide, by decide⟩
theorem Laws.Listed.funpk (f : VOps) :
    Laws.Listed.Statement (.funpk f) := ⟨_, rfl, rfl, by decide, by decide, by decide⟩
theorem Laws.Listed.qswp (f : VOps) :
    Laws.Listed.Statement (.qswp f) := ⟨_, rfl, rfl, by decide, by decide, by decide⟩
theorem Laws.Listed.qbc (f : VOps) : Laws.Listed.Statement (.qbc f) := ⟨_, rfl, rfl, by decide, by decide, by decide⟩
theorem Laws.Listed.shfl (f : VOps) :
    Laws.Listed.Statement (.shfl f) := ⟨_, rfl, rfl, by decide, by decide, by decide⟩
theorem Laws.Listed.vote (f : VOps) :
    Laws.Listed.Statement (.vote f) := ⟨_, rfl, rfl, by decide, by decide, by decide⟩
theorem Laws.Listed.redv (f : VOps) :
    Laws.Listed.Statement (.redv f) := ⟨_, rfl, rfl, by decide, by decide, by decide⟩
theorem Laws.Listed.scan (f : VOps) :
    Laws.Listed.Statement (.scan f) := ⟨_, rfl, rfl, by decide, by decide, by decide⟩
theorem Laws.Listed.matchLanes (f : VOps) :
    Laws.Listed.Statement (.matchLanes f) := ⟨_, rfl, rfl, by decide, by decide, by decide⟩
theorem Laws.Listed.xsend (f : VOps) :
    Laws.Listed.Statement (.xsend f) := ⟨_, rfl, rfl, by decide, by decide, by decide⟩
theorem Laws.Listed.xrecv (f : VOps) :
    Laws.Listed.Statement (.xrecv f) := ⟨_, rfl, rfl, by decide, by decide, by decide⟩
theorem Laws.Listed.rdlane (f : VOps) :
    Laws.Listed.Statement (.rdlane f) := ⟨_, rfl, rfl, by decide, by decide, by decide⟩
theorem Laws.Listed.wrlane (f : VOps) :
    Laws.Listed.Statement (.wrlane f) := ⟨_, rfl, rfl, by decide, by decide, by decide⟩
theorem Laws.Listed.sadd (f : SOps) :
    Laws.Listed.Statement (.sadd f) := ⟨rfl, _, rfl, rfl, by decide, by decide, by decide⟩
theorem Laws.Listed.ssub (f : SOps) :
    Laws.Listed.Statement (.ssub f) := ⟨rfl, _, rfl, rfl, by decide, by decide, by decide⟩
theorem Laws.Listed.smul (f : SOps) :
    Laws.Listed.Statement (.smul f) := ⟨rfl, _, rfl, rfl, by decide, by decide, by decide⟩
theorem Laws.Listed.sand (f : SOps) :
    Laws.Listed.Statement (.sand f) := ⟨rfl, _, rfl, rfl, by decide, by decide, by decide⟩
theorem Laws.Listed.sor (f : SOps) :
    Laws.Listed.Statement (.sor f) := ⟨rfl, _, rfl, rfl, by decide, by decide, by decide⟩
theorem Laws.Listed.sxor (f : SOps) :
    Laws.Listed.Statement (.sxor f) := ⟨rfl, _, rfl, rfl, by decide, by decide, by decide⟩
theorem Laws.Listed.sshl (f : SOps) :
    Laws.Listed.Statement (.sshl f) := ⟨rfl, _, rfl, rfl, by decide, by decide, by decide⟩
theorem Laws.Listed.sshr (f : SOps) :
    Laws.Listed.Statement (.sshr f) := ⟨rfl, _, rfl, rfl, by decide, by decide, by decide⟩
theorem Laws.Listed.ssar (f : SOps) :
    Laws.Listed.Statement (.ssar f) := ⟨rfl, _, rfl, rfl, by decide, by decide, by decide⟩
theorem Laws.Listed.smin (f : SOps) :
    Laws.Listed.Statement (.smin f) := ⟨rfl, _, rfl, rfl, by decide, by decide, by decide⟩
theorem Laws.Listed.smax (f : SOps) :
    Laws.Listed.Statement (.smax f) := ⟨rfl, _, rfl, rfl, by decide, by decide, by decide⟩
theorem Laws.Listed.scmp (f : SOps) :
    Laws.Listed.Statement (.scmp f) := ⟨rfl, _, rfl, rfl, by decide, by decide, by decide⟩
theorem Laws.Listed.ssel (f : SOps) :
    Laws.Listed.Statement (.ssel f) := ⟨rfl, _, rfl, rfl, by decide, by decide, by decide⟩
theorem Laws.Listed.smovk (f : SOps) :
    Laws.Listed.Statement (.smovk f) := ⟨rfl, _, rfl, rfl, by decide, by decide, by decide⟩
theorem Laws.Listed.smovi (f : SmoviOps) : Laws.Listed.Statement (.smovi f) := rfl
theorem Laws.Listed.sld (f : SOps) :
    Laws.Listed.Statement (.sld f) := ⟨rfl, _, rfl, rfl, by decide, by decide, by decide⟩
theorem Laws.Listed.sst (f : SOps) :
    Laws.Listed.Statement (.sst f) := ⟨rfl, _, rfl, rfl, by decide, by decide, by decide⟩
theorem Laws.Listed.spopc (f : SOps) :
    Laws.Listed.Statement (.spopc f) := ⟨rfl, _, rfl, rfl, by decide, by decide, by decide⟩
theorem Laws.Listed.sclz (f : SOps) :
    Laws.Listed.Statement (.sclz f) := ⟨rfl, _, rfl, rfl, by decide, by decide, by decide⟩
theorem Laws.Listed.smovs (f : SOps) :
    Laws.Listed.Statement (.smovs f) := ⟨rfl, _, rfl, rfl, by decide, by decide, by decide⟩
theorem Laws.Listed.sbfx (f : SOps) :
    Laws.Listed.Statement (.sbfx f) := ⟨rfl, _, rfl, rfl, by decide, by decide, by decide⟩
theorem Laws.Listed.ld (f : MOps) :
    Laws.Listed.Statement (.ld f) := ⟨rfl, rfl, _, rfl, rfl, by decide, by decide, by decide⟩
theorem Laws.Listed.st (f : MOps) :
    Laws.Listed.Statement (.st f) := ⟨rfl, rfl, _, rfl, rfl, by decide, by decide, by decide⟩
theorem Laws.Listed.ldl (f : MOps) :
    Laws.Listed.Statement (.ldl f) := ⟨rfl, rfl, _, rfl, rfl, by decide, by decide, by decide⟩
theorem Laws.Listed.stl (f : MOps) :
    Laws.Listed.Statement (.stl f) := ⟨rfl, rfl, _, rfl, rfl, by decide, by decide, by decide⟩
theorem Laws.Listed.atom (f : MOps) :
    Laws.Listed.Statement (.atom f) := ⟨rfl, rfl, _, rfl, rfl, by decide, by decide, by decide⟩
theorem Laws.Listed.acas (f : MOps) :
    Laws.Listed.Statement (.acas f) := ⟨rfl, rfl, _, rfl, rfl, by decide, by decide, by decide⟩
theorem Laws.Listed.fence (f : MOps) :
    Laws.Listed.Statement (.fence f) := ⟨rfl, rfl, _, rfl, rfl, by decide, by decide, by decide⟩
theorem Laws.Listed.pref (f : MOps) :
    Laws.Listed.Statement (.pref f) := ⟨rfl, rfl, _, rfl, rfl, by decide, by decide, by decide⟩
theorem Laws.Listed.spres (f : MOps) :
    Laws.Listed.Statement (.spres f) := ⟨rfl, rfl, _, rfl, rfl, by decide, by decide, by decide⟩
theorem Laws.Listed.invl (f : MOps) :
    Laws.Listed.Statement (.invl f) := ⟨rfl, rfl, _, rfl, rfl, by decide, by decide, by decide⟩
theorem Laws.Listed.cpy (f : EOps) :
    Laws.Listed.Statement (.cpy f) := ⟨rfl, rfl, rfl, rfl, rfl, _, rfl, rfl, by decide, by decide, by decide⟩
theorem Laws.Listed.cpyg (f : EOps) :
    Laws.Listed.Statement (.cpyg f) := ⟨rfl, rfl, rfl, rfl, rfl, _, rfl, rfl, by decide, by decide, by decide⟩
theorem Laws.Listed.cpys (f : EOps) :
    Laws.Listed.Statement (.cpys f) := ⟨rfl, rfl, rfl, rfl, rfl, _, rfl, rfl, by decide, by decide, by decide⟩
theorem Laws.Listed.cmt (f : TOps) :
    Laws.Listed.Statement (.cmt f) := ⟨rfl, rfl, rfl, rfl, rfl, rfl, _, rfl, rfl, by decide, by decide, by decide⟩
theorem Laws.Listed.waitt (f : TOps) :
    Laws.Listed.Statement (.waitt f) := ⟨rfl, rfl, rfl, rfl, rfl, rfl, _, rfl, rfl, by decide, by decide, by decide⟩
theorem Laws.Listed.tlrd (f : TOps) :
    Laws.Listed.Statement (.tlrd f) := ⟨rfl, rfl, rfl, rfl, rfl, rfl, _, rfl, rfl, by decide, by decide, by decide⟩
theorem Laws.Listed.bar (f : TOps) :
    Laws.Listed.Statement (.bar f) := ⟨rfl, rfl, rfl, rfl, rfl, rfl, _, rfl, rfl, by decide, by decide, by decide⟩
theorem Laws.Listed.barc (f : TOps) :
    Laws.Listed.Statement (.barc f) := ⟨rfl, rfl, rfl, rfl, rfl, rfl, _, rfl, rfl, by decide, by decide, by decide⟩
theorem Laws.Listed.arv (f : TOps) :
    Laws.Listed.Statement (.arv f) := ⟨rfl, rfl, rfl, rfl, rfl, rfl, _, rfl, rfl, by decide, by decide, by decide⟩
theorem Laws.Listed.wph (f : TOps) :
    Laws.Listed.Statement (.wph f) := ⟨rfl, rfl, rfl, rfl, rfl, rfl, _, rfl, rfl, by decide, by decide, by decide⟩
theorem Laws.Listed.yield (f : TOps) :
    Laws.Listed.Statement (.yield f) := ⟨rfl, rfl, rfl, rfl, rfl, rfl, _, rfl, rfl, by decide, by decide, by decide⟩
theorem Laws.Listed.btake (f : TOps) :
    Laws.Listed.Statement (.btake f) := ⟨rfl, rfl, rfl, rfl, rfl, rfl, _, rfl, rfl, by decide, by decide, by decide⟩
theorem Laws.Listed.bpass (f : TOps) :
    Laws.Listed.Statement (.bpass f) := ⟨rfl, rfl, rfl, rfl, rfl, rfl, _, rfl, rfl, by decide, by decide, by decide⟩
theorem Laws.Listed.mms (f : EOps) :
    Laws.Listed.Statement (.mms f) := ⟨rfl, rfl, rfl, rfl, rfl, _, rfl, rfl, by decide, by decide, by decide⟩
theorem Laws.Listed.mml (f : EOps) :
    Laws.Listed.Statement (.mml f) := ⟨rfl, rfl, rfl, rfl, rfl, _, rfl, rfl, by decide, by decide, by decide⟩
theorem Laws.Listed.aclr (f : EOps) :
    Laws.Listed.Statement (.aclr f) := ⟨rfl, rfl, rfl, rfl, rfl, _, rfl, rfl, by decide, by decide, by decide⟩
theorem Laws.Listed.ald (f : EOps) :
    Laws.Listed.Statement (.ald f) := ⟨rfl, rfl, rfl, rfl, rfl, _, rfl, rfl, by decide, by decide, by decide⟩
theorem Laws.Listed.adrn (f : EOps) :
    Laws.Listed.Statement (.adrn f) := ⟨rfl, rfl, rfl, rfl, rfl, _, rfl, rfl, by decide, by decide, by decide⟩
theorem Laws.Listed.adrv (f : EOps) :
    Laws.Listed.Statement (.adrv f) := ⟨rfl, rfl, rfl, rfl, rfl, _, rfl, rfl, by decide, by decide, by decide⟩
theorem Laws.Listed.talloc (f : EOps) :
    Laws.Listed.Statement (.talloc f) := ⟨rfl, rfl, rfl, rfl, rfl, _, rfl, rfl, by decide, by decide, by decide⟩
theorem Laws.Listed.tfree (f : EOps) :
    Laws.Listed.Statement (.tfree f) := ⟨rfl, rfl, rfl, rfl, rfl, _, rfl, rfl, by decide, by decide, by decide⟩
theorem Laws.Listed.mcnt (f : EOps) :
    Laws.Listed.Statement (.mcnt f) := ⟨rfl, rfl, rfl, rfl, rfl, _, rfl, rfl, by decide, by decide, by decide⟩
theorem Laws.Listed.mcntl (f : EOps) :
    Laws.Listed.Statement (.mcntl f) := ⟨rfl, rfl, rfl, rfl, rfl, _, rfl, rfl, by decide, by decide, by decide⟩
theorem Laws.Listed.mmrg (f : EOps) :
    Laws.Listed.Statement (.mmrg f) := ⟨rfl, rfl, rfl, rfl, rfl, _, rfl, rfl, by decide, by decide, by decide⟩
theorem Laws.Listed.cntz (f : EOps) :
    Laws.Listed.Statement (.cntz f) := ⟨rfl, rfl, rfl, rfl, rfl, _, rfl, rfl, by decide, by decide, by decide⟩
theorem Laws.Listed.bfly (f : EOps) :
    Laws.Listed.Statement (.bfly f) := ⟨rfl, rfl, rfl, rfl, rfl, _, rfl, rfl, by decide, by decide, by decide⟩
theorem Laws.Listed.bflyp (f : EOps) :
    Laws.Listed.Statement (.bflyp f) := ⟨rfl, rfl, rfl, rfl, rfl, _, rfl, rfl, by decide, by decide, by decide⟩
theorem Laws.Listed.twg (f : VOps) : Laws.Listed.Statement (.twg f) := ⟨_, rfl, rfl, by decide, by decide, by decide⟩
theorem Laws.Listed.enq (f : TOps) :
    Laws.Listed.Statement (.enq f) := ⟨rfl, rfl, rfl, rfl, rfl, rfl, _, rfl, rfl, by decide, by decide, by decide⟩
theorem Laws.Listed.enqd (f : TOps) :
    Laws.Listed.Statement (.enqd f) := ⟨rfl, rfl, rfl, rfl, rfl, rfl, _, rfl, rfl, by decide, by decide, by decide⟩
theorem Laws.Listed.deq (f : TOps) :
    Laws.Listed.Statement (.deq f) := ⟨rfl, rfl, rfl, rfl, rfl, rfl, _, rfl, rfl, by decide, by decide, by decide⟩
theorem Laws.Listed.dcadd (f : TOps) :
    Laws.Listed.Statement (.dcadd f) := ⟨rfl, rfl, rfl, rfl, rfl, rfl, _, rfl, rfl, by decide, by decide, by decide⟩
theorem Laws.Listed.dcrd (f : TOps) :
    Laws.Listed.Statement (.dcrd f) := ⟨rfl, rfl, rfl, rfl, rfl, rfl, _, rfl, rfl, by decide, by decide, by decide⟩
theorem Laws.Listed.fres (f : TOps) :
    Laws.Listed.Statement (.fres f) := ⟨rfl, rfl, rfl, rfl, rfl, rfl, _, rfl, rfl, by decide, by decide, by decide⟩
theorem Laws.Listed.fjoin (f : TOps) :
    Laws.Listed.Statement (.fjoin f) := ⟨rfl, rfl, rfl, rfl, rfl, rfl, _, rfl, rfl, by decide, by decide, by decide⟩
theorem Laws.Listed.fget (f : TOps) :
    Laws.Listed.Statement (.fget f) := ⟨rfl, rfl, rfl, rfl, rfl, rfl, _, rfl, rfl, by decide, by decide, by decide⟩
theorem Laws.Listed.nextch (f : TOps) :
    Laws.Listed.Statement (.nextch f) := ⟨rfl, rfl, rfl, rfl, rfl, rfl, _, rfl, rfl, by decide, by decide, by decide⟩
theorem Laws.Listed.tinfo (f : TOps) :
    Laws.Listed.Statement (.tinfo f) := ⟨rfl, rfl, rfl, rfl, rfl, rfl, _, rfl, rfl, by decide, by decide, by decide⟩
theorem Laws.Listed.trap (f : TOps) :
    Laws.Listed.Statement (.trap f) := ⟨rfl, rfl, rfl, rfl, rfl, rfl, _, rfl, rfl, by decide, by decide, by decide⟩
theorem Laws.Listed.bpt (f : TOps) :
    Laws.Listed.Statement (.bpt f) := ⟨rfl, rfl, rfl, rfl, rfl, rfl, _, rfl, rfl, by decide, by decide, by decide⟩
theorem Laws.Listed.tret (f : TOps) :
    Laws.Listed.Statement (.tret f) := ⟨rfl, rfl, rfl, rfl, rfl, rfl, _, rfl, rfl, by decide, by decide, by decide⟩
theorem Laws.Listed.csrr (f : TOps) :
    Laws.Listed.Statement (.csrr f) := ⟨rfl, rfl, rfl, rfl, rfl, rfl, _, rfl, rfl, by decide, by decide, by decide⟩
theorem Laws.Listed.csrw (f : TOps) :
    Laws.Listed.Statement (.csrw f) := ⟨rfl, rfl, rfl, rfl, rfl, rfl, _, rfl, rfl, by decide, by decide, by decide⟩
theorem Laws.Listed.time (f : TOps) :
    Laws.Listed.Statement (.time f) := ⟨rfl, rfl, rfl, rfl, rfl, rfl, _, rfl, rfl, by decide, by decide, by decide⟩
theorem Laws.Listed.ctrrd (f : TOps) :
    Laws.Listed.Statement (.ctrrd f) := ⟨rfl, rfl, rfl, rfl, rfl, rfl, _, rfl, rfl, by decide, by decide, by decide⟩
theorem Laws.Listed.ctrcfg (f : TOps) :
    Laws.Listed.Statement (.ctrcfg f) := ⟨rfl, rfl, rfl, rfl, rfl, rfl, _, rfl, rfl, by decide, by decide, by decide⟩
theorem Laws.Listed.flags (f : VOps) :
    Laws.Listed.Statement (.flags f) := ⟨_, rfl, rfl, by decide, by decide, by decide⟩
theorem Laws.Listed.flclr (f : VOps) :
    Laws.Listed.Statement (.flclr f) := ⟨_, rfl, rfl, by decide, by decide, by decide⟩
theorem Laws.Listed.missDataReturn (core slot id : Nat) : Laws.Listed.Statement (.missDataReturn core slot id) := rfl
theorem Laws.Listed.storeQueueDrain (core slot : Nat) : Laws.Listed.Statement (.storeQueueDrain core slot) := rfl
theorem Laws.Listed.pageWalk (part die : Nat) : Laws.Listed.Statement (.pageWalk part die) := rfl
theorem Laws.Listed.accessReplay (core slot : Nat) : Laws.Listed.Statement (.accessReplay core slot) := rfl
theorem Laws.Listed.icacheFill (core slot : Nat) (bundle : DWord) :
    Laws.Listed.Statement (.icacheFill core slot bundle) := rfl
theorem Laws.Listed.bundleRefetch (core slot : Nat) : Laws.Listed.Statement (.bundleRefetch core slot) := rfl
theorem Laws.Listed.cardParse (vf q : Nat) : Laws.Listed.Statement (.cardParse vf q) := rfl
theorem Laws.Listed.fenceConditionMet (vf q : Nat) : Laws.Listed.Statement (.fenceConditionMet vf q) := rfl
theorem Laws.Listed.dealChunk (part : Nat) : Laws.Listed.Statement (.dealChunk part) := rfl
theorem Laws.Listed.stealChunk (core : Nat) : Laws.Listed.Statement (.stealChunk core) := rfl
theorem Laws.Listed.workgroupStart (core : Nat) : Laws.Listed.Statement (.workgroupStart core) := rfl
theorem Laws.Listed.jobComplete (job : Nat) : Laws.Listed.Statement (.jobComplete job) := rfl
theorem Laws.Listed.copyPiece (core cmd : Nat) (write : Bool) (row ofs : Nat) :
    Laws.Listed.Statement (.copyPiece core cmd write row ofs) := rfl
theorem Laws.Listed.copyComplete (core cmd : Nat) : Laws.Listed.Statement (.copyComplete core cmd) := rfl
theorem Laws.Listed.engineCommandStart (core cmd : Nat) (early : List Nat) :
    Laws.Listed.Statement (.engineCommandStart core cmd early) := rfl
theorem Laws.Listed.engineCommandComplete (core cmd : Nat) :
    Laws.Listed.Statement (.engineCommandComplete core cmd) := rfl
theorem Laws.Listed.adrvDrain (core cmd : Nat) : Laws.Listed.Statement (.adrvDrain core cmd) := rfl
theorem Laws.Listed.schedulerSwap (core act : Nat) : Laws.Listed.Statement (.schedulerSwap core act) := rfl
theorem Laws.Listed.forcedSwap (core : Nat) : Laws.Listed.Statement (.forcedSwap core) := rfl
theorem Laws.Listed.freeSlotFill (core : Nat) : Laws.Listed.Statement (.freeSlotFill core) := rfl
theorem Laws.Listed.gatingEntry (core : Nat) : Laws.Listed.Statement (.gatingEntry core) := rfl
theorem Laws.Listed.gatingHoldoffExpire (core : Nat) : Laws.Listed.Statement (.gatingHoldoffExpire core) := rfl
theorem Laws.Listed.gatingExitDone (core : Nat) : Laws.Listed.Statement (.gatingExitDone core) := rfl
theorem Laws.Listed.preemptReq (vf : Nat) : Laws.Listed.Statement (.preemptReq vf) := rfl
theorem Laws.Listed.groupPreemptStop (core slot : Nat) : Laws.Listed.Statement (.groupPreemptStop core slot) := rfl
theorem Laws.Listed.preemptTimeout (core slot : Nat) : Laws.Listed.Statement (.preemptTimeout core slot) := rfl
theorem Laws.Listed.preemptResume (vf : Nat) : Laws.Listed.Statement (.preemptResume vf) := rfl
theorem Laws.Listed.groupResume (core slot : Nat) : Laws.Listed.Statement (.groupResume core slot) := rfl
theorem Laws.Listed.rowClaimComplete (core : Nat) : Laws.Listed.Statement (.rowClaimComplete core) := rfl
theorem Laws.Listed.tileSpill (core : Nat) (tile : Fin 4) : Laws.Listed.Statement (.tileSpill core tile) := rfl
theorem Laws.Listed.quantumExpire (part : Nat) : Laws.Listed.Statement (.quantumExpire part) := rfl
theorem Laws.Listed.groupRetire (core slot : Nat) : Laws.Listed.Statement (.groupRetire core slot) := rfl
theorem Laws.Listed.groupTerminate (core slot : Nat) : Laws.Listed.Statement (.groupTerminate core slot) := rfl
theorem Laws.Listed.engineFaultDelivery (core slot : Nat) :
    Laws.Listed.Statement (.engineFaultDelivery core slot) := rfl
theorem Laws.Listed.debugHalt (vf gid : Nat) : Laws.Listed.Statement (.debugHalt vf gid) := rfl
theorem Laws.Listed.debugStep (vf gid : Nat) : Laws.Listed.Statement (.debugStep vf gid) := rfl
theorem Laws.Listed.debugFocus (vf gid : Nat) (lane : Nat) : Laws.Listed.Statement (.debugFocus vf gid lane) := rfl
theorem Laws.Listed.debugUnfocus (vf gid : Nat) : Laws.Listed.Statement (.debugUnfocus vf gid) := rfl
theorem Laws.Listed.debugRun (vf gid : Nat) : Laws.Listed.Statement (.debugRun vf gid) := rfl
theorem Laws.Listed.debugDump (vf gid : Nat) : Laws.Listed.Statement (.debugDump vf gid) := rfl
theorem Laws.Listed.instructionSample (core act : Nat) : Laws.Listed.Statement (.instructionSample core act) := rfl
theorem Laws.Listed.jobQueueDoorbell (vf q : Nat) (p : BitVec 32) :
    Laws.Listed.Statement (.jobQueueDoorbell vf q p) := rfl
theorem Laws.Listed.queueEnWrite (vf : Nat) (data : Bool) (q : Nat) (value : DWord) :
    Laws.Listed.Statement (.queueEnWrite vf data q value) := rfl
theorem Laws.Listed.faultResume (fn : Nat) (seq : BitVec 32) : Laws.Listed.Statement (.faultResume fn seq) := rfl
theorem Laws.Listed.fqconsWrite (fn : Nat) (value : BitVec 32) : Laws.Listed.Statement (.fqconsWrite fn value) := rfl
theorem Laws.Listed.biasFlipToDevice (vf : Nat) (page : DWord) :
    Laws.Listed.Statement (.biasFlipToDevice vf page) := rfl
theorem Laws.Listed.biasFlipToHost (vf : Nat) (page : DWord) : Laws.Listed.Statement (.biasFlipToHost vf page) := rfl
theorem Laws.Listed.biasFlipComplete (vf : Nat) : Laws.Listed.Statement (.biasFlipComplete vf) := rfl
theorem Laws.Listed.tlbInvalidateRange (vf : Nat) (va : DWord) :
    Laws.Listed.Statement (.tlbInvalidateRange vf va) := rfl
theorem Laws.Listed.tlbInvalidateAll (vf : Nat) : Laws.Listed.Statement (.tlbInvalidateAll vf) := rfl
theorem Laws.Listed.stage2Invalidate (vf : Nat) : Laws.Listed.Statement (.stage2Invalidate vf) := rfl
theorem Laws.Listed.invalidationComplete (vf : Nat) (stage2 : Bool) :
    Laws.Listed.Statement (.invalidationComplete vf stage2) := rfl
theorem Laws.Listed.placementWrite (die : Nat) (ofs : Nat) (value : DWord) :
    Laws.Listed.Statement (.placementWrite die ofs value) := rfl
theorem Laws.Listed.vfbindWrite (vf : Nat) (value : DWord) : Laws.Listed.Statement (.vfbindWrite vf value) := rfl
theorem Laws.Listed.policySubmit (value : DWord) : Laws.Listed.Statement (.policySubmit value) := rfl
theorem Laws.Listed.policyVerifyDone (part : Nat) : Laws.Listed.Statement (.policyVerifyDone part) := rfl
theorem Laws.Listed.policyTeardown (part : Nat) : Laws.Listed.Statement (.policyTeardown part) := rfl
theorem Laws.Listed.quoteRequest (value : DWord) : Laws.Listed.Statement (.quoteRequest value) := rfl
theorem Laws.Listed.quoteComplete : Laws.Listed.Statement .quoteComplete := rfl
theorem Laws.Listed.latencyMonitorConfig (vf q : Nat) (value : DWord) :
    Laws.Listed.Statement (.latencyMonitorConfig vf q value) := rfl
theorem Laws.Listed.logOvfClear (vf : Nat) : Laws.Listed.Statement (.logOvfClear vf) := rfl
theorem Laws.Listed.halfReadLow (path : HostPath) (vf ofs : Nat) :
    Laws.Listed.Statement (.halfReadLow path vf ofs) := rfl
theorem Laws.Listed.halfReadHigh (path : HostPath) (vf ofs : Nat) :
    Laws.Listed.Statement (.halfReadHigh path vf ofs) := rfl
theorem Laws.Listed.warmStart : Laws.Listed.Statement .warmStart := rfl
theorem Laws.Listed.registerWrite (fn ofs : Nat) (value : DWord) :
    Laws.Listed.Statement (.registerWrite fn ofs value) := rfl
theorem Laws.Listed.coldStart : Laws.Listed.Statement .coldStart := rfl
theorem Laws.Listed.pcieReset : Laws.Listed.Statement .pcieReset := rfl
theorem Laws.Listed.softError (die : Nat) (correctable : Bool) (pa : Nat) :
    Laws.Listed.Statement (.softError die correctable pa) := rfl
theorem Laws.Listed.hostMemAccess (write : Bool) (pa : Nat) (bytes : List Byte) :
    Laws.Listed.Statement (.hostMemAccess write pa bytes) := rfl
theorem Laws.Listed.remoteFrameReceive (frame : FrameIn) :
    Laws.Listed.Statement (.remoteFrameReceive frame) := rfl
theorem Laws.Listed.osierRetransmit (frame : Nat) : Laws.Listed.Statement (.osierRetransmit frame) := rfl
theorem Laws.Listed.osierPortFail (port : Nat) : Laws.Listed.Statement (.osierPortFail port) := rfl
theorem Laws.Listed.droopDetect (core : Nat) : Laws.Listed.Statement (.droopDetect core) := rfl
theorem Laws.Listed.clockReturnStep (core : Nat) : Laws.Listed.Statement (.clockReturnStep core) := rfl
theorem Laws.Listed.powerCapStep (watts : Nat) : Laws.Listed.Statement (.powerCapStep watts) := rfl
theorem Laws.Listed.thermalThrottle (die : Nat) (tenths : Nat) :
    Laws.Listed.Statement (.thermalThrottle die tenths) := rfl
theorem Laws.Listed.thermalShutdown (die : Nat) (tenths : Nat) :
    Laws.Listed.Statement (.thermalShutdown die tenths) := rfl
theorem Laws.Listed.sagEnd (core : Nat) : Laws.Listed.Statement (.sagEnd core) := rfl
theorem Laws.Listed.powerLoss : Laws.Listed.Statement .powerLoss := rfl
theorem Laws.Listed.osierPortEnable (port : Nat) (enable : Bool) :
    Laws.Listed.Statement (.osierPortEnable port enable) := rfl
theorem Laws.Listed.osierPortUp (port : Nat) : Laws.Listed.Statement (.osierPortUp port) := rfl
theorem Laws.Listed.spilledLineArrival (core wg line : Nat) :
    Laws.Listed.Statement (.spilledLineArrival core wg line) := rfl

end Sys2Proof
end

