-- ==== Sys2Proof/Tests/Slice0.lean ====
section
/-! SUPPORT. Tests: ill-formed terms that WellFormed refuses, words of the spec's own examples decoded, single steps
with results worked out from the rules, and for each statement of the obligations a state and operands that meet its
hypotheses. -/

namespace Sys2Proof.Tests

set_option maxRecDepth 100000
set_option Elab.async false

open Sys2Proof Sys2Proof.Machine

/-! ## Terms by hand -/

def p0 : Guard := ⟨false, 0⟩
def pn (n : Fin 8) : Guard := ⟨false, n⟩
def vo (a b c : VName) (ty : Ty) (m i : Nat) : VOps := ⟨p0, p0, a, b, c, ty, BitVec.ofNat 4 m, BitVec.ofNat 8 i⟩
def so (d : Fin 64) (a b c : SName) (ty : Ty) (m i : Nat) : SOps :=
  ⟨p0, p0, d, a, b, c, ty, BitVec.ofNat 4 m, BitVec.ofNat 8 i⟩
def mo (base : Fin 64) (ofs data : VName) (size scale : Nat) (sc : Scope) (order hint disp : Nat) : MOps :=
  ⟨p0, p0, base, ofs, data, BitVec.ofNat 4 size, BitVec.ofNat 2 scale, sc, BitVec.ofNat 2 order, BitVec.ofNat 2 hint,
    BitVec.ofNat 8 disp⟩
def bo (disp disp2 : Int) (cond : Guard) (aux : Nat) : BOps :=
  ⟨p0, p0, BitVec.ofInt 20 disp, BitVec.ofInt 20 disp2, cond, BitVec.ofNat 3 aux⟩
def bio (t : Fin 64) (aux : Nat) : BIOps := ⟨p0, p0, t, BitVec.ofNat 3 aux⟩
def eo (tile : Fin 4) (an : VName) (p q : Fin 64) (kix : Fin 128) (cnt : Nat) (mode : Nat) (reuse commit : Bool := false) :
    EOps := ⟨p0, p0, tile, an, p, q, kix, BitVec.ofNat 8 cnt, reuse, commit, BitVec.ofNat 6 mode⟩
def top (d a b : Fin 64) (imm op : Nat) : TOps := ⟨p0, p0, d, a, b, 0, BitVec.ofNat 8 imm, BitVec.ofNat 14 op⟩

/-! ## WellFormed refuses each cause of R65 -/

theorem test_wf_nop : (Instr.nop (bo 0 0 p0 0)).wf = true := by decide +kernel
theorem test_wf_add : (Instr.iadd (vo (.age 0) (.age 1) .zero .i32 0 0)).wf = true := by decide +kernel
theorem test_ill_type : breach (.iadd (vo (.age 0) (.age 1) .zero .f32 0 0)) = some 3 := by decide +kernel
theorem test_ill_wide_bit : breach (.atom (mo 4 .zero (.konst 1) 0 1 .device 0 0 0)) = some 4 := by decide +kernel
theorem test_ill_unused_name : breach (.iadd (vo (.age 0) (.age 1) (.age 2) .i32 0 0)) = some 5 := by decide +kernel
theorem test_ill_unused_imm : breach (.iadd (vo (.age 0) (.age 1) .zero .i32 0 9)) = some 5 := by decide +kernel
theorem test_ill_unused_scalar : breach (.spopc (so 3 (.scalar 4) (.scalar 5) (.scalar 0) .n64 0 0)) = some 5 := by decide +kernel
theorem test_ill_unused_disp : breach (.exit (bo 1 0 p0 0)) = some 5 := by decide +kernel
theorem test_ill_unused_tile : breach (.cpy (eo 1 .zero 4 5 8 0 0)) = some 5 := by decide +kernel
theorem test_ill_unused_kix : breach (.time { top 4 0 0 0 0 with kix := 1 }) = some 5 := by decide +kernel
theorem test_ill_unused_data : breach (.ld (mo 4 .zero (.konst 1) 4 0 .device 0 0 0)) = some 5 := by decide +kernel
theorem test_ill_fence_base : breach (.fence (mo 4 .zero .zero 0 0 .device 3 0 0)) = some 5 := by decide +kernel
theorem test_ill_guard : breach (.nop { bo 0 0 p0 0 with g1 := ⟨true, 0⟩ }) = some 6 := by decide +kernel
theorem test_ill_condition : breach (.br (bo 2 0 ⟨true, 0⟩ 0)) = some 6 := by decide +kernel
theorem test_ill_mod : breach (.iadd (vo (.age 0) (.age 1) .zero .i32 1 0)) = some 7 := by decide +kernel
theorem test_ill_aux : breach (.brk (bo 0 0 p0 1)) = some 7 := by decide +kernel
theorem test_ill_branch_guard : breach (.br { bo 2 0 p0 0 with g1 := pn 1 }) = some 7 := by decide +kernel
theorem test_ill_size : breach (.ld (mo 4 .zero .zero 5 0 .device 0 0 0)) = some 7 := by decide +kernel
theorem test_ill_order : breach (.ld (mo 4 .zero .zero 4 0 .device 2 0 0)) = some 7 := by decide +kernel
theorem test_ill_hint : breach (.atom (mo 4 .zero (.konst 1) 0 0 .device 0 1 0)) = some 7 := by decide +kernel
theorem test_ill_mode : breach (.adrv (eo 0 (.frame 8) 0 0 0 0 2)) = some 7 := by decide +kernel
theorem test_ill_count : breach (.bfly (eo 1 .zero 0 0 8 81 0)) = some 7 := by decide +kernel
theorem test_ill_csr : breach (.csrw (top 0 6 0 0x0C 0)) = some 7 := by decide +kernel
theorem test_ill_mask_dest : breach (.time (top 61 0 0 0 0)) = some 7 := by decide +kernel
theorem test_ill_plop : breach (.plop ⟨p0, p0, 8, 0, 1, 2⟩) = some 8 := by decide +kernel
theorem test_ill_pred0 : breach (.icmp (vo (.age 0) (.konst 4) .zero .i32 0 0x10)) = some 8 := by decide +kernel
theorem test_ill_pred_imm : breach (.setp (vo .imm .zero .zero .i32 0 1)) = some 8 := by decide +kernel
theorem test_ill_lowest : breach (.iadd { vo (.age 0) (.age 1) (.age 2) .f32 1 0 with g1 := ⟨true, 0⟩ }) = some 3 := by
  decide +kernel

/-! ## Words that the spec writes out -/

theorem test_decode_control :
    decodeTableWord 64 0x0 = some (.nop (bo 0 0 p0 0)) ∧
    decodeTableWord 64 0x0080000010000008 = some (.br (bo 2 0 (pn 1) 0)) ∧
    decodeTableWord 64 0x00807FFFE8000000 = some (.br (bo (-3) 0 p0 0)) ∧
    decodeTableWord 64 0x0100000008000108 = some (.brc (bo 1 2 (pn 1) 0)) ∧
    decodeTableWord 64 0x01000000100000C8 = some (.brc (bo 2 1 ⟨true, 1⟩ 0)) ∧
    decodeTableWord 64 0x0180120000000000 = some (.jmpi (bio 9 0)) ∧
    decodeTableWord 64 0x0210000000000002 = some (.brk { bo 0 0 p0 2 with g1 := pn 2 }) ∧
    decodeTableWord 64 0x0280000000000000 = some (.yldp (bo 0 0 p0 0)) ∧
    decodeTableWord 64 0x0300000000000000 = some (.exit (bo 0 0 p0 0)) ∧
    decodeTableWord 64 0x0350000000000000 = some (.exit { bo 0 0 p0 0 with g1 := ⟨true, 2⟩ }) ∧
    decodeTableWord 64 0x0380000018000003 = some (.call (bo 3 0 p0 3)) ∧
    decodeTableWord 64 0x0480000000000001 = some (.ret (bo 0 0 p0 1)) := by decide +kernel
theorem test_decode_operand :
    decodeTableWord 64 0x1100080007C00000 = some (.save (vo (.frame 0) (.age 0) .zero .i32 0 0)) ∧
    decodeTableWord 64 0x12807C1F07C00028 = some (.rjn (vo .zero .zero .zero .i32 0 20)) ∧
    decodeTableWord 64 0x1300781F07C00442 = some (.setp (vo (.special .lane) .zero .zero .i32 2 0x21)) ∧
    decodeTableWord 64 0x1300001F07C00002 = some (.setp (vo (.age 0) .zero .zero .i32 0 1)) ∧
    decodeTableWord 64 0x13807C1F07C05016 = some (.plop ⟨p0, p0, 8, 3, 1, 2⟩) := by decide +kernel
theorem test_decode_integer :
    decodeTableWord 64 0x2280080208842000 = some (.imadw (vo (.frame 0) (.frame 1) (.frame 2) .n32 0 0)) ∧
    decodeTableWord 64 0x2300002007C02000 = some (.idivm (vo (.age 1) (.age 0) .zero .n32 0 0)) ∧
    decodeTableWord 64 0x2E80001827C00026 = some (.icmp (vo (.age 0) (.konst 4) .zero .i32 0 0x13)) := by decide +kernel
theorem test_decode_float :
    decodeTableWord 64 0x400000000FC04000 = some (.fadd (vo (.age 0) (.age 1) .zero .f32 0 0)) ∧
    decodeTableWord 64 0x4000001F0FC040C0 = some (.fadd (vo (.age 0) .imm .zero .f32 0 0x60)) ∧
    decodeTableWord 64 0x4200000207C04400 = some (.fmin (vo (.age 0) (.frame 0) .zero .f32 2 0)) ∧
    decodeTableWord 64 0x4300001817C04016 = some (.fcmp (vo (.age 0) (.konst 2) .zero .f32 0 0x0B)) ∧
    decodeTableWord 64 0x498000000FC04092 = some (.fcvt (vo (.age 0) (.age 1) .zero .f32 0 0x49)) ∧
    decodeTableWord 64 0x4D80001F07C04004 = some (.qscl (vo (.age 0) .zero .zero .f32 0 2)) ∧
    decodeTableWord 64 0x4E00602008004044 = some (.fpack (vo (.konst 1) (.age 1) (.age 0) .f32 0 0x22)) ∧
    decodeTableWord 64 0x4E80000027C04084 = some (.funpk (vo (.age 0) (.age 4) .zero .f32 0 0x42)) ∧
    decodeTableWord 64 0x4190000266064200 =
      some (.ffma { vo (.age 0) (.frame 12) (.konst 3) .f32 1 0 with g1 := pn 2 }) := by decide +kernel
theorem test_decode_exchange :
    decodeTableWord 64 0x6000001F07C00400 = some (.qswp (vo (.age 0) .zero .zero .i32 2 0)) ∧
    decodeTableWord 64 0x610000182FC00406 = some (.shfl (vo (.age 0) (.konst 5) .zero .i32 2 3)) ∧
    decodeTableWord 64 0x6380001F07C00006 = some (.xsend (vo (.age 0) .zero .zero .i32 0 3)) ∧
    decodeTableWord 64 0x64007C1F07C00006 = some (.xrecv (vo .zero .zero .zero .i32 0 3)) := by decide +kernel
theorem test_decode_scalar :
    decodeTableWord 64 0x70000A0BFE01A002 = some (.sadd (so 5 (.scalar 5) .imm (.scalar 0) .n64 0 1)) ∧
    decodeTableWord 64 0x77000E2468AC20F0 = some (.smovi ⟨p0, p0, 7, .n32, false, 0x12345678⟩) := by decide +kernel
theorem test_decode_memory :
    decodeTableWord 64 0x80000BF07C084400 = some (.ld (mo 5 .zero .zero 4 0 .device 1 0 0)) ∧
    decodeTableWord 64 0x808009F060284000 = some (.st (mo 4 .zero (.konst 1) 4 0 .device 0 0 0)) ∧
    decodeTableWord 64 0x808009E000091810 = some (.st (mo 4 (.special .lane) (.age 0) 4 2 .workgroup 2 0 16)) ∧
    decodeTableWord 64 0x810009F07C084000 = some (.ldl (mo 4 .zero .zero 4 0 .device 0 0 0)) ∧
    decodeTableWord 64 0x820009E060204000 = some (.atom (mo 4 (.special .lane) (.konst 1) 0 0 .device 0 0 0)) ∧
    decodeTableWord 64 0x82800DF000014C00 = some (.acas (mo 6 .zero (.age 0) 0 2 .device 3 0 0)) ∧
    decodeTableWord 64 0x830001F07C004C00 = some (.fence (mo 0 .zero .zero 0 0 .device 3 0 0)) ∧
    decodeTableWord 64 0x840006217C000000 = some (.spres (mo 3 (.frame 2) .zero 0 0 .group 0 0 0)) := by decide +kernel
theorem test_decode_copies :
    decodeTableWord 64 0x90001F0082880000 = some (.cpy (eo 0 .zero 4 5 8 0 0)) ∧
    decodeTableWord 64 0x90001F0083080040 = some (.cpy (eo 0 .zero 4 6 8 0 0 false true)) ∧
    decodeTableWord 64 0x90800218C38A0300 = some (.cpyg (eo 0 (.frame 3) 6 7 10 3 0)) := by decide +kernel
theorem test_decode_sync :
    decodeTableWord 64 0x9180120000000000 = some (.cmt (top 9 0 0 0 0)) ∧
    decodeTableWord 64 0x9200004800000001 = some (.waitt (top 0 9 0 0 1)) ∧
    decodeTableWord 64 0x9200000000004004 = some (.waitt (top 0 0 0 1 4)) ∧
    decodeTableWord 64 0x92000020A0000002 = some (.waitt (top 0 4 5 0 2)) ∧
    decodeTableWord 64 0x9280120000000000 = some (.tlrd (top 9 0 0 0 0)) ∧
    decodeTableWord 64 0x9300000000008000 = some (.bar (top 0 0 0 2 0)) ∧
    decodeTableWord 64 0x9380000000004000 = some (.barc (top 0 0 0 1 0)) ∧
    decodeTableWord 64 0x9400062000004000 = some (.arv (top 3 4 0 1 0)) := by decide +kernel
theorem test_decode_matrix :
    decodeTableWord 64 0xA000000000000000 = some (.btake (top 0 0 0 0 0)) ∧
    decodeTableWord 64 0xA080000000000000 = some (.bpass (top 0 0 0 0 0)) ∧
    decodeTableWord 64 0xA4005F0000000000 = some (.talloc (eo 2 .zero 0 0 0 0 0)) ∧
    decodeTableWord 64 0xA4805F0000000000 = some (.tfree (eo 2 .zero 0 0 0 0 0)) ∧
    decodeTableWord 64 0xA100020080030000 = some (.mms (eo 0 (.frame 0) 4 0 3 0 0)) ∧
    decodeTableWord 64 0xA1000200800300C0 = some (.mms (eo 0 (.frame 0) 4 0 3 0 0 true true)) ∧
    decodeTableWord 64 0xA1803F0082860540 = some (.mml (eo 1 .zero 4 5 6 5 0 false true)) ∧
    decodeTableWord 64 0xA2001F00A0000004 = some (.aclr (eo 0 .zero 5 0 0 0 4)) ∧
    decodeTableWord 64 0xA2803F00C00A0001 = some (.ald (eo 1 .zero 6 0 10 0 1)) ∧
    decodeTableWord 64 0xA3003F00E00C0040 = some (.adrn (eo 1 .zero 7 0 12 0 0 false true)) ∧
    decodeTableWord 64 0xA380024000000000 = some (.adrv (eo 0 (.frame 8) 0 0 0 0 0)) := by decide +kernel
theorem test_decode_counting :
    decodeTableWord 64 0xB000020080030000 = some (.mcnt (eo 0 (.frame 0) 4 0 3 0 0)) ∧
    decodeTableWord 64 0xB0807F0082861540 = some (.mcntl (eo 3 .zero 4 5 6 21 0 false true)) ∧
    decodeTableWord 64 0xB1007F0000000000 = some (.mmrg (eo 3 .zero 0 0 0 0 0)) ∧
    decodeTableWord 64 0xB1807F0000000000 = some (.cntz (eo 3 .zero 0 0 0 0 0)) ∧
    decodeTableWord 64 0xB2003F0000081000 = some (.bfly (eo 1 .zero 0 0 8 16 0)) ∧
    decodeTableWord 64 0xB2803F0000100700 = some (.bflyp (eo 1 .zero 0 0 16 7 0)) ∧
    decodeTableWord 64 0xB30060BE07C02200 = some (.twg (vo (.konst 5) (.special .lane) .zero .n32 1 0)) := by decide +kernel
theorem test_decode_tasks :
    decodeTableWord 64 0xC0000A30E0000000 = some (.enq (top 5 6 7 0 0)) ∧
    decodeTableWord 64 0xC100002000000000 = some (.deq (top 0 4 0 0 0)) ∧
    decodeTableWord 64 0xC1800640003FC001 = some (.dcadd (top 3 8 0 0xFF 1)) := by decide +kernel
theorem test_decode_system :
    decodeTableWord 64 0xD00000000001C000 = some (.trap (top 0 0 0 7 0)) ∧
    decodeTableWord 64 0xD080000000014000 = some (.bpt (top 0 0 0 5 0)) ∧
    decodeTableWord 64 0xD100000000000000 = some (.tret (top 0 0 0 0 0)) ∧
    decodeTableWord 64 0xD180100000010000 = some (.csrr (top 8 0 0 4 0)) ∧
    decodeTableWord 64 0xD200003000020000 = some (.csrw (top 0 6 0 8 0)) ∧
    decodeTableWord 64 0xD2807C1F07C00000 = some (.flags (vo .zero .zero .zero .i32 0 0)) ∧
    decodeTableWord 64 0xD3007C1F07C0007E = some (.flclr (vo .zero .zero .zero .i32 0 0x3F)) ∧
    decodeTableWord 64 0xD380080000000000 = some (.time (top 4 0 0 0 0)) ∧
    decodeTableWord 64 0xD400082800000000 = some (.ctrrd (top 4 5 0 0 0)) ∧
    decodeTableWord 64 0xD4800028C0000000 = some (.ctrcfg (top 0 5 6 0 0)) := by decide +kernel
theorem test_decode_refused :
    decodeTableWord 64 0x0500000000000000 = none ∧ decodeTableWord 64 0x0040000000000000 = none ∧
    decodeTableWord 64 0xFC02000000000000 = none ∧ decodeTableWord 64 0xB30060BE07C02001 = none := by decide +kernel
theorem test_encode_words :
    encode (.br (bo (-3) 0 p0 0)) = some 0x00807FFFE8000000 ∧
    encode (.imadw (vo (.frame 0) (.frame 1) (.frame 2) .n32 0 0)) = some 0x2280080208842000 ∧
    encode (.st (mo 4 (.special .lane) (.age 0) 4 2 .workgroup 2 0 16)) = some 0x808009E000091810 ∧
    encode (.mml (eo 1 .zero 4 5 6 5 0 false true)) = some 0xA1803F0082860540 ∧
    encode (.dcadd (top 3 8 0 0xFF 1)) = some 0xC1800640003FC001 ∧
    encode (.missDataReturn 0 0 0) = none := by decide +kernel

/-! ## States in which the hypotheses of the statements hold -/

/-- A module with one group in slot 0 of core 0, of the physical function, all lanes active. -/
def demo : State := State.reset.withFetchWord 64 0
theorem test_demo_some : (demo.ctx?).isSome = true := by decide +kernel
def demoCtx : Ctx := (demo.ctx?).get test_demo_some
/-- The context of the issuing group. -/
def cx (s : State) : Ctx := (s.ctx?).getD demoCtx
def full : LaneMask := BitVec.allOnes 96
/-- The demo with its group changed. -/
def dm (f : Group → Group) : State := demo.modGroup 0 0 f

/-- The hypothesis `Issues` as a check. -/
def readyG (s : State) (g1 g2 : Guard) (E : LaneMask) : Bool :=
  !s.sys.stopped && (s.ctx?).isSome && (cx s).maskReady.isOk && (cx s).g.exec g1 g2 == E &&
    ((cx s).g.pc.next (cx s).g.sv).isSome
def ready (s : State) : Bool := readyG s p0 p0 full
def okv {ε α : Type} (x : Except ε α) : Bool := x.isOk

theorem test_isOk_unit {ε : Type} (x : Except ε Unit) (h : x.isOk = true) : x = .ok () := by
  cases x <;> simp_all [Except.isOk, Except.toBool]
theorem test_isOk_some {ε α : Type} (x : Except ε α) (h : okv x = true) : ∃ a, x = .ok a := by
  cases x <;> simp_all [okv, Except.isOk, Except.toBool]
/-- What the check says. -/
theorem test_ready_issues (s : State) (g1 g2 : Guard) (E : LaneMask) (h : readyG s g1 g2 E = true) :
    ∃ pc, Issues s (cx s) g1 g2 E pc := by
  simp only [readyG, Bool.and_eq_true, Bool.not_eq_true', beq_iff_eq, Option.isSome_iff_exists] at h
  obtain ⟨⟨⟨⟨h1, c, h2⟩, h3⟩, h4⟩, pc, h5⟩ := h
  exact ⟨pc, h1, by simp [cx, h2], test_isOk_unit _ h3, h4, h5⟩
/-- The demo's group after each lane has pushed 5, 3 and 7. -/
def coil3 (g : Group) : Group := g.modLanes full fun _ ln => ln.pushAll 64 [.word 5, .word 3, .word 7]
/-- An example of a divergent entry at slot 1 of an RJT bundle, completing, both sides of two pushes. -/
def completing (g : Group) : Group :=
  { coil3 g with completing := true, rjt := true, members := full,
                 stack := [.rcv 0x1000 0 full full 0 [] []] }
def peer : Group := { demoCtx.g with gid := 1, wgn := 1 }
def wg0 : Workgroup :=
  { job := 0, vf := pfn, part := 0, wgid := 0, clset := 0, first := 0, count := 192, stolen := 0, gpw := 2, rowsPer := 16,
    spadRows := 8, spad := [], absent := [], barriers := [], xslots := [], spilled := [], arriving := [], ptab := [] }
/-- The demo with a workgroup of two groups, the second changed by f. -/
def dw (w : Workgroup → Workgroup) (f : Group → Group) : State :=
  demo.modCore 0 fun k => { k with wgs := [(0, w wg0)], groups := nins k.groups 1 (f peer) }
/-- A card with constant words. -/
def jobOf (ks : List DWord) : Job :=
  { vf := pfn, part := 0, queue := 0, seq := 0, addr := 0x4000, words := List.replicate 8 0, cstate := .started,
    parsed := true, enteredAt := 0, startedAt := 0, order := 0, ranges := [], conds := [], met := [], released := false,
    lrec := List.replicate 16 0, ktab := ks, ptab := [], next := 0, chunks := 0, sized := 0, wgid := 0, refused := none,
    faultCode := none, dscrDie := [] }
def withJob (s : State) (ks : List DWord) : State := { s with jobs := [(0, jobOf ks)] }
/-- Whether a check raised a fault of this code and subcode. -/
def raised {α : Type} (x : Except Trap α) (code sub : Nat) : Bool :=
  match x with
  | .error (.fault a b _ _) => a == code && b == sub
  | _ => false
/-- Guard p1, which no lane of the demo passes. -/
def none1 : Guard := pn 1

/-! ## The hypotheses of the statements can be met -/

theorem test_hyp_vector : ready demo = true ∧ okv ((cx demo).sources (demo.wgidOf (cx demo)) full
    (vo .imm (.konst 3) (.frame 5) .i32 0 1) ((vrule 0x044).uses (vo .imm (.konst 3) (.frame 5) .i32 0 1))) = true := by
  decide +kernel
theorem test_hyp_vector_names : let c := cx (dm coil3)
    (∀ p ∈ usedNames (vo (.age 2) (.frame 703) .zero .i32 0 0) (.word, .word, .no),
      (∀ n : Fin 64, p.1 = .age n → n.val + p.2 ≤ c.g.coilD ∧
        ∀ l : Fin 96, inMask full l.val = true → (c.g.lane l).act.live (n.val + p.2) = true) ∧
      (∀ n : Fin 704, p.1 = .frame n → n.val + p.2 ≤ c.g.frameSize)) := by decide +kernel
theorem test_hyp_vector_values : ∀ l : Fin 96, ∃ v w : DWord,
    (cx (dm coil3)).vsrc 0 .i32 0 false (.age 2) l = .val v ∧
    (cx (dm coil3)).vsrc 0 .i32 0 false (.frame 703) l = .val w := by
  intro l; exact ⟨5, 0, by revert l; decide +kernel⟩
theorem test_hyp_vector_trap : ready demo = true ∧ raised ((cx demo).sources (demo.wgidOf (cx demo)) full
    (vo (.age 0) (.age 1) .zero .i32 0 0) ((vrule 0x040).uses (vo (.age 0) (.age 1) .zero .i32 0 0))) 0x06 1 = true := by
  decide +kernel
theorem test_hyp_exchange : ready (dm coil3) = true ∧ okv ((cx (dm coil3)).sources 0 full
    (vo (.age 0) .zero .zero .i32 0 0) ((vrule 0x0C4).uses (vo (.age 0) .zero .zero .i32 0 0))) = true := by decide +kernel
theorem test_hyp_wrlane : ready (dm coil3) = true ∧ okv ((cx (dm coil3)).sources 0 full
    (vo (.frame 703) (.age 0) .zero .i32 0 95) ((vrule 0x0CA).uses (vo (.frame 703) (.age 0) .zero .i32 0 95))) = true ∧
    okv ((cx (dm coil3)).framePending (maskOf fun l => l == 95 && inMask full l) 703) = true := by decide +kernel
theorem test_hyp_scalar : ready demo = true ∧ okv ((cx demo).ssources 0 0x0E0 (so 63 (.scalar 63) .zero (.scalar 0) .n64 0 0))
    = true ∧ okv ((cx demo).freeS 63) = true ∧ okv (writeS (cx demo).g 63 0xFFFFFFFF) = true := by decide +kernel
theorem test_hyp_scmp : ready demo = true ∧ okv ((cx demo).ssources 0 0x0EB (so 60 (.scalar 1) .zero (.scalar 0) .n64 0 7))
    = true ∧ okv ((cx demo).freeS 60) = true ∧
    okv (writeS ((cx demo).g.modLanes full fun _ ln => ln.setP 7 (intCond 0 0 0)) 60 1) = true := by decide +kernel
theorem test_hyp_smovi : ready demo = true ∧ okv ((cx demo).freeS 0) = true ∧
    okv (writeS (cx demo).g 0 ((0x80000000 : BitVec 32).signExtend 64)) = true := by decide +kernel
theorem test_hyp_mask_write :
    (61 ≤ 61 ∧ 61 < 64 ∧ lowWord 0x5 &&& ~~~(maskWord full (61 - 61)) = 0) ∧
    (lowWord 0x5 &&& ~~~(maskWord (1 : LaneMask) (61 - 61)) ≠ 0) ∧
    (lowWord 0x5 &&& ~~~(maskWord (1 : LaneMask) (63 - 61)) ≠ 0) := by decide +kernel
theorem test_hyp_save : ready (dm coil3) = true ∧ okv ((cx (dm coil3)).sources 0 full
    (vo (.frame 702) (.age 0) .zero .i64 0 0) ((vrule 0x022).uses (vo (.frame 702) (.age 0) .zero .i64 0 0))) = true ∧
    (∀ i : Nat, i < 2 → okv ((cx (dm coil3)).framePending full (702 + i)) = true) := by decide +kernel
theorem test_hyp_savem : ready (dm coil3) = true ∧
    okv ((cx (dm coil3)).checkNames full [(.frame 701, 3), (.age 0, 3)]) = true ∧
    (∀ i : Nat, i < 3 → okv ((cx (dm coil3)).framePending full (701 + i)) = true) ∧
    okv ((List.range 3).mapM fun i => (cx (dm coil3)).readLanes full fun l =>
      (((cx (dm coil3)).g.lane l).act.age 64 (0 + 3 - i)).opnd) = true := by decide +kernel
theorem test_hyp_frame : ready demo = true ∧ okv ((cx demo).need full ((cx demo).vsrc 0 .i32 5 false .imm 0)) = true ∧
    (lowWord 5 : BitVec 32).toNat ≤ 704 ∧ (cx demo).g.rets = [] ∧ 5 ≤ (cx demo).g.fslots ∧
    (cx demo).g.base + (cx demo).g.coilD + 5 ≤ (cx demo).g.cap := by decide +kernel
def rj : State := withJob (dm completing) [0x3000000, 0x2200000000000000]
theorem test_hyp_rjn : ready rj = true ∧ (cx rj).g.pc.slot = 1 ∧ (cx rj).g.rjt = true ∧ (cx rj).g.completing = true ∧
    (cx rj).g.stack = [.rcv 0x1000 0 full full 0 [] []] ∧
    ((cx rj).kreg 1).toNat * 2 ^ 64 + ((cx rj).kreg 0).toNat = 2 ^ 125 + 2 ^ 121 + 3 * 2 ^ 24 ∧
    (∀ l : Fin 96, rjCheck 64 (2 ^ 125 + 2 ^ 121 + 3 * 2 ^ 24) 1 ((cx rj).g.lane l).act 0 0 = none) ∧
    okv ((List.range 1).mapM fun i => (cx rj).readLanes full fun l => (((cx rj).g.lane l).act.age 64
      ((rjSide (2 ^ 125 + 2 ^ 121 + 3 * 2 ^ 24) 0 1).2.getD i 1)).opnd) = true := by decide +kernel
/-- Half of the lanes have p1 set. -/
def split1 (g : Group) : Group := g.modLanes (maskOf fun l => l < 48) fun _ ln => ln.setP 1 true
theorem test_hyp_branch : ready demo = true ∧ (∀ l : Fin 96, ((cx demo).g.lane l).guard p0 = true) ∧
    (∀ l : Fin 96, ((cx demo).g.lane l).guard (pn 1) = false) ∧
    (branchTo (cx demo).g.pc.bundle 2).extractLsb' 56 8 = 0 ∧ full ≠ 0 := by decide +kernel
theorem test_hyp_breach : ready (dm split1) = true ∧
    lanesWhere full (fun l => ((cx (dm split1)).g.lane l).guard (pn 1)) ≠ 0 ∧
    lanesWhere full (fun l => ((cx (dm split1)).g.lane l).guard (pn 1)) ≠ full ∧
    (cx (dm split1)).g.stack.length + 2 ≤ 32 := by decide +kernel
/-- The demo with an entry bundle at 0x2000 in the instruction cache and s9 naming it. -/
def landing : State := (demo.modCore 0 fun k => { k with icache :=
    k.icache ++ [{ vf := pfn, job := 0, va := 0x2000, words := [0xFC02800000000000, 0, 0, 0, 0, 0, 0, 0] }] }).modGroup 0 0
  fun g => { g.setS 9 0x2000 with coilD := 8, frameSize := 0 }
def fetched (x : Fetched) : Bool := match x with
  | .words ws _ => hdrEntry (ws.headD 0)
  | _ => false
theorem test_hyp_jmpi : ready landing = true ∧ okv ((cx landing).readS 9) = true ∧
    (0x2000 : DWord).extractLsb' 56 8 = 0 ∧ (0x2000 : DWord).toNat % 64 = 0 ∧
    fetched (landing.fetchBundle 0 (cx landing).g 0x2000) = true := by decide +kernel
theorem test_hyp_brk : ready (dm fun g => { g with stack := [.rcv 0x3000 0 full 0 0 [] []] }) = true ∧
    (cx (dm fun g => { g with stack := [.rcv 0x3000 0 full 0 0 [] []] })).g.inner = some 0 := by decide +kernel
theorem test_hyp_yldp : (ready demo = true ∧ (cx demo).g.siblingTop = 0) ∧
    (let s := dm fun g => { g with stack := [.pnd ⟨0x3000, 1⟩ 0 1 1, .rcv 0x4000 0 full 0 0 [] []] }
     ready s = true ∧ 0 < (cx s).g.siblingTop ∧ (cx s).g.inner.isSome = true) := by decide +kernel
theorem test_hyp_exit : ready demo = true ∧ (cx demo).g.csr.inHandler = false ∧ okv (cx demo).flagsIn = true ∧
    (cx demo).g.newFlagsOr full = 0 ∧ (cx demo).g.newEngine = 0 := by decide +kernel
/-- The demo with a small coil that holds three values, and room for a call. -/
def callable (g : Group) : Group := { coil3 g with coilD := 64, frameSize := 8 }
theorem test_hyp_call : let c := cx (dm callable)
    ready (dm callable) = true ∧ okv (c.floorN full 3) = true ∧ okv (c.readAges full 3) = true ∧
    (branchTo c.g.pc.bundle 3).extractLsb' 56 8 = 0 ∧ c.g.depth ≠ c.g.cdepth ∧
    c.g.base + c.g.coilD + c.g.frameSize + c.g.coilD ≤ c.g.cap ∧ c.g.pc.slot < 8 := by
  decide +kernel
theorem test_hyp_calli : let c := cx landing
    ready landing = true ∧ okv (c.floorN full 0) = true ∧ okv (c.readAges full 0) = true ∧ okv (c.readS 9) = true ∧
    fetched (landing.fetchBundle 0 c.g 0x2000) = true ∧ c.g.depth ≠ c.g.cdepth ∧
    c.g.base + c.g.coilD + c.g.frameSize + c.g.coilD ≤ c.g.cap := by decide +kernel
def called : State := dm fun g => { coil3 g with rets :=
  [.call ⟨0x1000, 2⟩ 0x1000 0 8 3 full full 0 (Vector.replicate 96 LaneAct.fresh)] }
theorem test_hyp_ret : let c := cx called
    ready called = true ∧ okv (c.floorN full 1) = true ∧ okv (c.readAges full 1) = true ∧
    c.g.rets.length = 1 ∧ c.g.stack.length = 0 := by decide +kernel
def meeting (x : XSlot) (f : Group → Group) : State := dw (fun w => { w with xslots := [(3, x)] }) f
theorem test_hyp_xsend : let s := meeting (.receiving 1) fun g => { g with resume := .recv 3 full 0 }
    ready s = true ∧ (cx s).g.csr.inHandler = false ∧ s.hasPartner 0 0 0 = true ∧ (cx s).g.sq.isEmpty = true ∧
    (cx s).g.loads.isEmpty = true ∧ okv ((cx s).sources 0 full (vo .imm .zero .zero .i32 0 3) ((vrule 0x0C7).uses (vo .imm .zero .zero .i32 0 3))) = true ∧
    s.xslot 0 0 3 = .receiving 1 ∧ (s.group? 0 1).map (·.resume) = some (.recv 3 full 0) ∧ (1 : Nat) ≠ (cx s).slot := by decide +kernel
theorem test_hyp_xrecv : let s := meeting (.sending 1) fun g => { g with resume := .send 3 full [] }
    ready s = true ∧ s.hasPartner 0 0 0 = true ∧ s.xslot 0 0 3 = .sending 1 ∧
    (s.group? 0 1).map (·.resume) = some (.send 3 full []) ∧ (1 : Nat) ≠ (cx s).slot := by decide +kernel
theorem test_hyp_rendezvous : (let s := dw id id
     ready s = true ∧ s.hasPartner 0 0 0 = true ∧ s.xslot 0 0 3 = .empty ∧ (cx s).g.sq.isEmpty = true ∧
       (cx s).g.loads.isEmpty = true) ∧
    (let s := meeting (.sending 1) fun g => { g with resume := .send 3 1 [] }
     ready s = true ∧ s.xslot 0 0 3 = .sending 1 ∧ (1 : LaneMask) ≠ full ∧
       ((s.setXslot 0 0 3 .empty).ctxOf 0 1).isSome = true) ∧
    (let s := meeting (.receiving 1) fun g => { g with resume := .recv 3 1 0 }
     ready s = true ∧ s.xslot 0 0 3 = .receiving 1 ∧ (s.group? 0 1).map (·.resume) = some (.recv 3 1 0) ∧
       (cx s).g.sq.isEmpty = true ∧ (cx s).g.loads.isEmpty = true ∧
       ((s.setXslot 0 0 3 .empty).ctxOf 0 1).isSome = true) := by decide +kernel

/-! ### Memory -/

/-- The demo's lanes 8 bytes apart: age 1 is 8 times the lane, s4 is 0x1000. -/
def mem1 (g : Group) : Group :=
  (g.modLanes full fun l ln => ln.pushAll 64 [.word (BitVec.ofNat 32 (8 * l.val))]).setS 4 0x1000
def md : State := dm mem1
def ldOps : MOps := mo 4 (.age 0) .zero 4 0 .device 0 0 0
def stOps : MOps := mo 4 (.age 0) (.special .lane) 4 0 .device 2 0 0
def wordChk (w : Bool) : Want := { priv := true, size := 4, write := w, uncached := true }
/-- The lanes' addresses, as the rule of R74 gives them. -/
def addrs : Vector DWord 96 := Vector.ofFn fun l => BitVec.ofNat 64 (0x1000 + 8 * l.val)
def got (x : Except Trap (Vector DWord 96)) (a : Vector DWord 96) : Bool := match x with
  | .ok v => v == a
  | .error _ => false

theorem test_hyp_checks_pass : ∀ p ∈ md.checks (cx md) full (wordChk false) addrs,
    (match p.2.2 with | .ok _ _ => true | _ => false) = true := by decide +kernel
theorem test_hyp_checks_fail : let cs := [(0, (4 : DWord), Chk.ok (.phys 4) 0), (1, 6, Chk.bad 2 0x11 1), (5, 9, Chk.bad 2 0x11 1)]
    cs = [(0, 4, .ok (.phys 4) 0)] ++ (1, 6, .bad 2 0x11 1) :: [(5, 9, .bad 2 0x11 1)] ∧ 2 < 6 ∧
    (∀ p ∈ [(0, (4 : DWord), Chk.ok (.phys 4) 0)], 2 < p.2.2.rank) ∧
    (∀ p ∈ [(5, (9 : DWord), Chk.bad 2 0x11 1)], 2 ≤ p.2.2.rank) := ⟨rfl, by decide, by decide, by decide⟩
theorem test_hyp_ld : ready md = true ∧ got ((cx md).addresses 0 full ldOps 1 4 0) addrs = true ∧
    okv (md.judge (cx md) false (md.checks (cx md) full (wordChk false) addrs)) = true ∧
    (∀ p ∈ placed (md.checks (cx md) full (wordChk false) addrs),
      md.flipping p.loc = false ∧ (cx md).g.behindAtomic p.loc 4 = false) ∧
    privLanes (placed (md.checks (cx md) full (wordChk false) addrs)) = 0 ∧
    okv ((cx md).readLanes 0 fun _ => .bad 0) = true := by decide +kernel
def mw : State := (dw id id).modGroup 0 0 fun g => (g.modLanes full fun _ ln => ln.pushAll 64 [.word 0]).setS 4 0x1000
theorem test_hyp_ldl : let a : Vector DWord 96 := Vector.replicate 96 0x1000
    ready mw = true ∧ got ((cx mw).addresses 0 full ldOps 1 128 0) a = true ∧
    okv (mw.judge (cx mw) false (needed (cx mw).g.helper (mw.lineChecks (cx mw) full false a))) = true ∧
    (∀ p ∈ lineLanes (mw.lineChecks (cx mw) full false a),
      mw.flipping p.loc = false ∧ (cx mw).g.behindAtomic p.loc 4 = false) := by decide +kernel
def sp : State := (dw id id).modGroup 0 0 fun g => g.setS 4 0xF000000000000000
theorem test_hyp_spres : let a : Vector DWord 96 := Vector.replicate 96 0xF000000000000000
    ready sp = true ∧ got ((cx sp).addresses 0 full (mo 4 .zero .zero 0 0 .group 0 0 0) 1 128 0) a = true ∧
    okv (sp.judge (cx sp) false (sp.checks (cx sp) full { global := false, dscr := false, size := 1, write := false } a))
      = true := by decide +kernel
def placedOk (x : Chk) : Option (Loc × Nat) := match x with
  | .ok l t => some (l, t)
  | _ => none
theorem test_hyp_sld : let f := so 60 (.scalar 4) .zero (.scalar 0) .n64 3 0
    ready md = true ∧ okv ((cx md).ssources 0 0x0EF f) = true ∧ okv ((cx md).freeS 60) = true ∧
    placedOk (md.check (cx md).req { size := 8, write := false, uncached := true } (sAddr 0x1000 0 8)) =
      some (.phys 0x1000, 0) ∧
    md.flipping (.phys 0x1000) = false ∧ (cx md).g.behindAtomic (.phys 0x1000) 8 = false ∧
    md.atHand 0 pfn (md.viaOf false (.phys 0x1000) 0) (.phys 0x1000) = false := by decide +kernel
def l1Line : L1Line := { pa := 0x1000, ctx := pfn, data := List.replicate 128 7, poisoned := [] }
def mc : State := md.modCore 0 fun k => { k with l1 := [l1Line] }
theorem test_hyp_sld_hit : ready mc = true ∧ mc.atHand 0 pfn (mc.viaOf false (.phys 0x1000) 0) (.phys 0x1000) = true ∧ (cx mc).g.loads = [] ∧
    mc.partValue 0 pfn (mc.viaOf false (.phys 0x1000) 0) [] 1 ⟨0, .phys 0x1000, 8, false, false⟩ = some 0x0707070707070707 ∧
    okv (writeS (cx mc).g 60 0x0707070707070707) = true := by decide +kernel
theorem test_hyp_st : ready md = true ∧ got ((cx md).addresses 0 full stOps 1 4 1) addrs = true ∧
    okv ((cx md).readLanes full ((cx md).vsrc 0 .n32 0 false (.special .lane))) = true ∧
    okv (md.judge (cx md) true (md.checks (cx md) full (wordChk true) addrs)) = true ∧
    (∀ p ∈ placed (md.checks (cx md) full (wordChk true) addrs), md.flipping p.loc = false) ∧
    (beatsFrom .store 2 .device 0 md.nextId 0x1001 ((placed (md.checks (cx md) full (wordChk true) addrs)).map fun p =>
      { lane := p.lane, loc := p.loc, size := 4, data := 0, cached := true })).length ≤ 32 := by decide +kernel
theorem test_hyp_stl : let a : Vector DWord 96 := Vector.replicate 96 0x1000
    ready mw = true ∧ got ((cx mw).addresses 0 full stOps 1 128 1) a = true ∧
    okv (mw.judge (cx mw) true (needed (cx mw).g.helper (mw.lineChecks (cx mw) full true a))) = true ∧
    (∀ p ∈ lineLanes (needed (cx mw).g.helper (mw.lineChecks (cx mw) full true a)), mw.flipping p.loc = false) := by
  decide +kernel
theorem test_hyp_sst : ready md = true ∧ okv ((cx md).ssources 0 0x0F0 (so 0 (.scalar 4) (.scalar 5) (.scalar 0) .n64 3 0))
    = true ∧ placedOk (md.check (cx md).req { size := 8, write := true, uncached := true } (sAddr 0x1000 0 8)) =
      some (.phys 0x1000, 0) ∧ (cx md).g.sq.length < 32 := by decide +kernel
def beat1 : Beat := ⟨.store, [{ lane := 0, loc := .phys 0x1000, size := 4, data := 0x01020304 }], 0, .device, 0, 1, 0⟩
def queued : State := dm fun g => { g with sq := [beat1] }
theorem test_hyp_drain : queued.sys.stopped = false ∧ queued.sys.off = false ∧ (queued.group? 0 0).map (fun g => queued.drainable 0 g) = some (some beat1)
    ∧ beat1.op = .store ∧ queued.mem.wf = true ∧ queued.dscr.wf = true ∧
    (demo.group? 0 0).map (fun g => demo.drainable 0 g) = some none := by decide +kernel
theorem test_hyp_drain_scratch : let b := { beat1 with elems := [{ lane := 0, loc := .dscr 1 8, size := 4, data := 5 }] }
    let s := dm fun g => { g with sq := [b] }
    (s.group? 0 0).map (fun g => s.drainable 0 g) = some (some b) := by decide +kernel
def pend1 : PendReq := { id := 9, kind := 2, obj := 0x1000, pc := 0x1001, stamp := 1, hint := 0, via := .l1 true, acq := none,
                         dest := .lanes [⟨0, .phys 0x1000, 4, false, false⟩] }
def loading : State := dm fun g => { g with pends := [pend1] }
theorem test_hyp_land : loading.sys.stopped = false ∧ loading.sys.off = false ∧
    (loading.group? 0 0).map (fun g => loading.landable g) = some (some pend1) ∧ pend1.id = 9 ∧ pend1.id ≠ 8 ∧
    loading.poison = [] ∧ (loading.core 0).l1Find pfn 0x1000 = none := by decide +kernel
def atOps : MOps := mo 4 (.special .lane) (.special .lane) 0 0 .device 0 0 0
def addrs4 : Vector DWord 96 := Vector.ofFn fun l => BitVec.ofNat 64 (0x1000 + 4 * l.val)
theorem test_hyp_atom : ready md = true ∧ got ((cx md).addresses 0 full atOps 4 4 1) addrs4 = true ∧
    okv ((cx md).readLanes full ((cx md).vsrc 0 .n32 0 false (.special .lane))) = true ∧
    okv (md.judge (cx md) true (md.checks (cx md) full { size := 4, write := true } addrs4)) = true ∧
    (∀ p ∈ placed (md.checks (cx md) full { size := 4, write := true } addrs4), md.flipping p.loc = false) ∧
    (beatsFrom .store 0 .group 0 0 0 ((placed (md.checks (cx md) full { size := 4, write := true } addrs4)).map fun p =>
      { lane := p.lane, loc := p.loc, size := 4, data := 0 })).length = 3 := by decide +kernel
def mcas : State := md.modGroup 0 0 fun g => g.modLanes full fun _ ln => ln.pushAll 64 [.word 1, .word 2]
def casOps : MOps := mo 4 (.special .lane) (.age 0) 0 0 .device 0 0 0
theorem test_hyp_acas : ready mcas = true ∧ got ((cx mcas).addresses 0 full casOps 4 4 2) addrs4 = true ∧
    okv ((cx mcas).casData 0 full casOps false) = true ∧
    okv (mcas.judge (cx mcas) true (mcas.checks (cx mcas) full { size := 4, write := true } addrs4)) = true ∧
    mcas.poisoned (.phys 0x1000) 4 = false := by decide +kernel
theorem test_hyp_fence : ready demo = true ∧ (cx demo).g.loads = [] ∧ (cx demo).g.sq = [] ∧
    readyG demo none1 p0 0 = true ∧ ready loading = true ∧ (cx loading).g.loads ≠ [] ∧ ready queued = true ∧
    (cx queued).g.sq ≠ [] := by decide +kernel
theorem test_hyp_prefetch : let a : Vector DWord 96 := Vector.replicate 96 0x1000
    ready mw = true ∧ got ((cx mw).addresses 0 full (mo 4 .zero .zero 0 0 .group 0 1 0) 1 128 0) a = true ∧
    scopeWide .device = true ∧ scopeWide .group = false ∧ (match mw.xlate 0 pfn 0x1000 false with
      | .ok _ => true | _ => false) = true := by decide +kernel
/-- The demo's core with the page of 0x1000 in its TLB, written through. -/
def page0 : TlbEntry := ⟨pfn, 0, 65536, 0, true, true, true, 0, true, 0⟩
def tlbd : State := md.modCore 0 fun k => { k with tlb := [page0] }
theorem test_hyp_frame_memory : ∀ p ∈ placed (tlbd.checks (cx tlbd) full (wordChk true) addrs),
    (tlbFind (tlbd.core 0).tlb (cx tlbd).g.vf (p.va.toNat % 2 ^ 57) true).isSome = true := by decide +kernel
theorem test_hyp_frame_local : (demo.ctx?).isSome = true ∧ inMask full 95 = true ∧ inMask (1 : LaneMask) 95 = false := by
  decide +kernel
theorem test_hyp_push : 0 < 64 ∧ 64 ∣ 2 ^ 32 ∧ nsorted none ((cx (dm coil3)).g.lane 0).act.coil = true ∧
    ((cx (dm coil3)).g.lane 0).act.count ≤ 64 ∧ 0 < 63 ∧ 63 < 64 := by decide +kernel
theorem test_hyp_skip : readyG demo none1 p0 0 = true ∧ (0x07 : BitVec 8).toNat = 7 ∧ (cx demo).g.csr.inHandler = false ∧
    (let s := dm fun g => { g with csr := { g.csr with inHandler := true } }
     readyG s none1 p0 0 = true ∧ (cx s).g.csr.inHandler = true) ∧
    skips (.fence { mo 0 .zero .zero 0 0 .device 3 0 0 with g1 := none1 }) = some (none1, p0) := by decide +kernel

/-! ### Group-wide instructions -/

/-- s4 names a word of memory, s5 holds 0, the group's timeline t0 has batch 1 complete and batch 2 open. -/
def sync1 (g : Group) : Group := { g.setS 4 0x1000 with t0 := { c := 2, k := 1, batches := [(2, [7])] } }
def ms : State := dm sync1
/-- s4 names scratchpad byte 0, s5 byte 3840 of it. -/
def spads (g : Group) : Group := (((g.setS 4 0xF000000000000000).setS 5 0xF000000000000F00).setS 6 0x40)
/-- A workgroup with room, the constant words of the spec's matrix example in k0 on, baton and tile 0 held. -/
def tileOf (m : TMode) : Tile := { owner := some 0, mode := m }
def eng (ks : List DWord) (m : TMode) (f : Group → Group := id) : State :=
  ((withJob (dw (fun w => { w with spadRows := 64 }) id) ks).modGroup 0 0 fun g => f (spads g)).modEng 0 fun e =>
    { e with baton := some 0, tiles := e.tiles.set 0 (tileOf m), bank := if m = .count then some 0 else none }

theorem test_hyp_cpy : let s := (dw id id).modGroup 0 0 fun g => (spads g).setS 5 0x1000
    let s := withJob s [128, 0, 0]
    ready s = true ∧ okv ((cx s).readS 5) = true ∧ okv ((cx s).readS 4) = true ∧
    cpyBad 0 ((cx s).kreg 0) 0 0 0xF000000000000000 = false ∧
    okv (s.copyChecks (cx s) full 0 0 0 0x1000 0xF000000000000000 128 0 0) = true ∧ (cx s).g.sq = [] ∧
    (cx s).g.loads = [] ∧ (s.copyContext (cx s)).isSome = true := by decide +kernel
theorem test_hyp_cpyg : let s := (dw id id).modGroup 0 0 fun g => (spads g).setS 5 0x1000
    let s := withJob s [0x0000001004200002, 0x0000000800000008, 0]
    ready s = true ∧ okv ((cx s).checkNames full [(.frame 3, 1)]) = true ∧
    okv ((cx s).readLanes full ((cx s).vsrc 0 .n32 0 false (.frame 3))) = true ∧
    cpyBad 1 ((cx s).kreg 0) 0 3 0xF000000000000000 = false ∧
    okv (s.copyChecks (cx s) full 1 3 96 0x1000 0xF000000000000000 0x0000001004200002 0x0000000800000008 0) = true := by
  decide +kernel
theorem test_hyp_cmt : ready ms = true ∧ okv ((cx ms).freeS 60) = true := by decide +kernel
theorem test_hyp_waitt : ready ms = true ∧ okv ((cx ms).readS 4) = true ∧
    waitBatch ((cx ms).g.tl 0) true 1 0 ≤ ((cx ms).g.tl 0).k ∧ ((cx ms).g.tl 0).k < waitBatch ((cx ms).g.tl 0) true 0 0 := by
  decide +kernel
theorem test_hyp_waitt_mem : ready ms = true ∧ okv (ms.place (cx ms) full (globalWant 8 false) 0x1000) = true ∧
    okv ((cx ms).noQueued (.phys 0x1000) 8) = true ∧ (0 : DWord).toNat ≤ ms.readNat (.phys 0x1000) 8 ∧
    ms.readNat (.phys 0x1000) 8 < (1 : DWord).toNat := by decide +kernel
theorem test_hyp_barrier : let s := dw id id
    ready s = true ∧ (cx s).g.csr.inHandler = false ∧ okv (cx s).flagsIn = true ∧ (cx s).arith full s = none ∧
    (cx s).g.sq = [] ∧ (cx s).g.loads = [] ∧ 15 % 16 = 15 ∧ 3 % 4 = 3 := ⟨by decide +kernel, by decide +kernel,
    by decide +kernel, by rfl, by decide +kernel, by decide +kernel, rfl, rfl⟩
def pobj : State := { (dw (fun w => { w with spad := [⟨0, 2⟩] }) id).modGroup 0 0 spads with poison := [] }
theorem test_hyp_arv : ready pobj = true ∧ okv ((cx pobj).freeS 3) = true ∧
    okv (pobj.place (cx pobj) full (phaseWant true) 0xF000000000000000) = true ∧ pobj.absentLine (.spad 0 0 0) = false ∧
    pobj.poisoned (.spad 0 0 0) 16 = false ∧ 2 ≤ pobj.readNat (.spad 0 0 0) 8 % 2 ^ 32 ∧
    okv (writeS (cx pobj).g 3 (BitVec.ofNat 64 (pobj.readNat ((Loc.spad 0 0 0).add 8) 8))) = true := by decide +kernel
theorem test_hyp_wph : ready pobj = true ∧ okv (pobj.place (cx pobj) full (phaseWant false) 0xF000000000000000) = true ∧
    okv ((cx pobj).noQueued (.spad 0 0 0) 16) = true ∧
    0 < (BitVec.ofNat 64 (pobj.readNat ((Loc.spad 0 0 0).add 8) 8) - 0xFFFFFFFFFFFFFFFF).toInt := by decide +kernel
theorem test_hyp_arv_words : 1 < 2 % 2 ^ 32 ∧
    arvWords 0x300000002 5 1 = [0x300000001, 5] ∧ arvWords 0x300000002 5 2 = [0x300000003, 6] := by decide
theorem test_hyp_baton : (ready demo = true ∧ (demo.eng 0).baton = none ∧ (cx demo).g.csr.inHandler = false) ∧
    (eng [] .exact |>.eng 0).baton = some 0 ∧
    ((demo.modEng 0 fun e => { e with baton := some 1 }).eng 0).baton = some 1 := by decide +kernel
theorem test_hyp_tiles : (demo.tile 0 3).owner = none ∧ (demo.tile 0 3).freeing = false ∧
    ((eng [] .exact).tile 0 0).owner = some 0 ∧ ready (eng [] .exact) = true ∧
    okv ((eng [] .exact).owned (cx (eng [] .exact)) full 0) = true ∧ okv ((cx (eng [] .exact)).closed full 0) = true := by
  decide +kernel
def fbBf16 : DWord := 0x1100000000000001
theorem test_hyp_mms : let s := eng [fbBf16] .exact
    ready s = true ∧ s.latched (cx s) (eo 0 (.frame 0) 4 0 0 0 0) = none ∧
    okv ((cx s).checkNames full [(.frame 0, 6)]) = true ∧ okv ((cx s).fragment full (.frame 0)) = true ∧
    okv ((cx s).readS 4) = true ∧ okv (s.hasBaton (cx s) full) = true ∧ okv (s.owned (cx s) full 0) = true ∧
    okv (s.inMode (cx s) full 0 [.exact]) = true ∧ stepFormat false fbBf16 = none ∧
    okv (s.settleTile (cx s) full 0 fbBf16 (fbElems fbBf16)) = true ∧
    okv (s.latchCheck (cx s) full (eo 0 (.frame 0) 4 0 0 0 0)) = true ∧ okv (engSpace full 0xF000000000000000) = true ∧
    okv (engAlign full 0xF000000000000000 128 []) = true ∧
    okv (s.engRanges (cx s) full ((0xF000000000000000, 0, 3840) :: scaleStretches false fbBf16 0 24)) = true ∧
    (cx s).g.sq = [] ∧ (cx s).g.loads = [] ∧ (s.eng 0).queue.length < 64 := by decide +kernel
theorem test_hyp_mms_latch : let s := (eng [fbBf16] .exact).modEng 0 fun e =>
      { e with latch := some { frame0 := 0, words := List.replicate 6 0 } }
    (s.latched (cx s) (eo 0 (.frame 0) 4 0 0 0 0 true)).isSome = true ∧ okv ((cx s).nameRange full (.frame 0) 6) = true ∧
    okv (s.latchCheck (cx s) full (eo 0 (.frame 0) 4 0 0 0 0 true)) = true := by decide +kernel
theorem test_hyp_mml : let s := eng [fbBf16, 0x00000F0000000900] .exact
    ready s = true ∧ okv ((cx s).readS 5) = true ∧
    okv (engAlign full 0xF000000000000000 128 [(incsOf 0x00000F0000000900).1]) = true ∧
    okv (engAlign full 0xF000000000000F00 128 [(incsOf 0x00000F0000000900).2]) = true ∧
    okv (s.engRanges (cx s) full (stepStretches 0xF000000000000000 0xF000000000000F00
      (incsOf 0x00000F0000000900).1 (incsOf 0x00000F0000000900).2 2 ++ scaleStretches false fbBf16 0 48)) = true := by
  decide +kernel
theorem test_hyp_aclr : let s := eng [] .exact
    ready s = true ∧ okv ((cx s).readS 4) = true ∧ okv (s.owned (cx s) full 0) = true ∧ (s.eng 0).bank = none ∧
    (∀ b : Nat, b < 4 → ((eng [] .count).eng 0).bank = some b → TMode.count = .count → b = 0) := by decide +kernel
def r32 : DWord := 0x0080000000000F9F
theorem test_hyp_ald : let s := eng [0x9000000000000000, r32] .exact
    ready s = true ∧ okv (s.owned (cx s) full 0) = true ∧ regionBad r32 = false ∧ (regionOf r32).digits = true ∧
    loadFormat .real32 0x9000000000000000 (regionOf r32) = none ∧ okv (engSpace full 0xF000000000000000) = true ∧
    okv (regionAlign full .real32 .f32 0xF000000000000000 (regionOf r32)) = true ∧
    okv (s.engRanges (cx s) full (regionStretches .real32 .f32 (regionOf r32) (fbBt 0x9000000000000000)
      0xF000000000000000)) = true := by decide +kernel
theorem test_hyp_ald_exact : loadFormat .exact 0x9000000000000001 (regionOf r32) = none ∧
    (match settleAnchor .unset none 0x9000000000000001 [.f32] with | .ok _ => true | .error _ => false) = true := by
  decide +kernel
theorem test_hyp_adrn : let s := eng [0x9000000000000000, r32] .exact
    drainFormat .exact 0x9000000000000000 (regionOf r32) = none ∧ fmtElem (fbA 0x9000000000000000) = .f32 ∧
    okv (regionAlign full .exact .f32 0xF000000000000000 (regionOf r32)) = true ∧
    okv (s.engRanges (cx s) full (regionStretches .exact .f32 (regionOf r32) (fbBt 0x9000000000000000) 0xF000000000000000
      ++ drainScales 0x9000000000000000 (regionOf r32))) = true := by decide +kernel
theorem test_hyp_adrv : let s := eng [] .exact
    okv ((cx s).nameRange full (.frame 664) 40) = true ∧ okv (s.inMode (cx s) full 0 [.exact, .count, .real32]) = true ∧
    okv ((cx s).closed full 0) = true ∧
    okv ((List.range 40).forM fun j => (cx s).framePending full (664 + j)) = true := by decide +kernel
def fbFp4 : DWord := 0x6648010000443FC1
theorem test_hyp_mcnt : let s := eng [fbFp4] .count
    ready s = true ∧ okv ((cx s).checkNames full [(.frame 0, 6)]) = true ∧ okv ((cx s).fragment full (.frame 0)) = true ∧
    okv (s.countChecks (cx s) full 0 fbFp4 1) = true ∧ okv (engSpace full 0xF000000000000000) = true ∧
    okv (s.engRanges (cx s) full ((0xF000000000000000, 0, 3840) :: scaleStretches true fbFp4 0 96)) = true := by
  decide +kernel
theorem test_hyp_mcntl : let s := eng [fbFp4, 0x00000F0000000900] .count
    okv (s.countChecks (cx s) full 0 fbFp4 2) = true ∧
    okv (s.engRanges (cx s) full (stepStretches 0xF000000000000000 0xF000000000000F00 (incsOf 0x00000F0000000900).1
      (incsOf 0x00000F0000000900).2 2 ++ scaleStretches true fbFp4 0 192)) = true := by decide +kernel
theorem test_hyp_mmrg : let s := eng [] .count
    ready s = true ∧ okv (s.hasBaton (cx s) full) = true ∧ okv (s.countTile (cx s) full 0) = true ∧
    okv (s.engRanges (cx s) full (s.tile 0 0).run.stretches) = true := by decide +kernel
theorem test_hyp_bfly : let s := eng [0x0000001000000405] .real32
    ready s = true ∧ stageBad false 0x0000001000000405 = false ∧ okv (s.inMode (cx s) full 0 [.real32, .cplx32]) = true ∧
    stageMode (s.tile 0 0) (0x0000001000000405, 1) = none ∧ 127 + 1 - 1 ≤ 127 := by decide +kernel
theorem test_hyp_bflyp : let s := eng [0x0000010000000021, 0x00010300000C00A2] .cplx32
    ready s = true ∧ stageBad true 0x0000010000000021 = false ∧ stageBad true 0x00010300000C00A2 = false ∧
    stageMode (s.tile 0 0) (0x0000010000000021, 1) = none ∧ stageMode (s.tile 0 0) (0x00010300000C00A2, 3) = none := by
  decide +kernel

/-! ### Tasks, traps and control registers -/

/-- The demo's function with quotas, job queue 0 and data queue 0 enabled (one word a record, 128 slots). -/
def tk : State := ((((dm coil3).modGroup 0 0 fun g => (g.setS 4 0x1000).setS 6 0x40).setVr pfn 0x100
  0x0004000800100404).setVr pfn 0x1008 0x19).setVr pfn 0x2008 0x71
theorem test_hyp_enq : ready tk = true ∧ okv ((cx tk).freeS 5) = true ∧ tk.jqUsable pfn 0 = true ∧
    okv (tk.place (cx tk) full (globalWant 64 false) 0x1000) = true ∧ tk.cardRoom pfn 0 = true ∧ (cx tk).g.sq = [] ∧
    (cx tk).g.loads = [] := by decide +kernel
def slotsOk (l : List (DWord × Chk)) : Bool := l.all fun p => match p.2 with
  | .ok _ _ => true
  | _ => false
theorem test_hyp_enqd : tk.dqUsable pfn 0 = true ∧ tk.dqWords pfn 0 = 1 ∧ 1 ≤ (cx tk).g.coilD ∧
    (∀ l : Fin 96, ((cx tk).g.lane l).act.live 1 = true) ∧ (lanesOf (full &&& ~~~(cx tk).g.helper)).length = 96 ∧
    okv ((List.range 1).mapM fun j => (cx tk).readLanes full fun l => (((cx tk).g.lane l).act.age 64 (1 - j)).opnd) = true ∧
    slotsOk (tk.slotChecks (cx tk).req pfn 0 0 96 true) = true ∧
    0 - (tk.dq pfn 0).freed + 96 ≤ tk.dqSlots pfn 0 := by decide +kernel
theorem test_hyp_deq : slotsOk (tk.slotChecks (cx tk).req pfn 0 0 96 false) = true ∧
    ((tk.modDq pfn 0 fun d => { d with cons := d.cons + 96 }).finishDeq 0 0 (cx tk).g 0 0 96 1 full id).isNone = true ∧
    ((tk.modDq pfn 0 fun d => { d with cons := d.cons + 96, published := List.range 96 }).finishDeq 0 0 (cx tk).g 0 0 96 1
      full id).isSome = true := by decide +kernel
theorem test_hyp_dcadd : ready tk = true ∧ (0 : DWord).toNat < tk.dcn pfn ∧ (15 : DWord).toNat < tk.dcn pfn ∧
    (tk.dc pfn 15 : Int) + (0xFF : BitVec 8).toInt < 0 ∧ 0 ≤ (tk.dc pfn 15 : Int) + (0x100000000 - 1) ∧
    (tk.dc pfn 15 : Int) + (0x100000000 - 1) < 2 ^ 32 ∧ 2 ^ 32 ≤ (tk.dc pfn 15 : Int) + (0x100000000 : DWord).toInt := by
  decide +kernel
/-- The future at 0x1000 in state n, waited on by no record. -/
def futureIn (n : Nat) : State := { tk with mem := tk.mem.put 0x1000 (wordBytes [futWord n 0 0]) }
def futureIs (s : State) (n : Nat) : Bool := match s.place (cx s) full (futWant true) 0x1000 futCode with
  | .ok (l, u) => !u.poisoned l 16 && decide (futState (u.futWord0 l) = n)
  | .error _ => false
theorem test_hyp_fres : ready tk = true ∧ okv ((cx tk).readS 4) = true ∧ (cx tk).g.sq = [] ∧ (cx tk).g.loads = [] ∧
    futureIs tk 0 = true ∧ ready (futureIn 1) = true ∧ futureIs (futureIn 1) 1 = true ∧ ready (futureIn 2) = true ∧
    futureIs (futureIn 2) 2 = true := by decide +kernel
/-- The list of futures at 0x1000 names the one at 0x2000. -/
def joined : State := { tk with mem := tk.mem.put 0x1000 (wordBytes [0x2000]) }
/-- The reads of an FJOIN with the card and the list at 0x1000, one after the other, as the statements name them. -/
def joinReads (s : State) : Bool := match s.placeAll (cx s) full (globalWant 8 false) id [0x1000] with
  | .error _ => false
  | .ok (ls, u) =>
    let futs := ls.map fun p => BitVec.ofNat 64 (u.readNat p.2 8)
    futs == [0x2000] && (futs.all fun a => okv (u.addrForm (cx s) full (futWant true) a futCode)) &&
    match u.place (cx s) full (globalWant 64 false) 0x1000 id false with
    | .error _ => false
    | .ok (_, u2) => match u2.placeAll (cx s) full (futWant true) futCode futs with
      | .error _ => false
      | .ok (fl, u3) => (fl.all fun p => !u3.poisoned p.2 16) && decide (0 < u3.jnn pfn) &&
          (nfind (u3.vf pfn).joins 0).isNone
theorem test_hyp_fjoin : ready joined = true ∧ joined.jqUsable pfn 0 = true ∧ joinN (top 5 4 4 0x11 0) = 1 ∧
    okv ((cx joined).freeS 5) = true ∧ okv (joined.addrForm (cx joined) full (globalWant 64 false) 0x1000) = true ∧
    okv (joined.addrForm (cx joined) full (globalWant 8 false) 0x1000) = true ∧ joinReads joined = true := by
  decide +kernel
theorem test_hyp_fget : okv ((cx tk).freeS 59) = true ∧ okv ((cx tk).freeS 60) = true ∧
    okv (tk.place (cx tk) full (futWant false) 0x1000 futCode) = true ∧ okv ((cx tk).noQueued (.phys 0x1000) 16) = true ∧
    futState (tk.futWord0 (.phys 0x1000)) < 2 ∧ (cx tk).g.loads = [] ∧ futureIs (futureIn 2) 2 = true ∧
    okv ((cx (futureIn 2)).noQueued (.phys 0x1000) 16) = true := by decide +kernel
theorem test_hyp_nextch : let s := withJob tk []
    ready s = true ∧ (s.job? (cx s).g.job).isSome = true ∧ (jobOf []).remaining = 0 ∧
    0 < ({ jobOf [] with words := List.replicate 8 5 } : Job).remaining := by decide +kernel
theorem test_hyp_bpt : bit (demo.vr (cx demo).g.vf 0x8000) 0 = false ∧
    bit ((demo.setVr pfn 0x8000 1).vr pfn 0x8000) 0 = true ∧ ready (demo.setVr pfn 0x8000 1) = true := by decide +kernel
def handling : State := dm fun g => { g with csr := { g.csr with inHandler := true, hrpc := 0x1001 } }
theorem test_hyp_tret : ready handling = true ∧ (cx handling).g.csr.inHandler = true ∧
    (cx handling).g.stack.length = (cx handling).g.csr.mark ∧ (cx handling).g.depth = (cx handling).g.csr.hdepth ∧
    Sys2Proof.Machine.fld (cx handling).g.csr.hrpc 3 3 = 0 ∧ Sys2Proof.Machine.fld (cx handling).g.csr.hrpc 0 3 ≠ 0 ∧
    (pcOf 0x1001).slot < 7 ∧ ¬ (pcOf 0x1007).slot < 7 ∧ Sys2Proof.Machine.fld 0x1007 0 3 ≠ 0 ∧
    Sys2Proof.Machine.fld 0x1000 0 3 = 0 ∧ Sys2Proof.Machine.fld 0x1009 3 3 ≠ 0 ∧ (cx demo).g.csr.inHandler = false ∧
    (let s := handling.modGroup 0 0 fun g => { g with stack := [.pnd ⟨0x3000, 1⟩ 0 1 1] }
     (cx s).g.stack.length ≠ (cx s).g.csr.mark) := by decide +kernel
/-- A group with every fault class enabled and its handler at 0x2000, and the same group in that handler. -/
def guarded : State := landing.modGroup 0 0 fun g => { g with csr := { g.csr with hvec := 0x2000, hmask := 0x7F } }
def inside : State := guarded.modGroup 0 0 fun g => g.enterHandler { code := 0x50 } ⟨0x1000, 2⟩ 0x2000
theorem test_hyp_tret_forms : ready guarded = true ∧ bit (guarded.vr pfn 0x8000) 0 = false ∧ ready inside = true ∧
    (cx inside).g.csr.inHandler = true ∧ (cx inside).g.rets.length = 1 ∧
    (cx inside).g.rets.all (fun r => match r with | .handler .. => true | _ => false) = true ∧
    (cx inside).g.stack.length = (cx inside).g.csr.mark ∧ (cx inside).g.depth = (cx inside).g.csr.hdepth ∧
    Sys2Proof.Machine.fld (cx inside).g.csr.hrpc 3 3 = 0 ∧ Sys2Proof.Machine.fld (cx inside).g.csr.hrpc 0 3 ≠ 0 := by
  decide +kernel
theorem test_hyp_deliver : let s := guarded
    let g := (cx s).g
    (s.group? 0 0).isSome = true ∧ g.csr.inHandler = false ∧ handlerBit 0x50 = some 5 ∧ g.csr.hmask.getLsbD 5 = true ∧
    g.csr.hvec ≠ 0 ∧ g.csr.hvec.toNat % 64 = 0 ∧ g.csr.hvec.toNat < 2 ^ 56 ∧
    fetched (s.fetchBundle 0 g g.csr.hvec) = true ∧ g.base + g.coilD + g.frameSize + g.coilD ≤ g.cap := by decide +kernel
theorem test_hyp_terminate : (cx demo).g.csr.hvec = 0 ∧ (cx demo).g.csr.inHandler = false ∧
    (handling.group? 0 0).map (·.csr.inHandler) = some true ∧ (0x52 : Nat) ≠ 0x53 := by decide +kernel
theorem test_hyp_csr : ready demo = true ∧ okv ((cx demo).freeS 8) = true ∧ (cx demo).g.pends = [] ∧
    (cx handling).g.csr.inHandler = true ∧ (cx handling).g.pends = [] := by decide +kernel
theorem test_hyp_counters : ctrOperand pfn 0x01000007 = some (256, 7) ∧ ctrOperand 3 7 = some (3, 7) ∧
    ctrOperand 3 8 = none ∧ ctrOperand 3 0x01000007 = none ∧ ctrOperand pfn 0x00030007 = some (3, 7) ∧
    (7 : DWord).toNat < 8 ∧ (0x30F : DWord).toNat < 2 ^ 10 ∧ Sys2Proof.Machine.fld 0x30F 0 8 < 0x10 := by decide
theorem test_hyp_csr_indices : (0x08 : Nat) ≠ 0x0B ∧ 0x0B ≤ 0x0E ∧ (0x06 ≤ 6 ∨ 0x0C ≤ 0x06) ∧ (0x0C ≤ 6 ∨ 0x0C ≤ 0x0C) := by
  decide

/-! ### Events -/

def rs : State := State.reset
/-- A launch record: D 8, no frame slots, one row, one group a workgroup. -/
def lrec1 : List DWord := [1, 0x2000, 0x1000, 0x101] ++ List.replicate 12 0
/-- A launch card of 192 records with that record, parsed and ready. -/
def card1 : Job := { jobOf [] with words := [0, 0x8000, 0x000100000000000C0, 0x101, 0, 0, 0, 0], lrec := lrec1 }
def cards (j : Job) : State := { rs with jobs := [(7, j)] }
def chunk1 : Chunk := { job := 7, wgid := 0, first := 0, count := 96, clset := 1, setSize := 1, stolen := 0 }

theorem test_hyp_walk : let s := rs.modDie 0 fun d => { d with walks := [(3, 0, 0x1000)] }
    s.sys.off = false ∧ ((s.die 0).walks.find? fun w => s.corePart w.1 == 0) = some (3, 0, 0x1000) := by decide +kernel
theorem test_hyp_replay : let s := dm fun g => { g with wait := { kind := 0x0F }, waitDone := true, resume := .replay }
    (s.group? 0 0).map (fun g => (g.gstate, g.dstop, g.wait.kind, g.waitDone, g.resume)) =
      some (.running, false, 0x0F, true, .replay) ∧ s.sys.off = false ∧ s.sys.stopped = false ∧
    (s.vf pfn).pstate ≠ .stopping ∧ ((s.modVf pfn fun v => { v with pstate := .stopping }).vf pfn).pstate = .stopping := by
  decide +kernel
def uncached : State := demo.modCore 0 fun k => { k with icache := [] }
def wordsIn (x : Fetched) : Bool := match x with
  | .words _ _ => true
  | _ => false
theorem test_hyp_fill : (uncached.fetchNext 0).map (fun p => (p.1, p.2.core, p.2.g.pc.bundle)) = some (0, 0, 0x1000) ∧
    (demo.fetchNext 0).isNone = true ∧ (demo.fetcher 0 0).isSome = true ∧ wordsIn (uncached.icRead 0 demoCtx.g 0x1000) = true ∧
    demo.prefetchable demoCtx 0x1040 = true ∧
    ((demo.core 0).icFind pfn 0 0x1040).isNone = true ∧ ((0x1040 : DWord).extractLsb' 56 8 = 0) ∧
    (let s := { demo with mem := demo.mem.put 0x1040 (wordBytes (oneWord 1 0)) }
     (match s.icRead 0 demoCtx.g 0x1040 with | .words ws _ => (bundleFault ws).isNone | _ => false) = true) ∧
    (match demo.icRead 0 demoCtx.g 0x1040 with | .words ws _ => (bundleFault ws).isSome | _ => false) = true := by
  decide +kernel
def corrupt : State := demo.modCore 0 fun k => { k with icache := [⟨pfn, 0, 0x1000, List.replicate 8 0⟩] }
theorem test_hyp_refetch : (corrupt.decoder 0 0).isSome = true ∧ (corrupt.icRead 0 demoCtx.g 0x1000).held = false ∧
    (bundleFault (List.replicate 8 0)).isSome = true ∧
    (match corrupt.icRead 0 demoCtx.g 0x1000 with | .words ws _ => (bundleFault ws).isSome | _ => false) = true ∧
    (let s := { corrupt with mem := corrupt.mem.put 0x1000 (wordBytes (oneWord 1 0)) }
     (match s.icRead 0 demoCtx.g 0x1000 with | .words ws _ => (bundleFault ws).isNone | _ => false) = true) := by
  decide +kernel
def arriving : State := dw (fun w => { w with arriving := [5], absent := [(5, 1)] }) id
def savedAt (x : SavePage) : Bool := match x with
  | .at_ _ _ _ => true
  | _ => false
theorem test_hyp_spilled : (arriving.wg? 0 0).map (fun w => (w.arriving.contains 5, w.hold.isNone)) = some (true, true) ∧
    savedAt (arriving.savePage 0 pfn 0 (arriving.spadSave wg0 0) false [(640, 128)]) = true := by decide +kernel
theorem test_hyp_doorbell : tk.sys.off = false ∧ tk.sys.identityOnly = false ∧ 0 < tk.jqn pfn ∧
    bit (tk.jqCfg pfn 0) 0 = true ∧
    ((3 : BitVec 32) - (tk.jq pfn 0).e).toNat + ((tk.jq pfn 0).e - (tk.jq pfn 0).c).toNat ≤
      2 ^ Sys2Proof.Machine.fld (tk.jqCfg pfn 0) 2 5 ∧
    2 ^ Sys2Proof.Machine.fld (tk.jqCfg pfn 0) 2 5 < ((0xFFFFFFFF : BitVec 32) - (tk.jq pfn 0).e).toNat +
      ((tk.jq pfn 0).e - (tk.jq pfn 0).c).toNat ∧ 3 < tk.jqn pfn ∧ bit (tk.jqCfg pfn 3) 0 = false := by decide +kernel
theorem test_hyp_enable : 3 < tk.jqn pfn ∧ bit (tk.vr pfn (jqCfgOfs 3)) 0 = false ∧ 3 < tk.dqn pfn ∧
    bit (tk.vr pfn (dqCfgOfs 3)) 0 = false ∧ bit (0x71 : DWord) 0 = true ∧ (3 : Nat) ≠ 7 := by decide +kernel
theorem test_hyp_registers : rs.sys.off = false ∧ rs.sys.identityOnly = false ∧ 255 < 256 ∧ 15 < 16 ∧
    wide64 0x1018 = true ∧ wide64 0x2010 = true ∧ wide64 0x6100 = true ∧
    wide64 0x5010 = false ∧ nsorted none rs.preg = true ∧ 0x1018 % 8 = 0 ∧ 0x6100 % 8 = 0 ∧ 0x5010 % 8 = 0 := by decide +kernel
theorem test_hyp_parse : let s := cards { card1 with parsed := false, cstate := .entered, seq := 1 }
    let u := s.enterConts pfn
    (s.bound pfn).isSome = true ∧ (s.vf pfn).pstate ≠ .halted ∧
    ((s.inQueue pfn 0).any fun p => p.2.parsed && p.2.kind == 1) = false ∧ u.contsOf pfn 0 = [] ∧
    (s.vf pfn).cardWaits 0 = false ∧ (u.unparsed pfn 0).map (fun p => u.parseHeld p.2) = some false ∧
    (u.unparsed pfn 0).map (·.1) = some 7 ∧ (u.jq pfn 0).ring = [] := by decide +kernel
def ring1 : RingCards := { n := 1, base := 0x10000, log2n := 6, idx := 0, seq := 1, order := 0, enteredAt := 0, counts := true }
theorem test_hyp_parse_ring : let s := (tk.modJq pfn 0 fun j => { j with e := 1, seq := 1, ring := [ring1] }).setVr pfn 0x1000 0x10000
    let u := s.enterConts pfn
    (s.bound pfn).isSome = true ∧ (s.vf pfn).pstate ≠ .halted ∧
    ((s.inQueue pfn 0).any fun p => p.2.parsed && p.2.kind == 1) = false ∧ u.contsOf pfn 0 = [] ∧
    (u.jq pfn 0).ring.head? = some ring1 ∧ (u.unparsed pfn 0).isNone = true ∧ u.copyRoom pfn 0 = true ∧
    (s.vf pfn).cardWaits 0 = false ∧ u.fnHeld pfn ring1.slot = false ∧
    ((u.copyCard pfn 0 ring1).unparsed pfn 0).map (fun p => (u.copyCard pfn 0 ring1).parseHeld p.2) = some false ∧
    ((u.copyCard pfn 0 ring1).unparsed pfn 0).map (·.2.seq) = some ring1.seq := by decide +kernel
def fenceCard (cs : List (DWord × DWord)) : Job :=
  { card1 with words := [0, 0, 0, 0, 0, 0, 0, 1], conds := cs, cstate := .ready }
theorem test_hyp_fence_card : let t := (cards (fenceCard [])).noteFences
    (t.vf pfn).pstate ≠ .halted ∧ ((t.inQueue pfn 0).find? fun p => p.2.parsed && p.2.kind == 1).map (·.1) = some 7 ∧
    (t.job? 7).map (fun j => (j.met.length, j.conds.length, t.gateOpen j, t.inTurn j, bit (wordAtD j.words 7) 4)) =
      some (0, 0, true, true, false) ∧ (t.job? 7).map t.futureHeld = some false := by decide +kernel
theorem test_hyp_fence_unmet : let t := (cards (fenceCard [(0x9000, 1)])).noteFences
    ((t.inQueue pfn 0).find? fun p => p.2.parsed && p.2.kind == 1).map (fun p => (p.1, p.2.met.length, p.2.conds.length)) =
      some (7, 0, 1) := by decide +kernel
theorem test_hyp_complete : let s := cards { card1 with next := 192 }
    ({ card1 with next := 192 } : Job).kind = 0 ∧ ({ card1 with next := 192 } : Job).remaining = 0 ∧
    s.mayStart { card1 with next := 192 } = true ∧ s.jobIdle 7 = true ∧ s.futureHeld { card1 with next := 192 } = false ∧
    card1.refused = none := by decide +kernel
theorem test_hyp_deal : (((cards card1).candidates 0).findSome? fun p => (cards card1).tryDeal p.1 p.2).isSome = true := by
  decide +kernel
def dealtTo (c : Nat) (ch : Chunk) : State := (((cards { card1 with next := 192 }).modCore 0 fun k => { k with served := [7] }).modCore c fun k =>
  { k with dealq := [ch] })
theorem test_hyp_steal : let s := dealtTo 5 chunk1
    s.coreOn 0 = true ∧ (s.core 0).clocked = true ∧ s.anyReady 0 = false ∧ (s.core 0).dealq = [] ∧ largest (s.stealable 0) = some (5, 0, chunk1) ∧
    1 < chunk1.count ∧ (s.job? 7).isSome = true ∧
    largest ((dealtTo 5 { chunk1 with count := 1 }).stealable 0) = some (5, 0, { chunk1 with count := 1 }) := by
  decide +kernel
theorem test_hyp_start : let s := dealtTo 5 chunk1
    (s.core 5).dealq = [chunk1] ∧ s.dealt pfn = true ∧ (s.core 5).gate.gated = false ∧
    s.fitsNow { card1 with next := 192 } lrec1 false 5 = true := by decide +kernel
def copy1 : CopyCmd :=
  { id := 3, slot := 0, vf := pfn, part := 0, wg := 0, ctx := 0, seq := {}, pc := 0x1001, card := 0, kind := 0,
    lanes := full, src := 0x1000, dst := 0x8000, k0 := 128, k1 := 0, k2 := 0, cnt := 0, idxs := [] }
def copying (k : CopyCmd) : State := demo.modCore 0 fun c => { c with copies := [k] }
theorem test_hyp_piece_read : let s := copying copy1
    (s.copy? 0 3).isSome = true ∧ copy1.failed = none ∧ copy1.hold = none ∧ copy1.kind ≠ 2 ∧ nfind copy1.got (pkey 0 0) = none ∧ (copy1.srcs.find? fun r => r.1 == 0).isSome = true ∧ copy1.badIndex 0 = false ∧
    (copy1.srcs.find? fun r => r.1 == 0).map (fun r => (rowPieces r).head?.isSome) = some true ∧
    copyRemote (DWord.up 0x1000 0) = false ∧
    (match s.pieceAt 0 copy1 false 0 (DWord.up 0x1000 0) with | .at (.phys x) _ u => x == 0x1000 && !u.poisoned (.phys x) 128
                                                              | _ => false) = true := by decide +kernel
theorem test_hyp_piece_write : let k := { copy1 with got := [(pkey 0 0, List.replicate 128 (9 : Byte))] }
    let s := copying k
    (k.dsts.find? fun r => r.1 == 0).map (fun r => (rowPieces r).head?) = some (some (0, 128)) ∧
    k.put.contains (pkey 0 0) = false ∧ (k.pieceData 0 0 128).isSome = true ∧
    (match s.pieceAt 0 k true 0 (DWord.up 0x8000 0) with | .at (.phys x) _ _ => x == 0x8000 | _ => false) = true := by
  decide +kernel
theorem test_hyp_copy_done : let k := { copy1 with put := [pkey 0 0], got := [(pkey 0 0, List.replicate 128 (9 : Byte))] }
    k.written = true ∧ k.sent = [] ∧ cpyNote k.kind k.k0 = false ∧ cpyFut k.kind k.k0 = false ∧ k.hold = none ∧
    k.failed = none := by decide +kernel
def ecmd (o : EOp) : ECmd :=
  { id := 4, slot := 0, wg := 0, seq := {}, pc := 0x1001, lanes := full, tile := 0, arrayPath := true, started := false,
    mode := .exact, anchor := some 0, height := 48, width := 80, lines := [], due := [], op := o }
def engineOf (k : ECmd) : State := (eng [] .exact).modEng 0 fun e => { e with queue := [k] }
theorem test_hyp_engine_start : let s := engineOf (ecmd (.clear none))
    (s.ecmd? 0 4).isSome = true ∧ (s.eng 0).mayStart (ecmd (.clear none)) = true ∧
    (ecmd (.clear none)).op.lanesDrain = false := by decide +kernel
theorem test_hyp_engine_drain : let k := ecmd (.drain 0x9000000000000000 r32 0xF000000000000000 0)
    ((engineOf k).eng 0).mayStart k = true := by decide +kernel
theorem test_hyp_engine_line : let k := ecmd (.step false (List.replicate 6 0) fbBf16 0 0xF000000000000000)
    let s := (engineOf k).modEng 0 fun e => { e with queue := [{ ecmd (.clear none) with id := 3 }, k] }
    (s.eng 0).mayStart k = false ∧ ((s.readLines 0 k)[0]?).isSome = true ∧
    ((s.readLines 0 k)[0]?).map (fun x => (s.absentLine (lineLoc x), s.poisoned (lineLoc x) 128, (nfind k.lines (spadKey x)).isSome))
      = some (false, false, false) ∧
    ((s.modEcmd 0 4 fun k => { k with lines := [(0, [])] }).eng 0).mayStart k = false := by decide +kernel
theorem test_hyp_engine_complete : let k := { ecmd (.clear none) with started := true }
    let s := engineOf k
    (s.ecmd? 0 4).map (·.started) = some true ∧ ((s.engRun 0 k).1.group? 0 k.slot).isSome = true ∧
    (((engineOf { k with slot := 5 }).engRun 0 { k with slot := 5 }).1.group? 0 5).isNone = true ∧ s.engHeld 0 k = false ∧ s.engPoison 0 k = none := by decide +kernel
theorem test_hyp_adrv_drain : let k := { ecmd (.drainLanes 8 false) with arrayPath := false }
    ((engineOf k).eng 0).mayStart k = true := by decide +kernel
/-- A ready group that holds no active slot, and room for it. -/
def pending1 (since : Option Nat) : State := dw id fun g => { g with readySince := since }
theorem test_hyp_fill_slot : let s := pending1 none
    (s.core 0).clocked = true ∧ (s.core 0).freeActive = some 1 ∧ (bestGroup (s.readyPending 0)).map (·.1) = some 1 := by decide +kernel
def busy (since : Option Nat) (hint : Bool) : State :=
  { ((pending1 since).modCore 0 fun k => { k with active := Vector.replicate 8 (some 0) }).modGroup 0 0
      (fun g => { g with swapHint := hint }) with clock := 4000 }
theorem test_hyp_swap : let s := busy none true
    (s.core 0).freeActive = none ∧ ((List.range 8).find? (s.swapCandidate 0)) = some 0 ∧
    (bestGroup (s.readyPending 0)).map (·.1) = some 1 := by decide +kernel
theorem test_hyp_forced : let s := busy (some 1952) false
    (s.core 0).freeActive = none ∧ ((List.range 8).any (s.swapCandidate 0)) = false ∧
    (s.core 0).forcedAt ≠ some s.clock ∧ (s.readyPending 0).map (fun p => (p.1, p.2.readySince)) = [(1, some 1952)] ∧
    1952 + 2048 ≤ s.clock ∧ (s.victim 0).isSome = true := by decide +kernel
theorem test_hyp_best : (bestGroup [(0, peer), (1, { peer with progress := 5 })]).map (·.1) = some 0 := by decide +kernel
def gateAt (x : Gating) (c : Nat) : State := { rs.modCore 0 (fun k => { k with gate := x }) with clock := c }
theorem test_hyp_gating : (gateAt { idleSince := some 0 } 2048).entryDue 0 = true ∧
    (gateAt { idleSince := some 0 } 2048).coreIdle 0 = true ∧ rs.entryDue 0 = false ∧
    (let s := dealtTo 0 chunk1
     let s := { s.modCore 0 (fun k => { k with gate := { idleSince := some 0 } }) with clock := 2048 }
     s.entryDue 0 = true ∧ s.coreIdle 0 = false) ∧
    (gateAt { idleSince := some 0 } 2048).entryClock 0 = some 2048 ∧ (gateAt { idleSince := some 0 } 2049).entryDue 0 = true ∧
    (gateAt { idleSince := some 0 } 2049).entryClock 0 ≠ some 2049 ∧
    (let s := gateAt { gated := true, entryAt := 5 } 5
     (s.core 0).gate.gated = true ∧ (s.core 0).gate.entryAt = s.clock) ∧
    (let s := gateAt { gated := true, entryAt := 5 } 6
     (s.core 0).gate.entryAt ≠ s.clock ∧ (s.core 0).gate.exitDone = none) ∧
    4096 ≤ (gateAt { holdoff := some 4096 } 4096).clock ∧ (gateAt { holdoff := some 4096 } 4095).clock < 4096 := by
  decide +kernel
/-- Function 3 bound to partition 0 with a stage 2 that maps the low GiB to itself, every right. -/
def bound3 : State := { (State.reset.setPr 0x500018 0x100).setPr 0x700030 0x10000 with
  mem := [⟨0x10000, 0x01⟩, ⟨0x10001, 0x10⟩, ⟨0x10002, 0x01⟩, ⟨0x11000, 0x01⟩, ⟨0x11001, 0x20⟩, ⟨0x11002, 0x01⟩,
          ⟨0x12000, 0x1F⟩] }
theorem test_hyp_preempt : (bound3.vf 3).pstate = .running ∧ bound3.bound 3 = some 0 ∧ bound3.bound 4 = none ∧
    ((bound3.modVf 3 fun v => { v with pstate := .halted }).vf 3).pstate = .halted ∧
    (bound3.vf 3).pstate ≠ .halted ∧
    (let s := bound3.modVf 3 fun v => { v with pstate := .stopping, reqAt := 0 }
     (s.vf 3).pstate = .stopping ∧ (s.vf 3).reqAt = s.clock) ∧
    (let s := { bound3.modVf 3 fun v => { v with pstate := .stopping, reqAt := 0 } with clock := 1 }
     (s.vf 3).pstate ≠ .running ∧ (s.vf 3).reqAt ≠ s.clock) := by decide +kernel
def stopping (s : State) : State := s.modVf pfn fun v => { v with pstate := .stopping, reqAt := 0 }
theorem test_hyp_preempt_stop : let s := stopping (dm fun g => { g with resume := .baton })
    (s.group? 0 0).map (fun g => (g.gstate, (s.vf g.vf).pstate, g.resume)) = some (.running, .stopping, .baton) ∧
    (s.core 0).clocked = true := by
  decide +kernel
def listed : State := { stopping demo with jobs := [(0, { jobOf [] with ptab := [(3, 0)], lrec := [1, 0x1000] })] }
theorem test_hyp_preempt_bundle : (listed.group? 0 0).map (fun g => (g.resume, g.dstop)) = some (.none, false) ∧
    (listed.group? 0 0).map (fun g => (g.csr.inHandler, g.pc.slot)) = some (false, 1) ∧
    (listed.group? 0 0).map (fun g => (listed.ptabEntry g g.pc.bundle).isSome) = some true ∧
    (listed.group? 0 0).map (fun g => (g.csr.epend.isEmpty, g.faultDue)) = some (true, false) ∧
    (listed.vf pfn).reqAt + 2 ^ 20 ≤ 2 ^ 20 := by decide +kernel
/-- Partition 0 sliced between functions 3 and 4, the quantum 1 µs, function 4 with a card. -/
def sliced2 : State := { ((((bound3.setPr 0x500020 0x100).setPr 0x5B0000 0x10001).setPr 0x5B0010 2).setPr 0x5B0008 0x0403)
  with ref := 1000, jobs := [(1, { card1 with vf := 4 })] }
theorem test_hyp_quantum : sliced2.sliced 0 = true ∧ (sliced2.part 0).switching = false ∧
    (sliced2.part 0).turnStart + 1000 * max 1 (Sys2Proof.Machine.fld (sliced2.pr (sliceOfs 0 0)) 16 32) ≤ sliced2.ref ∧
    sliced2.nextTurnOf 0 = some 1 ∧ sliced2.turnVf 0 (sliced2.part 0).cur = some 3 ∧ (sliced2.vf 3).pstate = .running ∧
    ({ sliced2 with jobs := [] } : State).nextTurnOf 0 = none ∧
    ((sliced2.modVf 3 fun v => { v with pstate := .halted }).vf 3).pstate ≠ .running := by decide +kernel
def halted1 (p : PState) : State := (dw id fun g => { g with gstate := .halted }).modVf pfn fun v => { v with pstate := p }
theorem test_hyp_resume : let s := halted1 .resuming
    (s.group? 0 1).map (fun g => (g.gstate, (s.vf g.vf).pstate, g.claimed)) = some (.halted, .resuming, []) ∧
    (s.group? 0 1).map (·.backMiss) = some none ∧
    (s.eng 0).queue = [] ∧ s.tilesFree 0 1 = true ∧ s.bankClash 0 1 = false ∧
    (s.group? 0 1).map (fun g => decide (((s.core 0).needsBack g).2 ≤ ((s.core 0).freeIn (s.core 0).split).2.2)) =
      some true := by decide +kernel
/-- A halted function of the demo's core beside a bound function whose row has no place. -/
def wanting : State := halted1 .resuming
theorem test_hyp_claims : (match wanting.rowsWanted 0 with
    | some w => (((wanting.core 0).claims w).1.all fun p => (wanting.group? 0 p.1).all fun g =>
          g.pends.isEmpty && !wanting.logQuiet g.vf && !(g.rowLive p.2 && wanting.rowHeld 0 g p.2)) &&
        ((wanting.core 0).claims w).2.all fun p => !(wanting.core 0).landing p &&
          (nfind (wanting.core 0).wgs p.1).all fun x => !wanting.logQuiet x.vf && !wanting.spadHeld 0 x p.2
    | none => false) = true ∧
    ((wanting.core 0).claims { may := fun _ _ => true, own := none, regs := 1, spads := 0 }).1 ≠ [] := by decide +kernel
theorem test_hyp_tile_spill : let s := (halted1 .halted).modEng 0 fun e =>
      { e with tiles := e.tiles.set 2 { owner := some 1, waiters := [0] } }
    s.tileHalted 0 2 = some 1 ∧ ((s.eng 0).tile 2).waiters ≠ [] ∧ (s.eng 0).savedTiles = [] ∧ (s.eng 0).queue = [] := by
  decide +kernel
theorem test_hyp_retire : let s := dm fun g => { g with gstate := .retiring }
    (s.group? 0 0).map (fun g => (g.gstate, g.term.isSome, g.drained)) = some (.retiring, false, true) ∧
    (demoCtx.g.drained = true) ∧ ({ demoCtx.g with sq := [beat1] } : Group).drained = false := by decide +kernel
def faulty : State := dm fun g => { g with csr := { g.csr with epend := [{ code := 0x40 }] } }
theorem test_hyp_engine_fault : (faulty.group? 0 0).map (fun g => (faulty.mayIssue 0 0 g, g.resume, g.csr.inHandler,
    g.csr.epend)) = some (true, .none, false, [{ code := 0x40 }]) ∧ (faulty.ctxOf 0 0).map (fun c => (c.maskWait.isOk,
      c.g.landed, faulty.awaitsBaton 0 0 c.g)) = some (true, false, false) := by decide +kernel
theorem test_hyp_debug : let s := dm fun g => { g with dstop := true }
    (s.target pfn 0).map (fun p => (p.1, p.2.1, p.2.2.dstop, p.2.2.depth, p.2.2.stack.length)) = some (0, 0, true, 0, 0) ∧
    (s.group? 0 0).map (fun g => (inMask g.mask 95, inMask g.mask 96, g.spend)) = some (true, false, []) ∧
    (rs.target pfn 0).isNone = true ∧ (s.vf pfn).late.any Late.isCommand = false ∧
    (rs.vf pfn).late.any Late.isCommand = false ∧ (demo.target pfn 0).map (fun p => p.2.2.dstop) = some false := by
  decide +kernel
theorem test_hyp_focus_deep : let g := { demoCtx.g with depth := 2, stack := [.rcv 0x4000 1 full 0 0 [] []] }
    inMask g.mask 95 = true ∧ g.stack.length < 32 ∧ 0 < g.depth ∧ (1 : Nat) ≠ g.depth ∧
    32 ≤ (List.replicate 32 (Entry.rcv 0x4000 1 full 0 0 [] [])).length := by decide +kernel
theorem test_hyp_dump : let s := ((dw (fun w => { w with rowsPer := 2 }) id).modGroup 0 0 fun g => { g with dstop := true }).setVr pfn 0x8018 0x0100000000000000
    (s.group? 0 0).any (fun g => match s.rowPages 0 g (g.claimed.filter g.rowLive) with
      | .ok (p, t) => match t.dumpTo 0 (g.fillRows t.mem p) (Sys2Proof.Machine.fld (s.vr pfn 0x8018) 12 45 * 4096) (s.dumpPages 0 0 g) with
        | (u, some r) => r == 7 && !s.logsQuietly u pfn
        | _ => false
      | .error _ => false) = true := by decide +kernel
/-- The demo about to run FRCP of an age that a load has still to bring. -/
def starved : State := ((State.reset.withFetchWord 64 ((encode (.frcp (vo (.age 0) .zero .zero .f32 0 0))).getD 0).toNat).modGroup
  0 0 fun g => { g.modLanes full (fun _ ln => ln.pushAll 64 [.pend 9 0]) with pends := [pend1] })
theorem test_hyp_sample_kind : (starved.group? 0 0).map (fun g => (g.dstop, g.resume, g.lostTo)) = some (false, .none, none) ∧
    ((starved.group? 0 0).map fun g => (starved.producers 0 0 g).head?) = some (some 0x1001) := by decide +kernel
theorem test_hyp_sample : let s := { demo.setVr pfn 0x8000 0x40002 with clock := 16 }
    s.sampleDue 0 0 pfn = true ∧ bit (s.vr pfn 0x8000) 1 = true ∧ nget 0 (s.core 0).sampleTurn pfn % 8 = 0 ∧
    nget 0 (s.core 0).sampleAt pfn + 2 ^ Sys2Proof.Machine.fld (s.vr pfn 0x8000) 16 5 ≤ s.clock ∧
    (s.shown 0 0).map (fun p => (p.1, p.2.vf)) = some (0, pfn) ∧ (s.shown 0 5).isNone = true ∧
    rs.sampleDue 0 0 3 = false := by decide +kernel
theorem test_hyp_flip : (rs.vf 3).flip = none ∧ (3 : Nat) ≠ pfn ∧
    ((rs.modVf 3 fun v => { v with flip := some (5, true, 0) }).vf 3).flip = some (5, true, 0) ∧
    ((rs.modVf 3 fun v => { v with flip := some (5, true, 0) }).inFlight (fun _ => true) fun pa => pa / 4096 == 5) = false ∧
    ((rs.modVf 3 fun v => { v with inv2Busy := true, invs := [everyPage] }).vf 3).inv2Busy = true := by decide +kernel
theorem test_hyp_dropped : let s := rs.modCore 2 fun k => { k with tlb := [⟨3, 0x5000, 4096, 0, true, true, true, 0, true, 0⟩] }
    ((s.dropTlb 3 (0x6000, 1)).core 2).tlb.length = 1 ∧ ((s.dropTlb 3 (0x5000, 1)).core 2).tlb = [] := by decide +kernel
theorem test_hyp_placement : rs.placeErrors (rs.setPr (placeOfs 3 0x108) (0x4830180100 &&& 0x1FFFFFF013F)) 3 0x108 = 0 ∧
    rs.placeErrors (rs.setPr (placeOfs 0 0) (0 &&& 0xFFFFFFF)) 0 0 = 0 ∧
    rs.placeErrors (rs.setPr (placeOfs 0 0x100) (0 &&& 0x1FFFFFF013F)) 0 0x100 ≠ 0 ∧ placeMask 0x178 = some 0x1FFFFFF013F ∧
    placeMask 0 = some 0xFFFFFFF := by decide +kernel
/-- Eight functions bound to partition 5. -/
def crowded : State := (List.range 8).foldl (fun s v => s.setPr (vfbindOfs v) 0x105) rs
theorem test_hyp_vfbind : (0x105 : DWord) &&& 0x13F ≠ rs.pr (vfbindOfs 255) ∧ rs.hasCard 255 = false ∧
    rs.groupsOf 255 = [] ∧ rs.boundBeside 255 5 < 8 ∧ crowded.boundBeside 255 5 = 8 ∧ crowded.hasCard 255 = false ∧
    crowded.groupsOf 255 = [] ∧ (0x105 : DWord) &&& 0x13F ≠ crowded.pr (vfbindOfs 255) ∧
    bit (crowded.pr (vfbindOfs 255)) 8 = false ∧
    (let s := { crowded.setPr (vfbindOfs 255) 0x101 with jobs := [(1, { card1 with vf := 255 })] }
     bit (s.pr (vfbindOfs 255)) 8 = true ∧ s.hasCard 255 = true ∧ s.boundBeside 255 5 = 8 ∧
     (0x105 : DWord) &&& 0x13F ≠ s.pr (vfbindOfs 255) ∧ s.boundBeside 255 6 < 8) := by decide +kernel
theorem test_hyp_policy : let s := rs.setPart 2 { pending := [0x100000] }
    (s.part 2).pending = [0x100000] ∧ s.readAt ≠ some s.clock ∧ s.blobReason 2 0x100000 = some 1 ∧ s.boundTo 2 = [] := by decide +kernel
theorem test_hyp_quote : let s := { rs.setPr 0x208 0x200000 with sys := { rs.sys with quoteBusy := some 0x100000 } }
    s.physReadable (0x100000 : DWord).toNat 32 = true ∧
    s.physReadable (Sys2Proof.Machine.fld (s.pr 0x208) 12 40 * 4096) 1 = true ∧ s.sys.sigIndex < 2 ^ 20 ∧
    2 ^ 20 ≤ ({ s.sys with sigIndex := 2 ^ 20 } : Sys).sigIndex := by decide +kernel
def fr1 : Frame := ⟨8, true, 0, 0, 0, 5, 0, .get, 0x4000, [], 8, 0, none, false, 0, 0, none⟩
def linked (f : Frame) : State := { bound3.setPr (osierOfs 0x118) 0x105 with frames := [f] }
def served (x : Served) : Nat := match x with
  | .done _ _ => 1
  | .refused _ => 2
  | .waits _ => 3
theorem test_hyp_remote : let s := linked fr1
    s.frame? 8 = some fr1 ∧ fr1.hold = none ∧ fr1.port = none ∧ fr1.device = s.devId ∧ served (s.serve fr1) = 1 ∧
    served ((linked { fr1 with oep := 9 }).serve { fr1 with oep := 9 }) = 2 := by decide +kernel
def heard1 : Arrival := ⟨2, 5, .get, 0x4000, [], 8, 0⟩
theorem test_hyp_heard : let s := (linked fr1).modPort 2 fun p => { p with pstate := 2 }
    let f := arrivalFrame heard1 s.nextId s.devId s.ref
    s.portState heard1.port = 2 ∧ heard1.ofs < 2 ^ 39 ∧ rs.portState 2 ≠ 2 ∧
    served (({ s with nextId := s.nextId + 1, frames := s.frames ++ [f] } : State).serve f) = 1 := by decide +kernel
def onPort (f : Frame) : Frame := { f with port := some 2 }
theorem test_hyp_port : let s := { linked (onPort fr1) with ref := 1000000 }
    s.portState 2 ≠ 3 ∧ (s.ports.toList.getD 2 {}).lastAck + 1000000 ≤ s.ref ∧
    ((s.carried 2).any fun f => !f.taken && decide (f.bornAt + 1000000 ≤ s.ref)) = true ∧ fr1.sentAt + 4000 ≤ s.ref ∧
    bit (s.pr (osierOfs (8 + 8 * 2))) 0 = false ∧ ((s.modPort 2 fun k => { k with pstate := 1 }).portState 2 = 1) := by
  decide +kernel
theorem test_hyp_host_access : (linesIn 0 (max 1 (List.replicate 16 (1 : Byte)).length)).all (fun l => rs.xbar 64 0 l false) = true ∧ inMap 0 = true ∧ inMap (0 + (List.replicate 16 (1 : Byte)).length - 1) = true := by
  decide +kernel
/-- A start whose firmware lies below the rollback minimum. -/
theorem test_hyp_start_fails : let s := { rs with sys := { rs.sys with rollback := Config.fwVersion (Config.fwImage (rs.sys.starts + 1)) + 1 } }
    Config.fwSigned (Config.fwImage (s.sys.starts + 1)) = false ∨ Config.fwVersion (Config.fwImage (s.sys.starts + 1)) < s.sys.rollback :=
  .inr (Nat.lt_succ_self _)
theorem test_hyp_power : let s := { rs.modCore 0 fun k => { k with sagging := true, clockNum := 63 } with ref := 1000000 }
    (s.core 0).sagging = true ∧ (s.core 0).clockNum < 64 ∧ (s.core 0).clockAt + 1000 ≤ s.ref ∧
    s.sys.powerAt + 1000000 ≤ s.ref ∧ (s.die 3).thermAt + 1000000 ≤ s.ref ∧
    Sys2Proof.Machine.fld (s.pr 0x900000) 0 12 < 2001 ∧ 1999 < Sys2Proof.Machine.fld (s.pr 0x900000) 0 12 := by
  decide +kernel
/-- What the statement about a step asks of the group at its PC, and what the word there needs. -/
def stepOk (s : State) : Bool := match s.ctxOf 0 0, (s.core 0).icFind pfn 0 0x1000 with
  | some c, some l => s.agenda.isEmpty && decide (s.cur = (0, 0)) && s.mayIssue 0 0 c.g && !s.awaitsBaton 0 0 c.g &&
      !c.g.rejoin && !c.g.landed && !c.g.counted && decide (c.g.resume = .none) && c.g.csr.epend.isEmpty && !s.stopsHere c.g && !s.timesOut c.g &&
      (s.yieldAct 0 c.g).isNone && c.maskWait.isOk && decide (c.g.pc.bundle.extractLsb' 56 8 = 0) &&
      (bundleFault l.words).isNone && c.g.entered && !c.g.atArrival &&
      (hdrSv (l.words.headD 0)).getLsbD (c.g.pc.slot - 1) && (c.g.bpPass = some c.g.pc || !s.bpHit c.g.vf c.g.pc.word)
  | _, _ => false
/-- The instruction at the PC. -/
def atPc (s : State) : Instr := match (s.core 0).icFind pfn 0 0x1000 with
  | some l => ((decode (l.words.getD 1 0)).toOption).getD (.nop (bo 0 0 p0 0))
  | none => .nop (bo 0 0 p0 0)
/-- The demo with this instruction at its PC, and its shared port taken until a clock. -/
def withWord (i : Instr) (free : Nat) : State :=
  (State.reset.withFetchWord 64 ((encode i).getD 0).toNat).modCore 0 fun k => { k with portFree := Vector.replicate 4 free }
def decided (s : State) (p : Nat) : Bool :=
  match (s.settlePort 0 p 0 (s.requesters 0 p)).nextAct 0 0 with
  | .run _ _ => true
  | _ => false
theorem test_hyp_step : stepOk demo = true ∧ portOf (atPc demo).form full = none ∧ demo.heldBack demoCtx (atPc demo).form = false ∧
    demo.opHeld demoCtx (atPc demo).form = false ∧ demo.slotFirst 0 0 (atPc demo) = 0 ∧
    stepOk (State.reset.withFetchWord 64 0x0500000000000000) = true ∧
    (let s := dm fun g => { g with bankAt := some (g.pc, 5) }
     stepOk s = true ∧ s.heldBack (cx s) (atPc s).form = true) := by decide +kernel
theorem test_hyp_step_port : let i : Instr := .btake (top 0 0 0 0 0)
    let p := (portOf i.form full).getD 9
    (portOf i.form full).isSome = true ∧ stepOk (withWord i 0) = true ∧ (withWord i 0).heldBack demoCtx i.form = false ∧ atPc (withWord i 0) = i ∧
    (withWord i 0).opHeld demoCtx i.form = false ∧ (withWord i 0).winner 0 p ((withWord i 0).requesters 0 p) = some 0 ∧
    decided (withWord i 0) p = true ∧ stepOk (withWord i 7) = true ∧
    (withWord i 7).clock < ((withWord i 7).core 0).portFree.toList.getD p 0 := by decide +kernel
theorem test_hyp_step_held : let i : Instr := .frcp (vo (.age 0) .zero .zero .f32 0 0)
    let s := (withWord i 0).modGroup 0 0 fun g => { g.modLanes full (fun _ ln => ln.pushAll 64 [.pend 9 0]) with pends := [pend1] }
    stepOk s = true ∧ s.opHeld (cx s) i.form = true ∧ pend1.slot = true ∧ pend1.dest ≠ .tile ∧
    (let u := s.modGroup 0 0 fun g => { g with pends := [{ pend1 with slot := false }] }
     stepOk u = true ∧ u.opHeld (cx u) i.form = true) := by decide +kernel
/-- A group that has lost a port names the winner's PC; one that a bank holds has no producer (R157, R451). -/
theorem test_sample_why : let i : Instr := .btake (top 0 0 0 0 0)
    let s := (withWord i 7).modGroup 0 0 fun g => { g with lostTo := some ⟨0x1000, 2⟩ }
    let u := dm fun g => { g with bankAt := some (g.pc, 5) }
    (s.group? 0 0).map (fun g => (s.sampleKind 0 0 g 9, s.producers 0 0 g)) = some ((2, 0x40, 0x1002), []) ∧
    (s.request 0 0).isSome = true ∧ (u.group? 0 0).map (fun g => u.sampleKind 0 0 g 9) = some (2, 0x41, 9) ∧
    (demo.group? 0 0).map (fun g => demo.sampleKind 0 0 g 9) = some (1, 0, 0x1001) := by decide +kernel
theorem test_hyp_stopped : ({ rs.sys with stopped := true } : Sys).stopped = true ∧
    ({ rs.sys with stopped := true } : Sys).off = false ∧ ({ rs.sys with stopped := true, off := true } : Sys).off = true ∧
    Instr.warmStart ≠ .coldStart ∧ Instr.warmStart ≠ .powerLoss ∧ (∀ x ∈ rs.agenda, x ≠ .event .coldStart) ∧
    (match step { rs with sys := { rs.sys with stopped := true }, agenda := [.tick 1 1] } with
      | .next _ => true | _ => false) = true := by decide +kernel
theorem test_hyp_running : demo.sys.stopped = false ∧ demo.sys.off = false ∧ (demo.ctx?).isSome = true := by decide +kernel
theorem test_hyp_reserved : Sys2Proof.Machine.fld (0x0500000000000000 : DWord) 55 9 = 0x00A ∧
    Sys2Proof.Machine.fld (0xFF80000000000000 : DWord) 55 9 = 0x1FF := by decide
theorem test_hyp_isel : okv ((cx demo).sources 0 full (vo .imm (.konst 3) (.frame 5) .i32 0 1)
    ((vrule 0x05E).uses (vo .imm (.konst 3) (.frame 5) .i32 0 1))) = true := by decide +kernel
theorem test_hyp_match : okv ((cx demo).sources 0 full (vo (.special .lane) .zero .zero .i32 0 2)
    ((vrule 0x0C6).uses (vo (.special .lane) .zero .zero .i32 0 2))) = true ∧ (2 : BitVec 8).toNat < 3 := by decide +kernel
theorem test_hyp_canonical : nsorted none queued.preg = true ∧ queued.mem.wf = true ∧ queued.dscr.wf = true ∧
    (match step { queued with agenda := [.event (.storeQueueDrain 0 0)] } with
      | .next t => t.mem.wf && t.dscr.wf && decide (t.mem.length = 4) | _ => false) = true := by decide +kernel

/-! ## Results from the spec's worked examples -/

def li (a b c : Nat) : LaneIn := ⟨BitVec.ofNat 64 a, BitVec.ofNat 64 b, BitVec.ofNat 64 c⟩
def vt (ty : Ty) (m i : Nat) : VOps := vo (.age 0) (.age 1) (.age 2) ty m i
/-- Packed sums: the example of R212. -/
theorem test_iadd_packed : (opIadd (vt .i8x4 0 0) (li 0x7F800102 0x0180FF01 0)).push = [0x80000003] ∧
    (opIadds (vt .i8x4 0 0) (li 0x7F800102 0x0180FF01 0)) = { push := [0x7F800003] } := by decide +kernel
/-- The example of R213. -/
theorem test_imadw : (opImadw (vt .n32 0 0) (li 0xFFFFFFFF 3 0x100000005)).push = [0x00000002, 0x00000004] ∧
    (opImadw (vt .i32 0 0) (li 0xFFFFFFFF 3 0x100000005)).push = [0x00000002, 0x00000001] := by decide +kernel
/-- The example of R214. -/
theorem test_idivm : opIdivm (vt .i32 0 0) (li 0xFFFFFFF9 2 0) = { push := [0xFFFFFFFD, 0xFFFFFFFF] } ∧
    opIdivm (vt .i32 0 0) (li 7 0xFFFFFFFE 0) = { push := [0xFFFFFFFD, 1] } ∧
    opIdivm (vt .i32 0 0) (li 0x80000000 0xFFFFFFFF 0) = { push := [0x80000000, 0] } ∧
    opIdivm (vt .n32 0 0) (li 0xFFFFFFF9 2 0) = { push := [0x7FFFFFFC, 1] } := by decide +kernel
theorem test_idivm_zero : opIdivm (vt .i32 0 0) (li 5 0 0) = { push := [0xFFFFFFFF, 5], flags := flIDZ } := by decide +kernel
/-- The example of R220. -/
theorem test_prmb : (opPrmb (vt .n32 0 0) (li 0x44332211 0x88776655 0x8407)).push = [0x00551188] := by decide +kernel
/-- FFMA against FMUL and FADD: the example after R242; the product of 1 ± 2^-23 and -1. -/
theorem test_ffma : opFfma (vt .f32 0 0) (li 0x3F800001 0x3F7FFFFE 0xBF800000) = { push := [0xA8800000] } ∧
    opFmul (vt .f32 0 0) (li 0x3F800001 0x3F7FFFFE 0) = { push := [0x3F800000], flags := flNX } ∧
    opFadd (vt .f32 0 0) (li 0x3F800000 0xBF800000 0) = { push := [0] } := by decide +kernel
/-- FSCALE of 1.0 by -3 is 0.125 (R247). -/
theorem test_fscale : opFscale (vt .f32 0 0) (li 0x3F800000 0xFFFFFFFD 0) = { push := [0x3E000000] } := by decide +kernel
/-- Packing into D8: the example of R251. -/
theorem test_fcvt : opFcvt (vt .f32 0 0x09) (li 0x3F800000 0 0) = { push := [0x00000020] } ∧
    opFcvt (vt .f32 0 0x29) (li 0x4039999A 0x20 0) = { push := [0x00001720], flags := flNX } ∧
    opFcvt (vt .f32 0 0x49) (li 0x42200000 0x1720 0) = { push := [0x00011720], flags := flOF ||| flNX } ∧
    opFcvt (vt .f32 0 0x69) (li 0xBE980000 0x11720 0) = { push := [0xD3011720] } := by decide +kernel
/-- The example of R252, with and without `.x` (MOD, imm8 by R252). -/
theorem test_fcvti : opFcvti (vt .f32 0 0) (li 0xC0200000 0 0) = { push := [0xFFFFFFFE] } ∧
    opFcvti (vt .f32 0 0x10) (li 0xC0200000 0 0) = { push := [0xFFFFFFFE], flags := flNX } ∧
    opFcvti (vt .f32 0 0) (li 0x4F32D05E 0 0) = { push := [0x7FFFFFFF], flags := flNV } ∧
    opFcvti (vt .f32 0 1) (li 0x4F32D05E 0 0) = { push := [0xB2D05E00] } ∧
    opFcvti (vt .f32 0 1) (li 0xBF800000 0 0) = { push := [0], flags := flNV } := by decide +kernel
/-- i32 16 777 217 becomes 16 777 216 with NX; n16 65 520 becomes an FP16 infinity with OF and NX (R253). -/
theorem test_icvtf : opIcvtf (vt .i32 0 2) (li 16777217 0 0) = { push := [0x4B800000], flags := flNX } ∧
    (opIcvtf (vt .n16x2 0 3) (li 65520 0 0)).flags = flOF ||| flNX := by decide +kernel
/-- The twiddles of the example of R391. -/
theorem test_twg : (opTwg (vt .n32 0 0) (li 8 9 0)).push = [0x3F3504F3, 0xBF3504F3] ∧
    (opTwg (vt .n32 1 0) (li 8 1 0)).push = [0x3F3504F3, 0x3F3504F3] ∧
    (opTwg (vt .n32 0 0) (li 3 1 0)).push = [0xBF000000, 0xBF5DB3D7] := by decide +kernel
/-- The exchange example: lanes 0 to 35, 34 and 35 helpers. -/
def someLanes (g : Group) : Group :=
  { g with members := maskOf fun l => l < 36, helper := maskOf fun l => l == 34 || l == 35,
           s := ((g.s.set 61 0xFFFFFFFF).set 62 0xF).set 63 0 }
def xlanes (l : Nat) : Vector DWord 96 := Vector.ofFn fun i => BitVec.ofNat 64 (i.val + l)
def exch (f : VOps → Ctx → LaneMask → Vector DWord 96 → Vector DWord 96 → Fin 96 → LaneOut) (v : VOps) (n : Nat)
    (ls : List (Fin 96)) : List (List Word) :=
  ls.map fun l => (f v (cx (dm someLanes)) (maskOf fun l => l < 36) (xlanes 0) (Vector.replicate 96 (BitVec.ofNat 64 n)) l).push
theorem test_redv : exch xRedv (vt .i32 0 0) 0 [0, 35] = [[561], [561]] := by decide +kernel
theorem test_scan : exch xScan (vt .i32 0 0) 0 [0, 10, 33, 35] = [[0], [55], [561], [561]] := by decide +kernel
theorem test_match : exch xMatch (vt .i32 0 1) 0 [0, 33, 34] = [[0], [2], [0]] := by decide +kernel

/-! ## Single steps -/

def after (x : Host.Outcome State Fault Refusal) : State := match x with
  | .next t => t
  | _ => State.reset
def laneAge (s : State) (l : Fin 96) (n : Nat) : Option Val :=
  (s.group? 0 0).map fun g => (g.lane l).act.age g.coilD n
/-- The step after a load of a word runs it: `PICK.i32 #7` of R182's example pushes 7 in every lane. -/
theorem test_step_pick : let w := (encode (.pick (vo .imm .zero .zero .i32 0 7))).getD 0
    laneAge (after (step (State.reset.withFetchWord 64 w.toNat))) 95 1 = some (.word 7) := by decide +kernel
theorem test_step_pc : ((after (step (State.reset.withFetchWord 64 0))).group? 0 0).map (·.pc) = some ⟨0x1040, 1⟩ := by
  decide +kernel
/-- `SMOVI.n32 s7, #0x12345678` (R233). -/
theorem test_step_smovi : ((after (step (State.reset.withFetchWord 64 0x77000E2468AC20F0))).group? 0 0).map
    (fun g => g.sreg 7) = some 0x12345678 := by decide +kernel
/-- `PLOP.and p3, p1, p2` leaves p3 clear where p1 is clear (R188). -/
theorem test_step_plop : ((after (step (State.reset.withFetchWord 64 0x13807C1F07C05016))).group? 0 0).map
    (fun g => (g.lane 5).p 3) = some false := by decide +kernel
/-- A reserved opcode with no handler: the group is terminated with ILLEGAL_INSTRUCTION subcode 1 (R84, R405). -/
theorem test_step_reserved : ((after (step (State.reset.withFetchWord 64 0x0500000000000000))).group? 0 0).bind
    (fun g => g.term.map fun r => (r.code, r.sub)) = some (0x01, 0x01) := by decide +kernel
/-- `TRAP #7` with no handler terminates with code 0x50, subcode 7 (R408). -/
theorem test_step_trap : ((after (step (State.reset.withFetchWord 64 0xD00000000001C000))).group? 0 0).bind
    (fun g => g.term.map fun r => (r.code, r.sub, r.addr)) = some (0x50, 7, 0) := by decide +kernel
/-- A store leaves its queue with its bytes, low byte first (R2). -/
theorem test_drain_bytes : (after (exec (.storeQueueDrain 0 0) queued)).mem =
    [⟨0x1000, 4⟩, ⟨0x1001, 3⟩, ⟨0x1002, 2⟩, ⟨0x1003, 1⟩] := by decide +kernel
theorem test_arv_phase : ((after (exec (.arv (top 3 4 0 2 0)) pobj)).wg? 0 0).map (fun w => w.spad) = some [⟨8, 1⟩] := by
  decide +kernel
-- R193, R235, R344: ARV may write a mask word
theorem test_arv_mask : ((after (exec (.arv (top 61 4 0 2 0)) pobj)).group? 0 0).map (fun g => (g.sreg 61, g.sreg 62)) =
    some (0, 0xFFFFFFFF) := by decide +kernel
theorem test_reset_nothing : State.reset.group? 0 0 = none ∧ State.reset.mem = [] ∧ State.reset.dc 3 9 = 0 ∧
    State.reset.coreOn 63 = true := by decide +kernel

end Sys2Proof.Tests
end

/-! # The reserved opcodes (R84)

The opcode is the word's top nine bits (R62). The proof has two halves: no format's table lists an opcode of R84, so the
decoder answers subcode 1 before it looks at any other field; and a word that the decoder refuses, of a group that no
breakpoint stops, issues as the precise fault of R65 on the lanes its guards admit. -/

namespace Sys2Proof

open Machine

/-- The registers' way of writing a field of a word reads the same number as the decoder's. -/
theorem machineFld_eq_fld (w : DWord) (lo len : Nat) : Machine.fld w lo len = fld w lo len := by
  simp [Machine.fld, fld, Nat.shiftRight_eq_div_pow]

/-- An opcode without an instruction: not one of the two with a decoder of their own (PLOP, SMOVI), and in the table of
no format (R83). -/
abbrev NoInstr (op : Nat) : Prop :=
  op ≠ 0x027 ∧ op ≠ 0x0EE ∧ mkV op = none ∧ mkS op = none ∧ mkM op = none ∧ mkB op = none ∧ mkBI op = none ∧
    mkE op = none ∧ mkT op = none

/-- The opcodes that R84 lists. -/
abbrev ReservedOpcode (n : Nat) : Prop :=
  (0x00A ≤ n ∧ n ≤ 0x01F) ∨ (0x029 ≤ n ∧ n ≤ 0x03F) ∨ (0x064 ≤ n ∧ n ≤ 0x07F) ∨ (0x09E ≤ n ∧ n ≤ 0x0BF) ∨
    (0x0CB ≤ n ∧ n ≤ 0x0DF) ∨ (0x0F5 ≤ n ∧ n ≤ 0x0FF) ∨ (0x10A ≤ n ∧ n ≤ 0x11F) ∨ (0x12B ≤ n ∧ n ≤ 0x13F) ∨
    (0x14A ≤ n ∧ n ≤ 0x15F) ∨ (0x167 ≤ n ∧ n ≤ 0x17F) ∨ (0x18A ≤ n ∧ n ≤ 0x19F) ∨ (0x1AA ≤ n ∧ n ≤ 0x1BF) ∨
    (0x1C0 ≤ n ∧ n ≤ 0x1F7) ∨ (0x1F8 ≤ n ∧ n ≤ 0x1FF)

/-- R84 and the opcode tables of R83 do not meet: a check of the nine-bit opcodes, one by one. -/
theorem noInstr_of_reservedOpcode : ∀ op : BitVec 9, ReservedOpcode op.toNat → NoInstr op.toNat := by decide +kernel

/-- The decoder gives up on the opcode alone, whatever the other bits. -/
theorem decode_of_noInstr {w : DWord} (h : NoInstr (fld w 55 9)) : decode w = .error 1 := by
  obtain ⟨hPlop, hSmovi, hV, hS, hM, hB, hBI, hE, hT⟩ := h
  simp only [decode, if_neg hPlop, if_neg hSmovi, hV, hS, hM, hB, hBI, hE, hT]

theorem decode_of_reservedOpcode {w : DWord} (h : ReservedOpcode (fld w 55 9)) : decode w = .error 1 :=
  decode_of_noInstr (noInstr_of_reservedOpcode (w.extractLsb' 55 9) h)

/-- A word that the decoder refuses, at the PC of a group that no breakpoint stops here: ILLEGAL_INSTRUCTION with the
decoder's subcode, the word as its detail, on E (R65, R447). -/
theorem issueWord_of_decode_error {s : State} {c : Ctx} {l : IcLine} {w : DWord} {sub : Nat} (core slot : Nat)
    (hw : l.words.getD c.g.pc.slot 0 = w)
    (hbp : c.g.counted = true ∨ c.g.bpPass = some c.g.pc ∨ s.bpHit c.g.vf c.g.pc.word = false)
    (hd : decode w = .error sub) :
    s.issueWord core slot c l = .other (s.precise c fcIllegal sub w (c.g.exec (guard1 w) (guard2 w))) := by
  have noStop : (!c.g.counted && c.g.bpPass != some c.g.pc && s.bpHit c.g.vf c.g.pc.word) = false := by
    obtain h | h | h := hbp <;> simp [h]
  subst hw
  simp only [State.issueWord, noStop, Bool.false_eq_true, if_false, hd]

/-- Settles O55: the decoder refuses the opcode (`decode_of_reservedOpcode`), and the issue of a refused word is the
fault (`issueWord_of_decode_error`). -/
theorem reservedOpcodesFault : Obligations.ReservedOpcodesFault := by
  unfold Obligations.ReservedOpcodesFault
  intro w n hn hres
  have hd : decode w = .error 1 := decode_of_reservedOpcode (by rwa [← machineFld_eq_fld, ← hn])
  exact ⟨hd, fun s core slot c l hw hbp => issueWord_of_decode_error core slot hw (.inr hbp) hd⟩

end Sys2Proof

/-! # ISEL (R222)

ISEL is one of the lane-by-lane vector instructions: `vecInstr_ok` says what such an instruction does with every lane of
E, and `opIsel_mk` what ISEL does in one lane. -/

namespace Sys2Proof

open Machine

/-- ISEL runs lane by lane. -/
theorem exec_isel (f : VOps) (s : State) : exec (.isel f) s = vecInstr 0x05E f opIsel s := rfl

/-- ISEL in one lane: the type does not enter, and the word pushed is one of the two source words, bit for bit. -/
theorem opIsel_mk (f : VOps) (a b t : DWord) :
    opIsel f ⟨a, b, t⟩ = { push := [if lowWord t ≠ 0 then lowWord a else lowWord b] } := rfl

/-- Settles O58: ISEL completes as a lane-by-lane instruction (`vecInstr_ok`) with the function of `opIsel_mk`. -/
theorem iselMovesBits : Obligations.IselMovesBits := by
  unfold Obligations.IselMovesBits
  intro f s c E pc a b t hissue hsources
  have completes := vecInstr_ok (fn := opIsel) hissue hsources
  simpa only [exec_isel, opIsel_mk] using completes

end Sys2Proof

/-! # MATCH (R267)

MATCH is one of the exchanges inside a group: `exchInstr_ok` says what an exchange does with every lane of E. What it
pushes is a word of lane bits, and `laneBits_iff` says when one of them is set, lane by lane of the set it counts. -/

namespace Sys2Proof

open Machine

/-! ## Masks, lane by lane -/

/-- A lane below 96 is in the mask of a test exactly when it passes the test. -/
theorem inMask_maskOf {p : Nat → Bool} {l : Nat} (hl : l < 96) : inMask (maskOf p) l = p l := by
  rw [inMask, maskOf, BitVec.getLsbD_setWidth, BitVec.getLsbD_ofBoolListLE]
  simp [hl]

/-- Bit k of mask word w is lane 32 w + k (R19). -/
theorem getLsbD_maskWord (m : LaneMask) (w : Nat) {k : Nat} (hk : k < 32) :
    (maskWord m w).getLsbD k = inMask m (32 * w + k) := by
  simp [maskWord, inMask, hk]

/-- A lane contributes exactly when it executes and is not a helper lane (R260). -/
theorem inMask_contrib (c : Ctx) (E : LaneMask) {l : Nat} (hl : l < 96) :
    inMask (c.contrib E) l = true ↔ inMask E l = true ∧ inMask c.g.helper l = false := by
  simp [inMask, Ctx.contrib, hl]

/-- The word of a lane by number, at a lane of the group. -/
theorem wordAt_fin (v : Vector DWord 96) (l : Fin 96) : wordAt v l.val = lowWord v[l] := dif_pos l.isLt

/-- In the lane bits of the word that holds lane j, j's bit says whether j is in the set and passes the test. -/
theorem laneBits_iff (m : LaneMask) (p : Nat → Bool) (j : Fin 96) :
    (laneBits m (j.val / 32) p).getLsbD (j.val % 32) = true ↔ inMask m j.val = true ∧ p j.val = true := by
  have hk : j.val % 32 < 32 := Nat.mod_lt _ (by decide)
  rw [laneBits, getLsbD_maskWord _ _ hk, Nat.div_add_mod, inMask_maskOf j.isLt, Bool.and_eq_true]

/-! ## The instruction -/

/-- MATCH is an exchange. -/
theorem exec_matchLanes (f : VOps) (s : State) : exec (.matchLanes f) s = exchInstr 0x0C6 f (xMatch f) s := rfl

/-- The word MATCH pushes in lane l: its bits are the contributing lanes whose word equals that of l. -/
def matchWord (f : VOps) (c : Ctx) (E : LaneMask) (a : Vector DWord 96) (l : Fin 96) : Word :=
  laneBits (c.contrib E) (f.imm.toNat % 4) fun k => wordAt a k == lowWord a[l]

theorem xMatch_eq (f : VOps) (c : Ctx) (E : LaneMask) (a b : Vector DWord 96) (l : Fin 96) :
    xMatch f c E a b l = { push := [matchWord f c E a l] } := rfl

/-- Where lane j lies in the mask word that the immediate selects, its bit in the word of lane l says whether j
contributes and holds the word of l. -/
theorem matchWord_iff {f : VOps} (c : Ctx) (E : LaneMask) (a : Vector DWord 96) (l : Fin 96) {j : Fin 96}
    (hj : j.val / 32 = f.imm.toNat) :
    (matchWord f c E a l).getLsbD (j.val % 32) = true ↔
      inMask E j.val = true ∧ inMask c.g.helper j.val = false ∧ lowWord a[j] = lowWord a[l] := by
  have hw : f.imm.toNat % 4 = j.val / 32 := by omega
  rw [matchWord, hw, laneBits_iff, inMask_contrib c E j.isLt, wordAt_fin, beq_iff_eq, and_assoc]

/-- Settles O59: MATCH completes as an exchange (`exchInstr_ok`) that pushes `matchWord`, whose bits are those of
`matchWord_iff`; a contributing lane's own bit is the case j = l, where the words are equal. -/
theorem matchFindsEqualLanes : Obligations.MatchFindsEqualLanes := by
  unfold Obligations.MatchFindsEqualLanes
  intro f s c E pc a b t hissue hsources _
  have completes := exchInstr_ok (fn := xMatch f) hissue hsources
  refine ⟨matchWord f c E a, ?_, ?_, ?_⟩
  · simpa only [exec_matchLanes, xMatch_eq] using completes
  · intro l j hj
    exact matchWord_iff c E a l hj
  · intro l hE hhelper hl
    exact (matchWord_iff c E a l hl).mpr ⟨hE, hhelper, rfl⟩

end Sys2Proof

/-! # Decoding what the encoder writes (R62 to R84)

The encoder writes an instruction by its form: an opcode and the fields of a format. Each format's decoder reads back
the fields that its encoder wrote (`decode_wordV` and its fellows), and the opcode leads back to the instruction's own
constructor (`listed`, from the table entry of each instruction). -/

namespace Sys2Proof

open Machine

/-- The table entry of every instruction and event, collected. -/
theorem listed : (i : Instr) → Laws.Listed.Statement i
  | .nop f => Laws.Listed.nop f
  | .br f => Laws.Listed.br f
  | .brc f => Laws.Listed.brc f
  | .jmpi f => Laws.Listed.jmpi f
  | .brk f => Laws.Listed.brk f
  | .yldp f => Laws.Listed.yldp f
  | .exit f => Laws.Listed.exit f
  | .call f => Laws.Listed.call f
  | .calli f => Laws.Listed.calli f
  | .ret f => Laws.Listed.ret f
  | .pick f => Laws.Listed.pick f
  | .pick2 f => Laws.Listed.pick2 f
  | .save f => Laws.Listed.save f
  | .savem f => Laws.Listed.savem f
  | .frame f => Laws.Listed.frame f
  | .rjn f => Laws.Listed.rjn f
  | .setp f => Laws.Listed.setp f
  | .plop f => Laws.Listed.plop f
  | .p2v f => Laws.Listed.p2v f
  | .iadd f => Laws.Listed.iadd f
  | .isub f => Laws.Listed.isub f
  | .imul f => Laws.Listed.imul f
  | .imulh f => Laws.Listed.imulh f
  | .imad f => Laws.Listed.imad f
  | .imadw f => Laws.Listed.imadw f
  | .idivm f => Laws.Listed.idivm f
  | .imin f => Laws.Listed.imin f
  | .imax f => Laws.Listed.imax f
  | .iabs f => Laws.Listed.iabs f
  | .ineg f => Laws.Listed.ineg f
  | .iadds f => Laws.Listed.iadds f
  | .isubs f => Laws.Listed.isubs f
  | .and f => Laws.Listed.and f
  | .or f => Laws.Listed.or f
  | .xor f => Laws.Listed.xor f
  | .andn f => Laws.Listed.andn f
  | .not f => Laws.Listed.not f
  | .shl f => Laws.Listed.shl f
  | .shr f => Laws.Listed.shr f
  | .sar f => Laws.Listed.sar f
  | .funsh f => Laws.Listed.funsh f
  | .bfx f => Laws.Listed.bfx f
  | .bfi f => Laws.Listed.bfi f
  | .popc f => Laws.Listed.popc f
  | .clz f => Laws.Listed.clz f
  | .ctz f => Laws.Listed.ctz f
  | .brev f => Laws.Listed.brev f
  | .prmb f => Laws.Listed.prmb f
  | .icmp f => Laws.Listed.icmp f
  | .isel f => Laws.Listed.isel f
  | .iaddc f => Laws.Listed.iaddc f
  | .agen f => Laws.Listed.agen f
  | .iadd64 f => Laws.Listed.iadd64 f
  | .iext f => Laws.Listed.iext f
  | .idot4 f => Laws.Listed.idot4 f
  | .fadd f => Laws.Listed.fadd f
  | .fsub f => Laws.Listed.fsub f
  | .fmul f => Laws.Listed.fmul f
  | .ffma f => Laws.Listed.ffma f
  | .fmin f => Laws.Listed.fmin f
  | .fmax f => Laws.Listed.fmax f
  | .fcmp f => Laws.Listed.fcmp f
  | .fclass f => Laws.Listed.fclass f
  | .frnd f => Laws.Listed.frnd f
  | .fscale f => Laws.Listed.fscale f
  | .frcp f => Laws.Listed.frcp f
  | .frsq f => Laws.Listed.frsq f
  | .fsqrt f => Laws.Listed.fsqrt f
  | .fdiv f => Laws.Listed.fdiv f
  | .fex2 f => Laws.Listed.fex2 f
  | .flg2 f => Laws.Listed.flg2 f
  | .fsin f => Laws.Listed.fsin f
  | .fcos f => Laws.Listed.fcos f
  | .ftanh f => Laws.Listed.ftanh f
  | .fcvt f => Laws.Listed.fcvt f
  | .fcvti f => Laws.Listed.fcvti f
  | .icvtf f => Laws.Listed.icvtf f
  | .hadd2 f => Laws.Listed.hadd2 f
  | .hmul2 f => Laws.Listed.hmul2 f
  | .hfma2 f => Laws.Listed.hfma2 f
  | .hmin2 f => Laws.Listed.hmin2 f
  | .hmax2 f => Laws.Listed.hmax2 f
  | .qscl f => Laws.Listed.qscl f
  | .fpack f => Laws.Listed.fpack f
  | .funpk f => Laws.Listed.funpk f
  | .qswp f => Laws.Listed.qswp f
  | .qbc f => Laws.Listed.qbc f
  | .shfl f => Laws.Listed.shfl f
  | .vote f => Laws.Listed.vote f
  | .redv f => Laws.Listed.redv f
  | .scan f => Laws.Listed.scan f
  | .matchLanes f => Laws.Listed.matchLanes f
  | .xsend f => Laws.Listed.xsend f
  | .xrecv f => Laws.Listed.xrecv f
  | .rdlane f => Laws.Listed.rdlane f
  | .wrlane f => Laws.Listed.wrlane f
  | .sadd f => Laws.Listed.sadd f
  | .ssub f => Laws.Listed.ssub f
  | .smul f => Laws.Listed.smul f
  | .sand f => Laws.Listed.sand f
  | .sor f => Laws.Listed.sor f
  | .sxor f => Laws.Listed.sxor f
  | .sshl f => Laws.Listed.sshl f
  | .sshr f => Laws.Listed.sshr f
  | .ssar f => Laws.Listed.ssar f
  | .smin f => Laws.Listed.smin f
  | .smax f => Laws.Listed.smax f
  | .scmp f => Laws.Listed.scmp f
  | .ssel f => Laws.Listed.ssel f
  | .smovk f => Laws.Listed.smovk f
  | .smovi f => Laws.Listed.smovi f
  | .sld f => Laws.Listed.sld f
  | .sst f => Laws.Listed.sst f
  | .spopc f => Laws.Listed.spopc f
  | .sclz f => Laws.Listed.sclz f
  | .smovs f => Laws.Listed.smovs f
  | .sbfx f => Laws.Listed.sbfx f
  | .ld f => Laws.Listed.ld f
  | .st f => Laws.Listed.st f
  | .ldl f => Laws.Listed.ldl f
  | .stl f => Laws.Listed.stl f
  | .atom f => Laws.Listed.atom f
  | .acas f => Laws.Listed.acas f
  | .fence f => Laws.Listed.fence f
  | .pref f => Laws.Listed.pref f
  | .spres f => Laws.Listed.spres f
  | .invl f => Laws.Listed.invl f
  | .cpy f => Laws.Listed.cpy f
  | .cpyg f => Laws.Listed.cpyg f
  | .cpys f => Laws.Listed.cpys f
  | .cmt f => Laws.Listed.cmt f
  | .waitt f => Laws.Listed.waitt f
  | .tlrd f => Laws.Listed.tlrd f
  | .bar f => Laws.Listed.bar f
  | .barc f => Laws.Listed.barc f
  | .arv f => Laws.Listed.arv f
  | .wph f => Laws.Listed.wph f
  | .yield f => Laws.Listed.yield f
  | .btake f => Laws.Listed.btake f
  | .bpass f => Laws.Listed.bpass f
  | .mms f => Laws.Listed.mms f
  | .mml f => Laws.Listed.mml f
  | .aclr f => Laws.Listed.aclr f
  | .ald f => Laws.Listed.ald f
  | .adrn f => Laws.Listed.adrn f
  | .adrv f => Laws.Listed.adrv f
  | .talloc f => Laws.Listed.talloc f
  | .tfree f => Laws.Listed.tfree f
  | .mcnt f => Laws.Listed.mcnt f
  | .mcntl f => Laws.Listed.mcntl f
  | .mmrg f => Laws.Listed.mmrg f
  | .cntz f => Laws.Listed.cntz f
  | .bfly f => Laws.Listed.bfly f
  | .bflyp f => Laws.Listed.bflyp f
  | .twg f => Laws.Listed.twg f
  | .enq f => Laws.Listed.enq f
  | .enqd f => Laws.Listed.enqd f
  | .deq f => Laws.Listed.deq f
  | .dcadd f => Laws.Listed.dcadd f
  | .dcrd f => Laws.Listed.dcrd f
  | .fres f => Laws.Listed.fres f
  | .fjoin f => Laws.Listed.fjoin f
  | .fget f => Laws.Listed.fget f
  | .nextch f => Laws.Listed.nextch f
  | .tinfo f => Laws.Listed.tinfo f
  | .trap f => Laws.Listed.trap f
  | .bpt f => Laws.Listed.bpt f
  | .tret f => Laws.Listed.tret f
  | .csrr f => Laws.Listed.csrr f
  | .csrw f => Laws.Listed.csrw f
  | .time f => Laws.Listed.time f
  | .ctrrd f => Laws.Listed.ctrrd f
  | .ctrcfg f => Laws.Listed.ctrcfg f
  | .flags f => Laws.Listed.flags f
  | .flclr f => Laws.Listed.flclr f
  | .missDataReturn core slot id => Laws.Listed.missDataReturn core slot id
  | .storeQueueDrain core slot => Laws.Listed.storeQueueDrain core slot
  | .pageWalk part die => Laws.Listed.pageWalk part die
  | .accessReplay core slot => Laws.Listed.accessReplay core slot
  | .icacheFill core slot bundle => Laws.Listed.icacheFill core slot bundle
  | .bundleRefetch core slot => Laws.Listed.bundleRefetch core slot
  | .cardParse vf q => Laws.Listed.cardParse vf q
  | .fenceConditionMet vf q => Laws.Listed.fenceConditionMet vf q
  | .dealChunk part => Laws.Listed.dealChunk part
  | .stealChunk core => Laws.Listed.stealChunk core
  | .workgroupStart core => Laws.Listed.workgroupStart core
  | .jobComplete job => Laws.Listed.jobComplete job
  | .copyPiece core cmd write row ofs => Laws.Listed.copyPiece core cmd write row ofs
  | .copyComplete core cmd => Laws.Listed.copyComplete core cmd
  | .engineCommandStart core cmd early => Laws.Listed.engineCommandStart core cmd early
  | .engineCommandComplete core cmd => Laws.Listed.engineCommandComplete core cmd
  | .adrvDrain core cmd => Laws.Listed.adrvDrain core cmd
  | .schedulerSwap core act => Laws.Listed.schedulerSwap core act
  | .forcedSwap core => Laws.Listed.forcedSwap core
  | .freeSlotFill core => Laws.Listed.freeSlotFill core
  | .gatingEntry core => Laws.Listed.gatingEntry core
  | .gatingHoldoffExpire core => Laws.Listed.gatingHoldoffExpire core
  | .gatingExitDone core => Laws.Listed.gatingExitDone core
  | .preemptReq vf => Laws.Listed.preemptReq vf
  | .groupPreemptStop core slot => Laws.Listed.groupPreemptStop core slot
  | .preemptTimeout core slot => Laws.Listed.preemptTimeout core slot
  | .preemptResume vf => Laws.Listed.preemptResume vf
  | .groupResume core slot => Laws.Listed.groupResume core slot
  | .rowClaimComplete core => Laws.Listed.rowClaimComplete core
  | .tileSpill core tile => Laws.Listed.tileSpill core tile
  | .quantumExpire part => Laws.Listed.quantumExpire part
  | .groupRetire core slot => Laws.Listed.groupRetire core slot
  | .groupTerminate core slot => Laws.Listed.groupTerminate core slot
  | .engineFaultDelivery core slot => Laws.Listed.engineFaultDelivery core slot
  | .debugHalt vf gid => Laws.Listed.debugHalt vf gid
  | .debugStep vf gid => Laws.Listed.debugStep vf gid
  | .debugFocus vf gid lane => Laws.Listed.debugFocus vf gid lane
  | .debugUnfocus vf gid => Laws.Listed.debugUnfocus vf gid
  | .debugRun vf gid => Laws.Listed.debugRun vf gid
  | .debugDump vf gid => Laws.Listed.debugDump vf gid
  | .instructionSample core act => Laws.Listed.instructionSample core act
  | .jobQueueDoorbell vf q p => Laws.Listed.jobQueueDoorbell vf q p
  | .queueEnWrite vf data q value => Laws.Listed.queueEnWrite vf data q value
  | .faultResume fn seq => Laws.Listed.faultResume fn seq
  | .fqconsWrite fn value => Laws.Listed.fqconsWrite fn value
  | .biasFlipToDevice vf page => Laws.Listed.biasFlipToDevice vf page
  | .biasFlipToHost vf page => Laws.Listed.biasFlipToHost vf page
  | .biasFlipComplete vf => Laws.Listed.biasFlipComplete vf
  | .tlbInvalidateRange vf va => Laws.Listed.tlbInvalidateRange vf va
  | .tlbInvalidateAll vf => Laws.Listed.tlbInvalidateAll vf
  | .stage2Invalidate vf => Laws.Listed.stage2Invalidate vf
  | .invalidationComplete vf stage2 => Laws.Listed.invalidationComplete vf stage2
  | .placementWrite die ofs value => Laws.Listed.placementWrite die ofs value
  | .vfbindWrite vf value => Laws.Listed.vfbindWrite vf value
  | .policySubmit value => Laws.Listed.policySubmit value
  | .policyVerifyDone part => Laws.Listed.policyVerifyDone part
  | .policyTeardown part => Laws.Listed.policyTeardown part
  | .quoteRequest value => Laws.Listed.quoteRequest value
  | .quoteComplete => Laws.Listed.quoteComplete
  | .latencyMonitorConfig vf q value => Laws.Listed.latencyMonitorConfig vf q value
  | .logOvfClear vf => Laws.Listed.logOvfClear vf
  | .halfReadLow path vf ofs => Laws.Listed.halfReadLow path vf ofs
  | .halfReadHigh path vf ofs => Laws.Listed.halfReadHigh path vf ofs
  | .warmStart => Laws.Listed.warmStart
  | .registerWrite fn ofs value => Laws.Listed.registerWrite fn ofs value
  | .coldStart => Laws.Listed.coldStart
  | .pcieReset => Laws.Listed.pcieReset
  | .softError die correctable pa => Laws.Listed.softError die correctable pa
  | .hostMemAccess write pa bytes => Laws.Listed.hostMemAccess write pa bytes
  | .remoteFrameReceive frame => Laws.Listed.remoteFrameReceive frame
  | .osierRetransmit frame => Laws.Listed.osierRetransmit frame
  | .osierPortFail port => Laws.Listed.osierPortFail port
  | .droopDetect core => Laws.Listed.droopDetect core
  | .clockReturnStep core => Laws.Listed.clockReturnStep core
  | .powerCapStep watts => Laws.Listed.powerCapStep watts
  | .thermalThrottle die tenths => Laws.Listed.thermalThrottle die tenths
  | .thermalShutdown die tenths => Laws.Listed.thermalShutdown die tenths
  | .sagEnd core => Laws.Listed.sagEnd core
  | .powerLoss => Laws.Listed.powerLoss
  | .osierPortEnable port enable => Laws.Listed.osierPortEnable port enable
  | .osierPortUp port => Laws.Listed.osierPortUp port
  | .spilledLineArrival core wg line => Laws.Listed.spilledLineArrival core wg line

/-- The word of an instruction decodes to that instruction, its fields checked; no field is lost on the way. -/
theorem decode_of_encode {i : Instr} {w : DWord} (hwf : i.wf = true) (he : encode i = some w) :
    decode w = finish i false := by
  have entry := listed i
  unfold Laws.Listed.Statement at entry
  unfold encode at he
  cases hform : i.form <;> simp only [hform, Option.some.injEq] at entry he
  case v op f =>
    subst he
    obtain ⟨mk, hmk, rfl, hop, hPlop, hSmovi⟩ := entry
    exact decode_wordV hop hmk hPlop hSmovi f
  case plop f =>
    subst he
    exact entry ▸ decode_wordPlop f
  case s op f =>
    subst he
    obtain ⟨hV, mk, hmk, rfl, hop, hPlop, hSmovi⟩ := entry
    exact decode_wordS hop hV hmk hPlop hSmovi f
  case smovi f =>
    subst he
    subst entry
    have sound : breach (.smovi f) = none := by simpa [Instr.wf] using hwf
    rw [decode_wordSmovi f sound, finish_wf hwf]
  case m op f =>
    subst he
    obtain ⟨hV, hS, mk, hmk, rfl, hop, hPlop, hSmovi⟩ := entry
    exact decode_wordM hop hV hS hmk hPlop hSmovi f
  case b op f =>
    subst he
    obtain ⟨hV, hS, hM, mk, hmk, rfl, hop, hPlop, hSmovi⟩ := entry
    exact decode_wordB hop hV hS hM hmk hPlop hSmovi f
  case bi op f =>
    subst he
    obtain ⟨hV, hS, hM, hB, mk, hmk, rfl, hop, hPlop, hSmovi⟩ := entry
    exact decode_wordBI hop hV hS hM hB hmk hPlop hSmovi f
  case e op f =>
    subst he
    obtain ⟨hV, hS, hM, hB, hBI, mk, hmk, rfl, hop, hPlop, hSmovi⟩ := entry
    exact decode_wordE hop hV hS hM hB hBI hmk hPlop hSmovi f
  case t op f =>
    subst he
    obtain ⟨hV, hS, hM, hB, hBI, hE, mk, hmk, rfl, hop, hPlop, hSmovi⟩ := entry
    exact decode_wordT hop hV hS hM hB hBI hE hmk hPlop hSmovi f
  case event => cases he

/-- Settles O54: the word decodes to the instruction (`decode_of_encode`), and a well-formed one passes the checks. -/
theorem decodeEncode : Obligations.DecodeEncode := by
  unfold Obligations.DecodeEncode
  intro i w hwf he
  rw [decode_of_encode hwf he, finish_wf hwf]

end Sys2Proof

/-! # Bodies that answer

An instruction's body is a sequence of checks, reads and writes, each of which answers or traps; one that has answered
gives its answer to the rest. -/

namespace Sys2Proof.Machine


section
variable {ε α β : Type}

@[simp] theorem ok_bind (a : α) (f : α → Except ε β) : (Except.ok a >>= f) = f a := rfl
@[simp] theorem error_bind (e : ε) (f : α → Except ε β) : (Except.error e >>= f) = .error e := rfl
@[simp] theorem map_ok (f : α → β) (a : α) : Except.map f (.ok a : Except ε α) = .ok (f a) := rfl
@[simp] theorem map_error (f : α → β) (e : ε) : Except.map f (.error e : Except ε α) = .error e := rfl
@[simp] theorem pure_eq_ok (a : α) : (pure a : Except ε α) = .ok a := rfl

/-- A list of checks, or of reads whose values nobody uses, answers where every one of them does. -/
theorem mapM_ok_of_forall {l : List α} {f : α → Except ε β} (h : ∀ a ∈ l, ∃ b, f a = .ok b) :
    ∃ bs, l.mapM f = .ok bs := by
  induction l with
  | nil => exact ⟨[], rfl⟩
  | cons a l ih =>
    obtain ⟨b, hb⟩ := h a List.mem_cons_self
    obtain ⟨bs, hbs⟩ := ih fun x hx => h x (List.mem_cons_of_mem _ hx)
    exact ⟨b :: bs, by simp [List.mapM_cons, hb, hbs]⟩

/-- The same for the numbers below n. -/
theorem mapM_range_ok {n : Nat} {f : Nat → Except ε β} (h : ∀ i < n, ∃ b, f i = .ok b) :
    ∃ bs, (List.range n).mapM f = .ok bs :=
  mapM_ok_of_forall fun i hi => h i (List.mem_range.mp hi)

end

@[simp] theorem Group.modLanes_stack (g : Group) (m : LaneMask) (f : Fin 96 → Lane → Lane) :
    (g.modLanes m f).stack = g.stack := rfl

/-- An instruction that issues finds its mask written, and sound. -/
theorem Issues.maskWait {s : State} {c : Ctx} {g1 g2 : Guard} {E : LaneMask} {pc : PC} (h : Issues s c g1 g2 E pc) :
    c.maskWait = .ok () := (Ctx.maskReady_ok h.mask).1

theorem Issues.maskSound {s : State} {c : Ctx} {g1 g2 : Guard} {E : LaneMask} {pc : PC} (h : Issues s c g1 g2 E pc) :
    c.maskSound = .ok () := (Ctx.maskReady_ok h.mask).2

theorem Issues.nextPc {s : State} {c : Ctx} {g1 g2 : Guard} {E : LaneMask} {pc : PC} (h : Issues s c g1 g2 E pc) :
    c.nextPc = .ok pc := by rw [Ctx.nextPc, h.next]

/-- An instruction that issues and whose body answers its own group, from what it reads of the state. -/
theorem instr_setGroup {i : Form} {body : Ctx → State → Except Trap Group} {s : State} {c : Ctx} {g1 g2 : Guard}
    {E : LaneMask} {g : Group} {pc : PC} (h : Issues s c g1 g2 E pc) (hb : body c s = .ok g) :
    instr i (fun c s => (body c s).map fun g => s.setGroup c.core c.slot g) s = .next (s.goesAs c i g pc) :=
  instr_goes h (by rw [hb]; rfl)

/-- The same of a body that stores the group itself. -/
theorem instr_storesGroup {i : Form} {body : Ctx → State → Except Trap State} {s : State} {c : Ctx} {g1 g2 : Guard}
    {E : LaneMask} {g : Group} {pc : PC} (h : Issues s c g1 g2 E pc) (hb : body c s = .ok (s.setGroup c.core c.slot g)) :
    instr i body s = .next (s.goesAs c i g pc) :=
  instr_goes h hb

/-- Storing a group at the next slot, for an instruction that issues. -/
theorem Issues.step {s : State} {c : Ctx} {g1 g2 : Guard} {E : LaneMask} {pc : PC} (h : Issues s c g1 g2 E pc)
    (u : State) (g : Group) :
    c.step u g = .ok (u.setGroup c.core c.slot { g with pc := pc, completing := false }) := by
  simp [Ctx.step, h.nextPc]

end Sys2Proof.Machine

/-! # Exchanges and WRLANE (R261 to R267)

Every exchange that stays in its group runs through `exchInstr`; `exchInstr_ok` says what that answers. WRLANE writes a
frame slot of one lane. -/

namespace Sys2Proof.Machine


/-- Each row of `exchRows` runs as an exchange with the row's opcode and function. -/
theorem exec_exchRow : ∀ r ∈ exchRows, ∀ f s, exec (r.ctor f) s = exchInstr r.op f (r.fn f) s := by
  simp only [exchRows, List.forall_mem_cons]
  exact ⟨fun _ _ => rfl, fun _ _ => rfl, fun _ _ => rfl, fun _ _ => rfl, fun _ _ => rfl, fun _ _ => rfl, fun _ _ => rfl,
    fun _ _ => rfl, fun _ h => nomatch h⟩

/-- WRLANE's body: the one lane's slot takes the source, where no earlier write to the slot is pending. -/
theorem wrlaneBody_ok {f : VOps} {wgid : Nat} {c : Ctx} {E : LaneMask} {a b t : Vector DWord 96} {n : Fin 704}
    (hwait : c.maskWait = .ok ()) (hE : c.g.exec f.g1 f.g2 = E) (ha : f.a = .frame n)
    (hsources : c.sources wgid E f ((vrule 0x0CA).uses f) = .ok (a, b, t))
    (hfree : c.framePending (maskOf fun l => l == f.imm.toNat && inMask E l) n.val = .ok ()) :
    wrlaneBody f wgid c = .ok (c.g.modLanes (maskOf fun l => l == f.imm.toNat && inMask E l) fun l ln =>
      { ln with act := ln.act.setFr n.val (.word (lowWord b[l])) }) := by
  subst hE
  simp [wrlaneBody, hwait, hsources, ha, hfree]

/-- Settles O2: the rows by `exchInstr_ok`, WRLANE by `wrlaneBody_ok`. -/
theorem exchangeInstructionsComplete : Obligations.ExchangeInstructionsComplete := by
  unfold Obligations.ExchangeInstructionsComplete
  refine ⟨?_, ?_⟩
  · intro r hr f s c E pc a b t hissue hsources
    rw [exec_exchRow r hr]
    exact exchInstr_ok hissue hsources
  · intro f s c E pc a b t n hissue ha hsources hfree
    have body := wrlaneBody_ok hissue.maskWait hissue.exec ha hsources hfree
    exact instr_setGroup (body := fun c s => wrlaneBody f (s.wgidOf c) c) hissue body

end Sys2Proof.Machine

/-! # Scalar instructions (R193, R228 to R236)

The rows of `scalarRows` run through `scalarInstr`; SCMP and SMOVI have bodies of their own. What a write of a scalar
does is `writeS`: below s61 a plain store, a mask word only within the current path. -/

namespace Sys2Proof.Machine

/-- Each row of `scalarRows` runs as a scalar instruction with the row's opcode and function. -/
theorem exec_scalarRow : ∀ r ∈ scalarRows, ∀ f s, exec (r.ctor f) s = scalarInstr r.op f (r.fn f) s := by
  simp only [scalarRows, List.forall_mem_cons]
  refine ⟨?_, ?_, ?_, ?_, ?_, ?_, ?_, ?_, ?_, ?_, ?_, ?_, ?_, ?_, ?_, ?_, ?_, fun _ h => nomatch h⟩ <;> exact fun _ _ => rfl

theorem scmpBody_ok {f : SOps} {wgid : Nat} {c : Ctx} {E : LaneMask} {a b t : DWord} {g : Group} {r : Bool}
    (hmask : c.maskReady = .ok ()) (hE : c.g.exec f.g1 f.g2 = E) (hne : E ≠ 0)
    (hsources : c.ssources wgid 0x0EB f = .ok (a, b, t)) (hfree : c.freeS f.d.val = .ok ())
    (hr : r = intCond (f.mod.toNat % 8) (sInt f.ty a) (sInt f.ty b))
    (hwrite : writeS (c.g.modLanes E fun _ ln => ln.setP (f.imm.toNat % 8) r) f.d.val (if r then 1 else 0) = .ok g) :
    scmpBody f wgid c = .ok g := by
  subst hE hr
  simp only [scmpBody, hmask, if_neg hne, hsources, hfree, ok_bind, hwrite]

theorem smoviBody_ok {f : SmoviOps} {c : Ctx} {E : LaneMask} {g : Group}
    (hmask : c.maskReady = .ok ()) (hE : c.g.exec f.g1 f.g2 = E) (hne : E ≠ 0) (hfree : c.freeS f.d.val = .ok ())
    (hwrite : writeS c.g f.d.val (if f.hi then f.lit ++ lowWord (c.g.sreg f.d.val)
      else if f.ty = .i32 then f.lit.signExtend 64 else f.lit.setWidth 64) = .ok g) :
    smoviBody f c = .ok (if f.hi then { g with spoison := c.g.spoison } else g) := by
  subst hE
  simp only [smoviBody, hmask, if_neg hne, hfree, ok_bind, hwrite, pure_eq_ok]

/-- A lane of a mask made of three words: the lane's bit of the word that holds it (R19). -/
theorem inMask_joinMask (w0 w1 w2 : Word) {l : Nat} (hl : l < 96) :
    inMask (joinMask w0 w1 w2) l = (if l / 32 = 0 then w0 else if l / 32 = 1 then w1 else w2).getLsbD (l % 32) := by
  have hlanes : l / 32 = 0 ∧ l % 32 = l ∨ l / 32 = 1 ∧ l % 32 = l - 32 ∨ l / 32 = 2 ∧ l % 32 = l - 32 - 32 := by omega
  have hword : inMask (joinMask w0 w1 w2) l =
      if l < 32 then w0.getLsbD l else if l - 32 < 32 then w1.getLsbD (l - 32) else w2.getLsbD (l - 32 - 32) := by
    rw [← BitVec.getLsbD_append, ← BitVec.getLsbD_append]; rfl
  rw [hword]
  obtain ⟨hq, hr⟩ | ⟨hq, hr⟩ | ⟨hq, hr⟩ := hlanes <;> rw [hq, hr]
  · rw [if_pos (by omega : l < 32)]; rfl
  · rw [if_neg (by omega : ¬ l < 32), if_pos (by omega : l - 32 < 32)]; rfl
  · rw [if_neg (by omega : ¬ l < 32), if_neg (by omega : ¬ l - 32 < 32)]; rfl

/-- What stands in a mask word's way: bits of the value for lanes outside the current path (R193). -/
def offMembers (g : Group) (d : Nat) (v : DWord) : Word := lowWord v &&& ~~~(maskWord g.members (d - 61))

theorem writeS_low (g : Group) {d : Nat} (v : DWord) (hd : d < 61) : writeS g d v = .ok (g.setS d v) := by
  rw [writeS, if_pos hd]

theorem writeS_mask {g : Group} {d : Nat} {v : DWord} (hd : 61 ≤ d) (hv : offMembers g d v = 0) :
    writeS g d v = .ok (g.setS d ((lowWord v).setWidth 64)) := by
  have hlow : ¬ d < 61 := by omega
  rw [offMembers] at hv
  simp [writeS, hlow, hv]

/-- A lane stands in the way exactly when the value sets it and the current path lacks it. -/
theorem getLsbD_offMembers (g : Group) (d : Nat) (v : DWord) {k : Nat} (hk : k < 32) :
    (offMembers g d v).getLsbD k = (v.getLsbD k && !inMask g.members (32 * (d - 61) + k)) := by
  have hm := Sys2Proof.getLsbD_maskWord g.members (d - 61) hk
  simp only [offMembers, lowWord, BitVec.getLsbD_and, BitVec.getLsbD_not, BitVec.getLsbD_setWidth, hm, hk, decide_true,
    Bool.true_and]

/-- The lanes that stand in the way, as the fault names them. -/
def offLanes (g : Group) (d : Nat) (v : DWord) : LaneMask :=
  joinMask (if d - 61 = 0 then offMembers g d v else 0) (if d - 61 = 1 then offMembers g d v else 0)
    (if d - 61 = 2 then offMembers g d v else 0)

theorem writeS_fault {g : Group} {d : Nat} {v : DWord} (hd : 61 ≤ d) (hv : offMembers g d v ≠ 0) :
    writeS g d v = .error (.fault 0x0B 1 (BitVec.ofNat 64 d) (offLanes g d v)) := by
  rw [writeS, if_neg (by omega)]
  exact if_neg hv

theorem inMask_offLanes (g : Group) (d : Nat) (v : DWord) {l : Nat} (hl : l < 96) :
    inMask (offLanes g d v) l = (decide (l / 32 = d - 61) && v.getLsbD (l % 32) && !inMask g.members l) := by
  have hword : (offMembers g d v).getLsbD (l % 32) = (v.getLsbD (l % 32) && !inMask g.members (32 * (d - 61) + l % 32)) :=
    getLsbD_offMembers g d v (Nat.mod_lt _ (by decide))
  rw [offLanes, inMask_joinMask _ _ _ hl]
  by_cases hq : l / 32 = d - 61
  · have hlane : 32 * (d - 61) + l % 32 = l := by omega
    rw [hlane] at hword
    have hd3 : d - 61 = 0 ∨ d - 61 = 1 ∨ d - 61 = 2 := by omega
    obtain h | h | h := hd3 <;> simp [hq, h, hword]
  · have hq3 : l / 32 = 0 ∨ l / 32 = 1 ∨ l / 32 = 2 := by omega
    obtain h | h | h := hq3 <;> simp [h] at hq ⊢ <;> simp [hq, Ne.symm hq]

/-- Settles O3: the rows by `scalarInstr_ok`, SCMP and SMOVI by their bodies, and a write of a scalar by the three
lemmas about `writeS`. -/
theorem scalarInstructionsComplete : Obligations.ScalarInstructionsComplete := by
  unfold Obligations.ScalarInstructionsComplete
  refine ⟨⟨?_, ?_, ?_⟩, ?_, ?_, ?_⟩
  · intro r hr f s c E pc a b t g hissue hE hsources hfree hwrite
    rw [exec_scalarRow r hr]
    exact scalarInstr_ok hissue hE hsources hfree hwrite
  · intro f s c E pc a b t g hissue hE hsources hfree hwrite
    have body := scmpBody_ok hissue.mask hissue.exec hE hsources hfree rfl hwrite
    exact instr_setGroup (body := fun c s => scmpBody f (s.wgidOf c) c) hissue body
  · intro f s c E pc g hissue hE hfree hwrite
    exact instr_goesAs hissue (smoviBody_ok hissue.mask hissue.exec hE hfree hwrite)
  · intro g d v hd
    exact writeS_low g v hd
  · intro g d v hd _ hv
    exact writeS_mask hd hv
  · intro g d v hd _ hv
    exact ⟨offLanes g d v, writeS_fault hd hv, fun l hl => inMask_offLanes g d v hl⟩

end Sys2Proof.Machine

/-! # The operand class (R181 to R189) and RJN (R179, R180, R186)

SAVE, SAVEM, FRAME, PLOP and P2V change lanes of their own group; RJN completes a reconvergence entry. Each body is run
once here, under what its checks ask for. -/

namespace Sys2Proof.Machine

theorem saveBody_ok {f : VOps} {wgid : Nat} {c : Ctx} {E : LaneMask} {a b t : Vector DWord 96} {n : Fin 704}
    (hwait : c.maskWait = .ok ()) (hE : c.g.exec f.g1 f.g2 = E) (ha : f.a = .frame n)
    (hsources : c.sources wgid E f ((vrule 0x022).uses f) = .ok (a, b, t))
    (hfree : ∀ i < if tyPair f.ty then 2 else 1, c.framePending E (n.val + i) = .ok ()) :
    saveBody f wgid c = .ok (c.g.modLanes E fun l ln =>
      { ln with act := if tyPair f.ty
          then (ln.act.setFr n.val (.word (lowWord b[l]))).setFr (n.val + 1) (.word (highWord b[l]))
          else ln.act.setFr n.val (.word (lowWord b[l])) }) := by
  subst hE
  obtain ⟨free, hfree⟩ := mapM_range_ok fun i hi => ⟨(), hfree i hi⟩
  simp only [saveBody, hwait, hsources, ha, ok_bind, hfree, pure_eq_ok]

theorem savemBody_ok {f : VOps} {c : Ctx} {E : LaneMask} {n : Fin 704} {a : Fin 64} {vs : List (Vector DWord 96)}
    (hwait : c.maskWait = .ok ()) (hE : c.g.exec f.g1 f.g2 = E) (ha : f.a = .frame n) (hb : f.b = .age a)
    (hnames : c.checkNames E [(f.a, f.imm.toNat), (f.b, f.imm.toNat)] = .ok ())
    (hfree : ∀ i < f.imm.toNat, c.framePending E (n.val + i) = .ok ())
    (hread : ((List.range f.imm.toNat).mapM fun i => c.readLanes E fun l =>
      ((c.g.lane l).act.age c.g.coilD (a.val + f.imm.toNat - i)).opnd) = .ok vs) :
    savemBody f c = .ok (c.g.modLanes E fun l ln =>
      { ln with act := (List.range f.imm.toNat).foldl (fun act i =>
          act.setFr (n.val + i) (.word (lowWord (vs.getD i (Vector.replicate 96 0))[l]))) ln.act }) := by
  subst hE
  obtain ⟨free, hfree⟩ := mapM_range_ok fun i hi => ⟨(), hfree i hi⟩
  rw [ha, hb] at hnames
  simp only [savemBody, hwait, ha, hb, hnames, ok_bind, hfree, hread, pure_eq_ok]

theorem frameBody_ok {f : VOps} {c : Ctx} {E : LaneMask} {v : DWord}
    (hmask : c.maskReady = .ok ()) (hE : c.g.exec f.g1 f.g2 = E) (hne : E ≠ 0)
    (hv : c.need E (c.vsrc 0 f.ty f.imm false f.a 0) = .ok v) (hmax : (lowWord v).toNat ≤ 704)
    (hslots : c.g.rets = [] → (lowWord v).toNat ≤ c.g.fslots)
    (hcap : c.g.base + c.g.coilD + (lowWord v).toNat ≤ c.g.cap) :
    frameBody f c = .ok (c.g.sizeFrame (lowWord v).toNat) := by
  subst hE
  have hslots' : (c.g.rets.isEmpty && decide (c.g.fslots < (lowWord v).toNat)) = false := by
    cases hr : c.g.rets with
    | nil => simpa using hslots hr
    | cons => rfl
  simp only [frameBody, hmask, if_neg hne, hv, ok_bind, if_neg (Nat.not_lt.mpr hmax), hslots', Bool.false_eq_true,
    if_false, if_neg (Nat.not_lt.mpr hcap), pure_eq_ok]

/-- No lane of a set fails a check, so there is no lane to blame. -/
theorem firstLane_lanesWhere_none {E : LaneMask} {p : Fin 96 → Bool} (h : ∀ l : Fin 96, inMask E l.val = true → p l = false) :
    firstLane (lanesWhere E p) = none := by
  refine List.find?_eq_none.mpr fun l _ => ?_
  rw [lanesWhere, Sys2Proof.inMask_maskOf l.isLt, dif_pos l.isLt]
  cases hl : inMask E l.val with
  | false => simp
  | true => simp [h l hl]

/-- Settles O4: each instruction by its body. -/
theorem operandClassComplete : Obligations.OperandClassComplete := by
  unfold Obligations.OperandClassComplete
  refine ⟨⟨?_, ?_, ?_, ?_, ?_⟩, ?_⟩
  · intro f s c E pc a b t n hissue ha hsources hfree
    have body := saveBody_ok hissue.maskWait hissue.exec ha hsources hfree
    exact instr_setGroup (body := fun c s => saveBody f (s.wgidOf c) c) hissue body
  · intro f s c E pc n a vs hissue ha hb hnames hfree hread
    exact instr_goesAs hissue (savemBody_ok hissue.maskWait hissue.exec ha hb hnames hfree hread)
  · intro f s c E pc v hissue hne hv hmax hslots hcap
    exact instr_goesAs hissue (frameBody_ok hissue.mask hissue.exec hne hv hmax hslots hcap)
  · intro f s c E pc hissue
    refine instr_goesAs hissue ?_
    simp only [plopBody, hissue.mask, hissue.exec, ok_bind, pure_eq_ok]
  · intro f s c E pc hissue
    refine instr_goesAs hissue ?_
    simp only [p2vBody, hissue.mask, hissue.exec, ok_bind, pure_eq_ok]
  · intro f s c E pc b dp mem arr by' sd mk rest vs d hissue hslot hrjt hcompl hstack hd hm hchk hread
    generalize hmk : d / 2 ^ 125 = m at hm hchk hread ⊢
    have hbad : firstLane (lanesWhere E fun l =>
        (rjCheck c.g.coilD d m (c.g.lane l).act (nget 0 sd l.val) (nget 0 mk l.val)).isSome) = none :=
      firstLane_lanesWhere_none fun l hl => by rw [hchk l hl]; rfl
    show execRjn f s = _
    refine instr_storesGroup hissue ?_
    simp only [hissue.maskWait, hissue.exec, hissue.maskSound, hslot, hrjt, hcompl, hstack, ← hd, hmk, hbad, hread,
      Nat.not_lt.mpr hm, ok_bind, pure_eq_ok, ne_eq, not_true_eq_false, Bool.not_true, Bool.false_eq_true, or_self,
      if_false, if_true, List.head?_cons, Group.modLanes_stack, List.tail_cons]

end Sys2Proof.Machine

/-! # A fault that is delivered holds no access

A precise fault ends the instruction: its group enters its handler, waits to enter it, or leaves (R402, R405). It is not
then held by a page fault of its own access, so the fault does not count as an issue (R478). -/

namespace Sys2Proof.Machine

/-! ## Groups under changes of other state -/

theorem group?_modGroup_map (s : State) (c n : Nat) (f : Group → Group) :
    (s.modGroup c n f).group? c n = (s.group? c n).map f := by
  cases hg : s.group? c n with
  | none => simp [State.modGroup, hg]
  | some g => rw [State.group?_modGroup_self hg]; rfl

theorem Keeps.of_group? {α : Type} (f : Group → α) {s t : State} (h : ∀ d m, t.group? d m = s.group? d m) : Keeps f s t :=
  fun d m => by rw [h d m]

theorem Keeps.setWg {α : Type} (f : Group → α) (s : State) (c w : Nat) (v : Workgroup) : Keeps f s (s.setWg c w v) :=
  Keeps.modCore f s c (g := fun k => { k with wgs := nins k.wgs w v }) fun _ => rfl

theorem Keeps.modWg {α : Type} (f : Group → α) (s : State) (c w : Nat) (h : Workgroup → Workgroup) :
    Keeps f s (s.modWg c w h) := by
  unfold State.modWg
  split
  · exact Keeps.setWg f s c w _
  · exact .refl f s

theorem Keeps.foldl {α β : Type} (f : Group → α) {step : State → β → State} (h : ∀ s b, Keeps f s (step s b)) (l : List β)
    (s : State) : Keeps f s (l.foldl step s) := by
  induction l generalizing s with
  | nil => exact .refl f s
  | cons b l ih => exact (h s b).trans (ih _)

theorem Keeps.dropBaton {α : Type} (f : Group → α) (s : State) (c n : Nat) : Keeps f s (s.dropBaton c n) :=
  Keeps.modCore f s c fun k => by split <;> rfl

theorem Keeps.leaveEngine {α : Type} (f : Group → α) (s : State) (c n : Nat) : Keeps f s (s.leaveEngine c n) :=
  (Keeps.dropBaton f s c n).trans (Keeps.modCore f _ c fun _ => rfl)

theorem Keeps.resetProgress {α : Type} {f : Group → α} (hf : ∀ g : Group, f { g with progress := 0 } = f g) (s : State)
    (gs : List (Nat × Nat)) : Keeps f s (s.resetProgress gs) := by
  unfold State.resetProgress
  refine Keeps.foldl f (fun s p => ?_) gs s
  exact Keeps.modGroup f s p.1 p.2 (h := fun g => { g with progress := 0 }) hf

theorem Keeps.settleBar {α : Type} {f : Group → α} (hf : ∀ g : Group, f { g with progress := 0 } = f g) (s : State)
    (c w b : Nat) : Keeps f s (s.settleBar c w b) := by
  unfold State.settleBar
  split
  · exact .refl f s
  · dsimp only
    split
    · exact .refl f s
    · exact (Keeps.setWg f s c w _).trans (Keeps.resetProgress hf _ _)

theorem Keeps.settleBarc {α : Type} {f : Group → α} (hf : ∀ g : Group, f { g with progress := 0 } = f g) (s : State)
    (c w b : Nat) : Keeps f s (s.settleBarc c w b) := by
  unfold State.settleBarc
  split
  · exact .refl f s
  · split
    · exact .refl f s
    · dsimp only
      split
      · exact .refl f s
      · exact Keeps.trans (.of_group? f fun _ _ => rfl) (Keeps.resetProgress hf _ _)

theorem Keeps.leaveBarriers {α : Type} {f : Group → α} (hf : ∀ g : Group, f { g with progress := 0 } = f g) (s : State)
    (c n w : Nat) : Keeps f s (s.leaveBarriers c n w) := by
  unfold State.leaveBarriers
  refine Keeps.trans ?_ (Keeps.foldl f (fun s b => Keeps.settleBarc hf s c w b) _ _)
  refine Keeps.trans ?_ (Keeps.foldl f (fun s b => Keeps.settleBar hf s c w b) _ _)
  dsimp only
  split
  · exact Keeps.modWg f s c w _
  · split
    · exact Keeps.modWg f s c w _
    · exact (Keeps.modWg f s c w _).trans (.of_group? f fun _ _ => rfl)

/-! ## What a group waits for once a fault has been delivered to it -/

/-- The group at a slot, if there is one, is not held by a page fault of its own access. -/
def NotHeld (s : State) (c n : Nat) : Prop := ∀ g, s.group? c n = some g → g.resume ≠ .replay

theorem NotHeld.of_keeps {s t : State} {c n : Nat} (h : NotHeld s c n) (k : Keeps (·.resume) s t) : NotHeld t c n := by
  intro g hg e
  have := k c n
  rw [hg] at this
  obtain ⟨h', hs, he⟩ := Option.map_eq_some_iff.mp this.symm
  exact h h' hs (he.trans e)

/-- A change that gives the group another way to resume. -/
theorem NotHeld.modGroup (s : State) (c n : Nat) {f : Group → Group} (hf : ∀ g, (f g).resume ≠ .replay) :
    NotHeld (s.modGroup c n f) c n := by
  intro g hg
  rw [group?_modGroup_map] at hg
  obtain ⟨h, -, rfl⟩ := Option.map_eq_some_iff.mp hg
  exact hf h

theorem beginLeave_notHeld (s : State) (c n : Nat) : NotHeld (s.beginLeave c n) c n := by
  unfold State.beginLeave
  have left := (NotHeld.modGroup s c n (f := fun g =>
    { g with t0 := g.t0.implicit, t1 := g.t1.implicit, gstate := .retiring, wait := { kind := 3 }, waitDone := false,
             waitPC := g.pc.word, resume := .retire, dstop := false, dstep := false }) fun _ => nofun).of_keeps
      (Keeps.leaveEngine _ _ c n)
  dsimp only
  split
  · exact left.of_keeps (Keeps.leaveBarriers (fun _ => rfl) _ _ _ _)
  · exact left

theorem terminate_notHeld (s : State) (c n : Nat) (r : FaultRec) : NotHeld (s.terminate c n r) c n := by
  unfold State.terminate
  split
  · next hg => intro g h; rw [hg] at h; cases h
  · exact beginLeave_notHeld _ c n

theorem NotHeld.cond {p : Prop} [Decidable p] {s t : State} {c n : Nat} (hs : NotHeld s c n) (ht : NotHeld t c n) :
    NotHeld (if p then s else t) c n := by
  split
  · exact hs
  · exact ht

theorem deliver_notHeld (s : State) (c n : Nat) (r : FaultRec) (pc : PC) : NotHeld (s.deliver c n r pc) c n := by
  unfold State.deliver
  split
  · next hg =>
    rw [group?_modGroup_map, Option.map_eq_none_iff] at hg
    intro g h; rw [hg] at h; cases h
  · dsimp only
    have ends (t : State) (r : FaultRec) : NotHeld (t.terminate c n r) c n := terminate_notHeld t c n r
    refine .cond (.cond (ends _ _) (ends _ _)) (.cond (ends _ _) (.cond (ends _ _) ?_))
    split
    · exact NotHeld.modGroup _ c n fun _ => nofun
    · exact ends _ _
    · exact NotHeld.modGroup _ c n fun _ => nofun
    · exact .cond (ends _ _) (.cond (ends _ _) (NotHeld.modGroup _ c n fun _ => nofun))

theorem resume_blind : Blind (fun g : Group => g.resume) where
  floor _ _ := rfl
  rejoin _ _ := rfl
  stop _ _ _ := rfl

theorem precise_notHeld (s : State) (c : Ctx) (code sub : Nat) (a : DWord) (E : LaneMask) :
    NotHeld (s.precise c code sub a E) c.core c.slot :=
  (deliver_notHeld _ _ _ _ _).of_keeps (Keeps.stepDone resume_blind _ _ _)

/-- A group that no access of its own holds has not issued. -/
theorem NotHeld.heldIssue_eq {s : State} {c : Ctx} (h : NotHeld s c.core c.slot) (i : Form) : s.heldIssue c i = s :=
  State.heldIssue_eq h

@[simp] theorem heldIssue_precise (s : State) (c : Ctx) (code sub : Nat) (a : DWord) (E : LaneMask) (i : Form) :
    (s.precise c code sub a E).heldIssue c i = s.precise c code sub a E := (precise_notHeld s c code sub a E).heldIssue_eq i

@[simp] theorem heldIssue_preciseOpen (s : State) (c : Ctx) (code sub : Nat) (E : LaneMask) (i : Form) :
    (s.preciseOpen c code sub E).heldIssue c i = s.preciseOpen c code sub E := heldIssue_precise _ _ _ _ _ _ i

/-! ## Instructions that fault -/

theorem instr_fault {i : Form} {body : Ctx → State → Except Trap State} {s : State} {c : Ctx} {code sub : Nat} {a : DWord}
    {E : LaneMask} (hs : s.sys.stopped = false) (hc : s.ctx? = some c) (hb : body c s = .error (.fault code sub a E)) :
    instr i body s = .next (s.precise c code sub a E) := by
  rw [instr_trap hs hc hb]; simp [State.trap]

theorem instr_faultOpen {i : Form} {body : Ctx → State → Except Trap State} {s : State} {c : Ctx} {code sub : Nat}
    {E : LaneMask} (hs : s.sys.stopped = false) (hc : s.ctx? = some c) (hb : body c s = .error (.faultOpen code sub E)) :
    instr i body s = .next (s.preciseOpen c code sub E) := by
  rw [instr_trap hs hc hb]; simp [State.trap]

theorem jumpInstr_fault {i : Form} {body : Ctx → State → Except Trap State} {s : State} {c : Ctx} {code sub : Nat} {a : DWord}
    {E : LaneMask} (hs : s.sys.stopped = false) (hc : s.ctx? = some c) (hb : body c s = .error (.fault code sub a E)) :
    jumpInstr i body s = .next (s.precise c code sub a E) := by
  rw [jumpInstr_trap hs hc hb]; simp [State.trap]

theorem jumpInstr_faultOpen {i : Form} {body : Ctx → State → Except Trap State} {s : State} {c : Ctx} {code sub : Nat}
    {E : LaneMask} (hs : s.sys.stopped = false) (hc : s.ctx? = some c) (hb : body c s = .error (.faultOpen code sub E)) :
    jumpInstr i body s = .next (s.preciseOpen c code sub E) := by
  rw [jumpInstr_trap hs hc hb]; simp [State.trap]

end Sys2Proof.Machine

/-! # Branches (R202 to R205)

NOP goes on; BR goes where its condition says, if all lanes of E agree; JMPI lands on an entry bundle. Which lanes take a
branch is `lanesWhere`. -/

namespace Sys2Proof.Machine

/-! ## Lanes that satisfy a test -/

theorem inMask_lanesWhere (m : LaneMask) (p : Fin 96 → Bool) (l : Fin 96) :
    inMask (lanesWhere m p) l.val = (inMask m l.val && p l) := by
  rw [lanesWhere, Sys2Proof.inMask_maskOf l.isLt, dif_pos l.isLt]

/-- Two masks with the same lanes. -/
theorem laneMask_ext {m k : LaneMask} (h : ∀ l : Fin 96, inMask m l.val = inMask k l.val) : m = k :=
  BitVec.eq_of_getLsbD_eq fun i hi => h ⟨i, hi⟩

theorem inMask_zero (l : Nat) : inMask 0 l = false := by simp [inMask]

/-- No lane of the mask satisfies the test. -/
theorem lanesWhere_eq_zero {m : LaneMask} {p : Fin 96 → Bool} (h : ∀ l : Fin 96, inMask m l.val = true → p l = false) :
    lanesWhere m p = 0 :=
  laneMask_ext fun l => by
    rw [inMask_lanesWhere, inMask_zero]
    cases hl : inMask m l.val with
    | false => rfl
    | true => exact h l hl

/-- Every lane of the mask satisfies it. -/
theorem lanesWhere_eq_self {m : LaneMask} {p : Fin 96 → Bool} (h : ∀ l : Fin 96, inMask m l.val = true → p l = true) :
    lanesWhere m p = m :=
  laneMask_ext fun l => by
    rw [inMask_lanesWhere]
    cases hl : inMask m l.val with
    | false => rfl
    | true => exact h l hl

/-! ## Where a jump lands -/

theorem target_ok {E : LaneMask} {a : DWord} (h : a.extractLsb' 56 8 = 0) : Ctx.target E a = .ok () := if_pos h

theorem landing_ok {c : Ctx} {s u : State} {E : LaneMask} {a : DWord} {ws : List DWord} (ha : a.extractLsb' 56 8 = 0)
    (halign : a.toNat % 64 = 0) (hf : s.fetchBundle c.core c.g a = .words ws u) (hentry : hdrEntry (ws.headD 0) = true) :
    c.landing s E a = .ok u := by
  simp only [Ctx.landing, target_ok ha, halign, hf, hentry, ok_bind, ne_eq, not_true_eq_false, if_false, if_true]

/-! ## The branches -/

/-- A jump whose guards admit no lane goes on at the next slot (R64): its body begins with the test of E. -/
theorem jumpInstr_skip {i : Form} {body : Ctx → State → Except Trap State} {s : State} {c : Ctx} {g1 g2 : Guard}
    {E : LaneMask} {pc : PC} (h : Issues s c g1 g2 E pc) (hb : body c s = c.step s c.g) :
    jumpInstr i body s =
      .next ((s.setGroup c.core c.slot { c.g with pc := pc, completing := false }).issued c i) :=
  jumpInstr_goes h (by rw [hb, h.step])

/-- Settles O5. -/
theorem branchesComplete : Obligations.BranchesComplete := by
  unfold Obligations.BranchesComplete
  refine ⟨⟨?_, ?_, ?_, ?_⟩, ?_, ?_⟩
  · intro f s c E pc hissue
    show execNop f s = _
    exact instr_goesAs (body := fun c => .ok c.g) hissue rfl
  · intro f s c E pc hissue hne hfalse
    show execBr f s = _
    refine jumpInstr_skip hissue ?_
    have hne' : ¬ E = 0#96 := hne
    simp [hissue.mask, hissue.exec, hne', lanesWhere_eq_zero hfalse]
  · intro f s c E pc hissue hne htrue htarget
    show execBr f s = _
    refine jumpInstr_goes hissue ?_
    have hne' : ¬ E = 0#96 := hne
    simp [hissue.mask, hissue.exec, hne', lanesWhere_eq_self htrue, target_ok htarget]
  · intro f s c E pc a ws u hissue hne ha htarget halign hfetch hentry
    show execJmpi f s = _
    refine jumpInstr_goes hissue ?_
    have hne' : ¬ E = 0#96 := hne
    simp [hissue.mask, hissue.exec, hne', ha, landing_ok htarget halign hfetch hentry]
  · intro f s c E T pc hissue hT hT0 hTE
    show execBr f s = _
    refine jumpInstr_faultOpen hissue.running hissue.group ?_
    have hE0 : ¬ E = 0#96 := by
      rintro rfl
      exact hT0 (hT.trans (lanesWhere_eq_zero fun l hl => by simp [inMask] at hl))
    have hT0' : ¬ T = 0#96 := hT0
    simp [hissue.mask, hissue.exec, hE0, ← hT, hT0', hTE, raiseOpen, fcUniform]
  · intro s c pc
    refine ⟨fun f hissue => ?_, fun f hissue => ?_⟩
    · simp only [List.forall_mem_cons]
      refine ⟨?_, ?_, ?_, ?_, ?_, ?_, fun _ h => nomatch h⟩
      · show execBr f s = _
        exact jumpInstr_skip hissue (by simp [hissue.mask, hissue.exec])
      · show execBrc f s = _
        exact jumpInstr_skip hissue (by simp [hissue.mask, hissue.exec])
      · show execBrk f s = _
        exact jumpInstr_skip hissue (by simp [hissue.mask, hissue.exec])
      · show execYldp f s = _
        refine jumpInstr_skip hissue ?_
        simp only [hissue.mask, hissue.exec, ok_bind]
        split <;> simp
      · show execExit f s = _
        exact jumpInstr_skip hissue (by simp [hissue.mask, hissue.exec])
      · show execCall f s = _
        exact jumpInstr_skip hissue (by simp [hissue.mask, hissue.exec])
    · simp only [List.forall_mem_cons]
      refine ⟨?_, ?_, fun _ h => nomatch h⟩
      · show execJmpi f s = _
        exact jumpInstr_skip hissue (by simp [hissue.mask, hissue.exec])
      · show execCalli f s = _
        exact jumpInstr_skip hissue (by simp [hissue.mask, hissue.exec])

end Sys2Proof.Machine

/-! # The divergent branch (R204)

BRC makes an entry for its reconvergence point, or refreshes the one that stands, and divides the lanes of E. The taken
lanes run where there are any; the others are a pending path, one of their own or merged with one at the same place. -/

namespace Sys2Proof.Machine

/-! ## Masks and entries -/

theorem lowWord_setWidth (w : Word) : (w.setWidth 64 : DWord).setWidth 32 = w := by
  ext i hi; simp

theorem sreg_setS_self (g : Group) {n : Nat} (v : DWord) (h : n < 64) : (g.setS n v).sreg n = v := by
  simp [Group.setS, Group.sreg, h]

theorem sreg_setS_ne (g : Group) {n k : Nat} (v : DWord) (h : k ≠ n) : (g.setS n v).sreg k = g.sreg k := by
  unfold Group.setS Group.sreg
  split
  · split
    · simp [Ne.symm h]
    · rfl
  · rfl

/-- The mask words hold the mask that was stored in them. -/
theorem mask_setMask (g : Group) (m : LaneMask) : (g.setMask m).mask = m := by
  have words : (g.setMask m).mask = joinMask (maskWord m 0) (maskWord m 1) (maskWord m 2) := by
    simp only [Group.setMask, Group.mask, sreg_setS_self, sreg_setS_ne, ne_eq, Nat.reduceEqDiff, not_false_eq_true,
      Nat.reduceLT, lowWord_setWidth]
  rw [words]
  refine laneMask_ext fun l => ?_
  have hl := l.isLt
  have hq : l.val / 32 = 0 ∨ l.val / 32 = 1 ∨ l.val / 32 = 2 := by omega
  have hword : (if l.val / 32 = 0 then maskWord m 0 else if l.val / 32 = 1 then maskWord m 1 else maskWord m 2) =
      maskWord m (l.val / 32) := by
    obtain h | h | h := hq <;> simp [h]
  rw [inMask_joinMask _ _ _ hl, hword, Sys2Proof.getLsbD_maskWord m _ (Nat.mod_lt _ (by decide)), Nat.div_add_mod]

/-- The lanes of E that are not taken, where every lane of E is, or none. -/
theorem and_not_lanesWhere_eq_zero {E : LaneMask} {p : Fin 96 → Bool} :
    E &&& ~~~(lanesWhere E p) = 0 ↔ lanesWhere E p = E := by
  have lane : ∀ l : Fin 96, inMask (E &&& ~~~(lanesWhere E p)) l.val = (inMask E l.val && !p l) := fun l => by
    have := inMask_lanesWhere E p l
    simp only [inMask] at this ⊢
    simp only [BitVec.getLsbD_and, BitVec.getLsbD_not, l.isLt, decide_true, Bool.true_and, this]
    cases E.getLsbD l.val <;> simp
  constructor
  · intro h
    refine lanesWhere_eq_self fun l hl => ?_
    have := lane l
    rw [h, inMask_zero, hl] at this
    simpa using this
  · intro h
    refine laneMask_ext fun l => ?_
    have := inMask_lanesWhere E p l
    rw [lane, inMask_zero]
    rw [h] at this
    cases hl : inMask E l.val <;> simp_all

/-- A pending path found above a position: it stands there, and below that position. -/
theorem pndAt_some {g : Group} {i j : Nat} {pc : PC} (h : g.pndAt i pc = some j) :
    j < i ∧ ∃ m k, g.stack[j]? = some (.pnd pc g.depth m k) := by
  unfold Group.pndAt at h
  obtain ⟨hj, hp, -⟩ := List.findIdx?_eq_some_iff_getElem.mp h
  rw [List.length_take, Nat.lt_min] at hj
  obtain ⟨hji, hjs⟩ := hj
  refine ⟨hji, ?_⟩
  rw [List.getElem_take] at hp
  rw [List.getElem?_eq_getElem hjs]
  split at hp
  · next p d m k he =>
    simp only [Bool.and_eq_true, beq_iff_eq] at hp
    exact ⟨m, k, by rw [he, hp.1, hp.2]⟩
  · exact absurd hp (by simp)

/-- Refreshing an entry leaves the entries above it. -/
theorem refresh_getElem?_ne (g : Group) {i j : Nat} (E T : LaneMask) (h : i ≠ j) :
    (g.refresh i E T).stack[j]? = g.stack[j]? := by
  simp [Group.refresh, Group.modEntry, h]

theorem jumpInstr_goes_exists {i : Form} {body : Ctx → State → Except Trap State} {s : State} {c : Ctx} {g1 g2 : Guard}
    {E : LaneMask} {pc : PC} {P : Group → Prop} (h : Issues s c g1 g2 E pc)
    (hb : ∃ g, body c s = .ok (s.setGroup c.core c.slot g) ∧ P g) :
    ∃ g, jumpInstr i body s = .next ((s.setGroup c.core c.slot g).issued c i) ∧ P g := by
  obtain ⟨g, hb, hP⟩ := hb
  exact ⟨g, jumpInstr_goes h hb, hP⟩

theorem refresh_lanes (g : Group) (i : Nat) (E T : LaneMask) : (g.refresh i E T).lanes = g.lanes := rfl

theorem setMask_pc (g : Group) (m : LaneMask) : (g.setMask m).pc = g.pc := by
  simp only [Group.setMask, Group.setS]; repeat' split <;> rfl

theorem setMask_lanes (g : Group) (m : LaneMask) : (g.setMask m).lanes = g.lanes := by
  simp only [Group.setMask, Group.setS]; repeat' split <;> rfl

theorem setMask_stack (g : Group) (m : LaneMask) : (g.setMask m).stack = g.stack := by
  simp only [Group.setMask, Group.setS]; repeat' split <;> rfl

theorem or_and_left_self (a b : LaneMask) : (a ||| b) &&& a = a := laneMask_ext fun l => by
  simp only [inMask, BitVec.getLsbD_and, BitVec.getLsbD_or]
  cases a.getLsbD l.val <;> simp

theorem oneOrNone_le_two (p q : Prop) [Decidable p] [Decidable q] :
    (if p then 0 else 1) + (if q then 1 else 0) ≤ 2 := by split <;> split <;> omega

/-- Settles O6. -/
theorem divergentBranchCompletes : Obligations.DivergentBranchCompletes := by
  unfold Obligations.DivergentBranchCompletes
  intro f s c E T pc hissue hne hT hroom htarget
  have room : ∀ n ≤ 2, ¬ 32 < c.g.stack.length + n := fun n hn => by omega
  show ∃ g, execBrc f s = _ ∧ _
  refine jumpInstr_goes_exists hissue ?_
  have hN : (E &&& ~~~T = 0) ↔ T = E := by rw [hT]; exact and_not_lanesWhere_eq_zero
  generalize he : (if c.g.innerBundle = some (branchTo c.g.pc.bundle f.disp2) then c.g.inner else none) = e
  simp only [hissue.mask, hissue.exec, hne, ← hT, he, hissue.next, hissue.nextPc, ok_bind, pure_eq_ok, if_false]
  rw [if_neg (room _ (oneOrNone_le_two _ _))]
  by_cases hT0 : T = 0
  · have hNE : E &&& ~~~(0 : LaneMask) = E := (congrArg (E &&& ·) BitVec.not_zero).trans BitVec.and_allOnes
    simp only [hT0, if_true, ne_eq, not_true, false_implies, true_and, and_true, true_implies, hNE]
    obtain _ | i := e
    · refine ⟨_, rfl, ?_⟩; exact ⟨setMask_lanes _ _, setMask_pc _ _, by rw [mask_setMask, BitVec.and_self]⟩
    · dsimp only
      cases c.g.pndAt i pc with
      | none => refine ⟨_, rfl, ?_⟩; exact ⟨setMask_lanes _ _, setMask_pc _ _, by rw [mask_setMask, BitVec.and_self]⟩
      | some j => refine ⟨_, rfl, ?_⟩; exact ⟨setMask_lanes _ _, setMask_pc _ _, by rw [mask_setMask, or_and_left_self]⟩
  · simp only [hT0, if_false, target_ok htarget, ok_bind, ne_eq, not_false_eq_true, true_implies, false_implies, true_and, hN]
    by_cases hTE : T = E
    · simp only [hTE, if_true, not_true, false_implies, and_true]
      obtain _ | i := e <;> exact ⟨_, rfl, setMask_lanes _ _, ⟨setMask_pc _ _, mask_setMask _ _⟩⟩
    · simp only [hTE, if_false, not_false_eq_true, true_implies]
      obtain _ | i := e
      · exact ⟨_, rfl, setMask_lanes _ _, ⟨setMask_pc _ _, mask_setMask _ _⟩, _, _, by
          rw [setMask_stack]; exact List.mem_cons_self, BitVec.and_self⟩
      · dsimp only
        cases hj : c.g.pndAt i pc with
        | none =>
          exact ⟨_, rfl, setMask_lanes _ _, ⟨setMask_pc _ _, mask_setMask _ _⟩, _, _, by
            rw [setMask_stack]; exact List.mem_cons_self, BitVec.and_self⟩
        | some j =>
          obtain ⟨hji, m, k, hmk⟩ := pndAt_some hj
          refine ⟨_, rfl, setMask_lanes _ _, ⟨setMask_pc _ _, mask_setMask _ _⟩, m ||| (E &&& ~~~T), k ||| (E &&& ~~~T), ?_, ?_⟩
          · rw [setMask_stack]
            refine List.mem_of_getElem? (i := j) ?_
            have := refresh_getElem?_ne c.g E T (Nat.ne_of_gt hji)
            simp only [Group.modEntry, List.getElem?_modify, this, hmk, if_true]
            rfl
          · rw [BitVec.or_comm, or_and_left_self]
end Sys2Proof.Machine

/-! # Where paths end and yield (R206 to R208)

BRK sends the lanes of E to the innermost entry, YLDP exchanges the path with the topmost sibling, and EXIT takes the
lanes of E out of the group. -/

namespace Sys2Proof.Machine

theorem setMask_members (g : Group) (m : LaneMask) : (g.setMask m).members = g.members := by
  simp only [Group.setMask, Group.setS]; repeat' split <;> rfl

theorem modEntry_mask (g : Group) (i : Nat) (f : Entry → Entry) : (g.modEntry i f).mask = g.mask := rfl
theorem modEntry_members (g : Group) (i : Nat) (f : Entry → Entry) : (g.modEntry i f).members = g.members := rfl

/-- Outside a handler, EXIT is allowed. -/
theorem notInHandler_ok {c : Ctx} {E : LaneMask} {w : DWord} (h : c.g.csr.inHandler = false) : c.notInHandler E w = .ok () := by
  simp [Ctx.notInHandler, h]

/-- With no new flag and no new engine error, nothing is reported (R240). -/
theorem arith_none {c : Ctx} {E : LaneMask} {s : State} (hf : c.g.newFlagsOr E = 0) (he : c.g.newEngine = 0) :
    c.arith E s = none := if_pos ⟨hf, he⟩

/-- Settles O7. -/
theorem pathsEndAndYield : Obligations.PathsEndAndYield := by
  unfold Obligations.PathsEndAndYield
  refine ⟨?_, ⟨?_, ?_⟩, ?_⟩
  · intro f s c E pc i g hissue hne hinner hg
    show execBrk f s = _
    refine jumpInstr_goes hissue ?_
    simp only [hissue.mask, hissue.exec, hinner, hne, ok_bind, if_false, pure_eq_ok, hissue.step, modEntry_mask,
      modEntry_members]
    rw [hg]
    split <;> rfl
  · intro f s c E pc hissue htop
    show execYldp f s = _
    refine jumpInstr_skip hissue ?_
    simp [hissue.mask, hissue.exec, htop]
  · intro f s c E pc p d m k rest hissue hne hstack htop hd
    show execYldp f s = _
    refine jumpInstr_goes hissue ?_
    obtain ⟨n, hn⟩ : ∃ n, c.g.siblingTop = n + 1 := ⟨_, (Nat.succ_pred_eq_of_pos htop).symm⟩
    have hsib : (c.g.inner.isSome || d == c.g.depth) = true := by
      obtain h | h := hd <;> simp [h]
    simp only [hissue.mask, hissue.exec, ok_bind, hn, hstack, List.take_succ_cons, List.findIdx?_cons, hsib, if_true,
      hne, if_false, hissue.nextPc, List.getElem?_cons_zero, List.drop_succ_cons, List.eraseIdx_cons_zero,
      Nat.add_sub_cancel, pure_eq_ok]
  · intro f s c E pc hissue hne hhandler hflags hnew hengine
    show execExit f s = _
    refine jumpInstr_goes hissue ?_
    simp only [hissue.mask, hissue.exec, hne, ok_bind, if_false, notInHandler_ok hhandler, hflags, arith_none hnew hengine,
      hissue.step, pure_eq_ok]
    split <;> rfl
end Sys2Proof.Machine

/-! # Bodies that end in a state of their own

A body may answer the state that an instruction leaves when it parks or faults more than its own group. It then counts
as issued only where its own access holds it (R478). -/

namespace Sys2Proof.Machine

theorem resume_issueBlind : IssueBlind (fun g : Group => g.resume) where
  toBlind := resume_blind
  asks _ _ := rfl
  goes _ _ _ := rfl
  ends _ := rfl

theorem stamp_resume (g : Group) (old : Fin 96 → BitVec 32) : (g.stamp old).resume = g.resume := by
  unfold Group.stamp
  dsimp only
  generalize laneList.foldl (fun m l => max m ((g.lane l).act.P - old l).toNat) 0 = d
  split <;> rfl

theorem stampFrom_resume (g x : Group) (i : Form) : (g.stampFrom x i).resume = g.resume := by
  unfold Group.stampFrom; split
  · rfl
  · split
    · exact stamp_resume g _
    · rfl

/-- The accounting of an issue leaves what the group waits for. -/
theorem NotHeld.issued {s : State} {c : Ctx} (h : NotHeld s c.core c.slot) (i : Form) :
    NotHeld (s.issued c i) c.core c.slot :=
  h.of_keeps (Keeps.issued resume_issueBlind s c i fun g x _ => stampFrom_resume g x i)

/-- An instruction whose body ends in a state in which no access of its own holds its group. -/
theorem instr_out {i : Form} {body : Ctx → State → Except Trap State} {s u : State} {c : Ctx}
    (hs : s.sys.stopped = false) (hc : s.ctx? = some c) (hb : body c s = .error (.out u)) (hu : NotHeld u c.core c.slot) :
    instr i body s = .next u := by
  rw [instr_trap hs hc hb]
  exact congrArg Host.Outcome.next (hu.heldIssue_eq i)

theorem jumpInstr_out {i : Form} {body : Ctx → State → Except Trap State} {s u : State} {c : Ctx}
    (hs : s.sys.stopped = false) (hc : s.ctx? = some c) (hb : body c s = .error (.out u)) (hu : NotHeld u c.core c.slot) :
    jumpInstr i body s = .next u := by
  rw [jumpInstr_trap hs hc hb]
  exact congrArg Host.Outcome.next (hu.heldIssue_eq i)

/-- An instruction that waits, for anything but its own access. -/
theorem instr_hold {i : Form} {body : Ctx → State → Except Trap State} {s : State} {c : Ctx} {w : WaitRec} {r : Resume}
    (hs : s.sys.stopped = false) (hc : s.ctx? = some c) (hb : body c s = .error (.hold w r)) (hr : r ≠ .replay) :
    instr i body s = .next (s.modGroup c.core c.slot fun g =>
      { g with wait := w, resume := r, waitPC := g.pc.word, waitDone := false }) := by
  rw [instr_trap hs hc hb]
  exact congrArg Host.Outcome.next ((NotHeld.modGroup s c.core c.slot fun _ => hr).heldIssue_eq i)

end Sys2Proof.Machine

/-! # Rendezvous (R268 to R270)

XSEND and XRECV meet the partner that waits at their slot, park at an empty one, and fault where the partner waits the
same way or with other lanes. -/

namespace Sys2Proof.Machine

/-- Parking at a slot is no wait for an access. -/
theorem waitSlot_notHeld (s : State) (c : Ctx) (i : Form) (n kind : Nat) (x : XSlot) {r : Resume} (hr : r ≠ .replay) :
    NotHeld (s.waitSlot c i n kind x r) c.core c.slot :=
  (NotHeld.modGroup _ c.core c.slot fun _ => hr).issued i

theorem quiet_ok {c : Ctx} (hs : c.g.sq = []) (hl : c.g.loads = []) : c.quiet = .ok () := by
  simp [Ctx.quiet, hs, hl]

/-- The state in which the two parties of a rendezvous have met: the slot is empty, and a partner that was to stop has. -/
def State.met (s : State) (c : Ctx) (n partner : Nat) (p : Group) : State :=
  (s.setXslot c.core c.g.wg n .empty).stopParked c.core partner p

section
variable {s : State} {c : Ctx} {n p : Nat} {h : Group} {E E' : LaneMask} {out : Bool} {pv : List Word}

theorem meet_send (hp : s.group? c.core p = some h) (hr : h.rendez n = some (out, E, pv)) (vs : List Word) :
    s.meet c n p E (some vs) = .ok ((s.met c n p h).goNextWith c.core p fun g => g.receive E vs) := by
  simp only [State.meet, hp, hr, ne_eq, not_true_eq_false, if_false]; rfl

theorem meet_recv (hp : s.group? c.core p = some h) (hr : h.rendez n = some (out, E, pv)) :
    s.meet c n p E none =
      .ok (((s.met c n p h).goNextWith c.core p id).modGroup c.core c.slot fun g => g.receive E pv) := by
  simp only [State.meet, hp, hr, ne_eq, not_true_eq_false, if_false]; rfl

/-- Parties with other executing sets fault both, the waiting one first. -/
theorem meet_fault {d : Ctx} (hp : s.group? c.core p = some h) (hr : h.rendez n = some (out, E', pv)) (hE : E' ≠ E)
    (hd : (s.met c n p h).ctxOf c.core p = some d) (vs : Option (List Word)) :
    s.meet c n p E vs = .error (.out (((s.met c n p h).precise d fcXchg 2 (BitVec.ofNat 64 (n + c.g.wgn * 2 ^ 8)) E').precise
      c fcXchg 2 (BitVec.ofNat 64 (n + h.wgn * 2 ^ 8)) E)) := by
  simp only [State.meet, hp, hr, ne_eq, hE, not_false_eq_true, if_true]
  rw [State.met] at hd
  rw [hd]; rfl

theorem rendez_recv {w : Nat} (hr : h.resume = .recv n E w) : h.rendez n = some (false, E, []) := by
  simp [Group.rendez, hr]

theorem rendez_send {vs : List Word} (hr : h.resume = .send n E vs) : h.rendez n = some (true, E, vs) := by
  simp [Group.rendez, hr]

end

/-- Settles O9. -/
theorem rendezvousCompletes : Obligations.RendezvousCompletes := by
  unfold Obligations.RendezvousCompletes
  refine ⟨⟨?_, ?_⟩, ?_, ?_⟩
  · intro f s c E pc a b t p h w hissue hhandler hpartner hsrc hsq hloads hslot hp hr
    show execXsend f s = _
    refine instr_goes hissue ?_
    simp only [hissue.maskWait, hissue.exec, hsrc, notInHandler_ok hhandler, hpartner, hissue.nextPc, hslot, quiet_ok hsq hloads,
      meet_send hp (rendez_recv hr), ok_bind, Bool.not_true, if_false, Bool.false_eq_true]
    rfl
  · intro f s c E pc p h vs hissue hhandler hpartner hslot hp hr
    show execXrecv f s = _
    refine instr_goes hissue ?_
    simp only [hissue.mask, hissue.exec, notInHandler_ok hhandler, hpartner, hissue.nextPc, hslot,
      meet_recv hp (rendez_send hr), ok_bind, Bool.not_true, if_false, Bool.false_eq_true]
    rfl
  · intro f s c E pc a b t hissue hhandler hpartner hsrc
    refine ⟨fun hslot hsq hloads => ?_, fun p hslot => ?_, fun p h E' w d hsq hloads hslot hp hr hE hd => ?_⟩
    · show execXsend f s = _
      refine instr_out hissue.running hissue.group ?_ (waitSlot_notHeld _ _ _ _ _ _ nofun)
      simp only [hissue.maskWait, hissue.exec, hsrc, notInHandler_ok hhandler, hpartner, hissue.nextPc, hslot, quiet_ok hsq hloads,
        ok_bind, Bool.not_true, if_false, Bool.false_eq_true]
    · show execXsend f s = _
      refine instr_fault hissue.running hissue.group ?_
      simp only [hissue.maskWait, hissue.exec, hsrc, notInHandler_ok hhandler, hpartner, hissue.nextPc, hslot,
        ok_bind, Bool.not_true, if_false, Bool.false_eq_true, raise]
    · show execXsend f s = _
      refine instr_out hissue.running hissue.group ?_ (precise_notHeld _ _ _ _ _ _)
      simp only [hissue.maskWait, hissue.exec, hsrc, notInHandler_ok hhandler, hpartner, hissue.nextPc, hslot, quiet_ok hsq hloads,
        meet_fault hp (rendez_recv hr) hE hd, ok_bind, Bool.not_true, if_false, Bool.false_eq_true]
      rfl
  · intro f s c E pc hissue hhandler hpartner
    refine ⟨fun hslot => ?_, fun p hslot => ?_, fun p h E' vs d hslot hp hr hE hd => ?_⟩
    · show execXrecv f s = _
      refine instr_out hissue.running hissue.group ?_ (waitSlot_notHeld _ _ _ _ _ _ nofun)
      simp only [hissue.mask, hissue.exec, notInHandler_ok hhandler, hpartner, hissue.nextPc, hslot,
        ok_bind, Bool.not_true, if_false, Bool.false_eq_true]
    · show execXrecv f s = _
      refine instr_fault hissue.running hissue.group ?_
      simp only [hissue.mask, hissue.exec, notInHandler_ok hhandler, hpartner, hissue.nextPc, hslot,
        ok_bind, Bool.not_true, if_false, Bool.false_eq_true, raise]
    · show execXrecv f s = _
      refine instr_out hissue.running hissue.group ?_ (precise_notHeld _ _ _ _ _ _)
      simp only [hissue.mask, hissue.exec, notInHandler_ok hhandler, hpartner, hissue.nextPc, hslot,
        meet_fault hp (rendez_send hr) hE hd, ok_bind, Bool.not_true, if_false, Bool.false_eq_true]
      rfl

end Sys2Proof.Machine

/-! # The checks of an access (R302)

The checks of all lanes are judged together: the lowest place in the order that fails in any lane decides. -/

namespace Sys2Proof.Machine

/-- The place of the first check that fails in any lane, or 100. -/
def firstRank (cs : List (Nat × DWord × Chk)) (r : Nat) : Nat := cs.foldl (fun r p => min r p.2.2.rank) r

theorem firstRank_append (cs ds : List (Nat × DWord × Chk)) (r : Nat) :
    firstRank (cs ++ ds) r = firstRank ds (firstRank cs r) := List.foldl_append

/-- Where no check has a lower place, the place stays. -/
theorem firstRank_eq_self {cs : List (Nat × DWord × Chk)} {r : Nat} (h : ∀ p ∈ cs, r ≤ p.2.2.rank) : firstRank cs r = r := by
  induction cs with
  | nil => rfl
  | cons p cs ih =>
    have hp : min r p.2.2.rank = r := Nat.min_eq_left (h p List.mem_cons_self)
    exact (congrArg (firstRank cs) hp).trans (ih fun q hq => h q (List.mem_cons_of_mem _ hq))

theorem le_firstRank {cs : List (Nat × DWord × Chk)} {r n : Nat} (hn : n ≤ r) (h : ∀ p ∈ cs, n ≤ p.2.2.rank) :
    n ≤ firstRank cs r := by
  induction cs generalizing r with
  | nil => exact hn
  | cons p cs ih =>
    exact ih (Nat.le_min.mpr ⟨hn, h p List.mem_cons_self⟩) fun q hq => h q (List.mem_cons_of_mem _ hq)

theorem firstRank_ok {cs : List (Nat × DWord × Chk)} (h : ∀ p ∈ cs, ∃ loc ty, p.2.2 = .ok loc ty) : firstRank cs 100 = 100 :=
  firstRank_eq_self fun p hp => by
    obtain ⟨loc, ty, e⟩ := h p hp
    simp [e, Chk.rank]

/-- A check that fails below every earlier one and not above a later one has the first place. -/
theorem firstRank_bad {pre post : List (Nat × DWord × Chk)} {l : Nat} {a : DWord} {r code sub : Nat} (hr : r < 6)
    (hpre : ∀ p ∈ pre, r < p.2.2.rank) (hpost : ∀ p ∈ post, r ≤ p.2.2.rank) :
    firstRank (pre ++ (l, a, .bad r code sub) :: post) 100 = r := by
  have hle : r ≤ firstRank pre 100 := le_firstRank (by omega) fun p hp => Nat.le_of_lt (hpre p hp)
  have hmin : min (firstRank pre 100) (Chk.bad r code sub).rank = r := Nat.min_eq_right hle
  rw [firstRank_append]
  exact (congrArg (firstRank post) hmin).trans (firstRank_eq_self hpost)

/-- Settles O10. -/
theorem accessChecksDecide : Obligations.AccessChecksDecide := by
  unfold Obligations.AccessChecksDecide
  refine ⟨fun s c write cs h => ?_, fun s c write pre post l a r code sub hr hpre hpost => ?_⟩
  · unfold State.judge
    have hrank := firstRank_ok h
    rw [firstRank] at hrank
    simp only [hrank]
    split
    · rfl
    · next p a k hp =>
      obtain ⟨loc, ty, rfl⟩ := h _ (List.mem_filter.mp (List.mem_of_mem_head? hp)).1
      rfl
  · unfold State.judge
    have hrank := firstRank_bad (l := l) (a := a) (code := code) (sub := sub) hr hpre hpost
    rw [firstRank] at hrank
    have hnone : pre.filter (fun p => p.2.2.rank == r) = [] := List.filter_eq_nil_iff.mpr fun p hp =>
      by simpa using Nat.ne_of_gt (hpre p hp)
    have hwalk : ¬ (6 ≤ r ∧ r < 100) := fun h => absurd h.1 (Nat.not_le.mpr hr)
    simp only [hrank, if_neg hwalk, List.filter_append, hnone, List.nil_append]
    rw [List.filter_cons_of_pos (by simp [Chk.rank])]
    simp only [List.head?_cons, State.failAt, if_neg (show ¬ 7 ≤ r by omega)]
    refine congrArg _ (congrArg _ (congrArg maskOf (funext fun x => ?_)))
    rw [← List.filter_cons_of_pos (p := fun p : Nat × DWord × Chk => p.2.2.rank == r) (by simp [Chk.rank]), List.any_filter]

end Sys2Proof.Machine

/-! # Loads (R234, R304, R307, R312)

Once the checks pass, a load's accesses issue, and each lane of E gets its value or the slot that its value will land
in. -/

namespace Sys2Proof.Machine

theorem noFlip_ok {s : State} {ls : List LaneAt} (h : ∀ p ∈ ls, s.flipping p.loc = false) : s.noFlip ls = .ok () := by
  unfold State.noFlip
  rw [if_neg]
  simpa using h

theorem not_anyBehindAtomic {g : Group} {ls : List LaneAt} {n : Nat} (h : ∀ p ∈ ls, g.behindAtomic p.loc n = false) :
    ¬ (ls.any fun p => g.behindAtomic p.loc n) = true := by
  simpa using h

/-- A body goes on with what a check answered. -/
theorem bind_of_ok {ε α β : Type} {x : Except ε α} {a : α} (h : x = .ok a) (f : α → Except ε β) : (x >>= f) = f a := by
  rw [h]
  rfl

/-- Settles O11. -/
theorem loadsComplete : Obligations.LoadsComplete := by
  unfold Obligations.LoadsComplete
  refine ⟨⟨?_, ?_, ?_⟩, ?_⟩
  · intro f s c E pc a pv ls r hissue ha hjudge hls hfree hpv hr
    show execLd f s = _
    refine instr_goes hissue ?_
    simp only [hissue.maskWait, hissue.exec, ha, hjudge, ← hls, noFlip_ok fun p hp => (hfree p hp).1,
      not_anyBehindAtomic fun p hp => (hfree p hp).2, ← hr, ok_bind, pure_eq_ok, if_false, Bool.false_eq_true]
    exact bind_of_ok hpv _
  · intro f s c E pc a ls r hissue ha hjudge hls hfree hr
    show execLdl f s = _
    refine instr_goes hissue ?_
    simp only [hissue.maskWait, hissue.exec, ha, hjudge, ← hls, noFlip_ok fun p hp => (hfree p hp).1,
      not_anyBehindAtomic fun p hp => (hfree p hp).2, ← hr, ok_bind, pure_eq_ok, if_false, Bool.false_eq_true]
  · intro f s c E pc a ls hissue ha hjudge hls
    show execSpres f s = _
    refine instr_goes hissue ?_
    simp only [hissue.maskWait, hissue.exec, ha, hjudge, ← hls, ok_bind, pure_eq_ok] <;> rfl
  · intro f s u c E pc b x y a loc ty size h via part hissue hne hsrc hfree hsize ha hcheck hflip hatomic hvia hh hpart hu
    have hflip' : s.noFlip [⟨0, loc, ty, a⟩] = .ok () := noFlip_ok (by simpa using hflip)
    refine ⟨fun hhand hloads v g hv hg => ?_, fun hwait => ?_⟩
    · show execSld f s = _
      refine instr_goes hissue ?_
      simp only [hissue.mask, hissue.exec, hne, hsrc, hfree, ← hsize, ← ha, hcheck, hflip', hatomic, ← hvia, ← hh, ← hpart, ← hu,
        ok_bind, pure_eq_ok, if_false, Bool.false_eq_true]
      simp only [hhand, hloads, hv, hg, List.isEmpty_nil, Bool.and_self, ok_bind, if_true]
      cases f.mod.getLsbD 2 <;> cases v <;> rfl
    · show execSld f s = _
      refine instr_goes hissue ?_
      have hnot : ¬ (h && c.g.loads.isEmpty) = true := by
        obtain h | h := hwait <;> simp [h]
      simp only [hissue.mask, hissue.exec, hne, hsrc, hfree, ← hsize, ← ha, hcheck, hflip', hatomic, ← hvia, ← hh, ← hpart, ← hu,
        hnot, ok_bind, pure_eq_ok, if_false, Bool.false_eq_true]
      rfl

end Sys2Proof.Machine

/-! # Stores (R234, R305 to R307)

A store whose checks pass and whose queue has room puts its elements there; lane-private bytes are written at once. -/

namespace Sys2Proof.Machine

theorem room_ok {g : Group} {n : Nat} (h : g.sq.length + n ≤ 32) : g.room n = .ok () :=
  if_neg (Nat.not_lt.mpr h)

/-- Settles O12. -/
theorem storesComplete : Obligations.StoresComplete := by
  unfold Obligations.StoresComplete
  refine ⟨?_, ?_, ?_⟩
  · intro f s c E pc a d ls bs g hissue ha hd hjudge hls hflip hbs hroom hpend hg
    show execSt f s = _
    refine instr_goes hissue ?_
    simp only [hissue.maskWait, hissue.exec, ha, hd, hjudge, ← hls, noFlip_ok hflip, ← hbs, room_ok hroom, ok_bind]
    split
    · next id h =>
      obtain ⟨l, hl, hs⟩ := List.exists_of_findSome?_eq_some h
      split at hs
      · next i part e => exact absurd e (hpend l hl i part)
      · cases hs
    · simp only [← hg, pure_eq_ok]
  · intro f s c E pc a d ls bs hissue ha hd hjudge hls hflip hbs hroom
    show execStl f s = _
    refine instr_goes hissue ?_
    simp only [hissue.maskWait, hissue.exec, ha, hd, hjudge, ← hls, noFlip_ok hflip, ← hbs, room_ok hroom, ok_bind, pure_eq_ok]
  · intro f s c E pc b d x loc ty size hissue hne hsrc hsize hcheck hflip hroom
    have hflip' : s.noFlip [⟨0, loc, ty, sAddr b f.imm size⟩] = .ok () := noFlip_ok (by simpa using hflip)
    show execSst f s = _
    refine instr_goes hissue ?_
    simp only [hissue.mask, hissue.exec, hne, hsrc, ← hsize, hcheck, hflip', room_ok (n := 1) hroom, ok_bind, pure_eq_ok, if_false]

end Sys2Proof.Machine

/-! # What the caches, the slots and the waits leave alone

The single copy (R281): HBM, the die scratchpads and the scratchpads of the workgroups. What the caches, the miss slots
and the marks on waiting groups do leaves it, and leaves of the groups all that a function f reads, where f reads none of
what they mark. -/

namespace Sys2Proof.Machine

/-- The same bytes everywhere, and the same workgroups. -/
structure SameBytes (s t : State) : Prop where
  mem : t.mem = s.mem
  dscr : t.dscr = s.dscr
  wgs : ∀ k n, t.wg? k n = s.wg? k n

theorem SameBytes.refl (s : State) : SameBytes s s := ⟨rfl, rfl, fun _ _ => rfl⟩

theorem SameBytes.trans {s t u : State} (h : SameBytes s t) (k : SameBytes t u) : SameBytes s u :=
  ⟨k.mem.trans h.mem, k.dscr.trans h.dscr, fun c n => (k.wgs c n).trans (h.wgs c n)⟩

/-! ## Changes to one core -/

theorem State.wg?_modCore {s : State} {c : Nat} {f : Core → Core} (hf : ∀ k, (f k).wgs = k.wgs) (d n : Nat) :
    (s.modCore c f).wg? d n = s.wg? d n := by
  unfold State.modCore State.wg?
  by_cases hc : d = c
  · subst hc
    by_cases hl : d < 64
    · rw [State.core_setCore_self hl, hf]
    · simp [State.setCore, hl]
  · rw [State.core_setCore_ne hc]

theorem SameBytes.modCore (s : State) (c : Nat) {f : Core → Core} (hf : ∀ k, (f k).wgs = k.wgs) :
    SameBytes s (s.modCore c f) := ⟨by simp, by simp, State.wg?_modCore hf⟩

theorem SameBytes.setGroup (s : State) (c n : Nat) (g : Group) : SameBytes s (s.setGroup c n g) :=
  SameBytes.modCore s c fun _ => rfl

theorem SameBytes.modGroup (s : State) (c n : Nat) (f : Group → Group) : SameBytes s (s.modGroup c n f) := by
  unfold State.modGroup
  split
  · exact SameBytes.setGroup s c n _
  · exact .refl s

theorem SameBytes.count (s : State) (c vf ev n : Nat) : SameBytes s (s.count c vf ev n) := by
  unfold State.count
  split
  · exact SameBytes.modCore s c fun _ => rfl
  · exact .refl s

theorem SameBytes.of_cores {s t : State} (hm : t.mem = s.mem) (hd : t.dscr = s.dscr) (hc : t.cores = s.cores) :
    SameBytes s t := ⟨hm, hd, fun k n => by simp [State.wg?, State.core, hc]⟩

theorem CacheOnly.sameBytes {s t : State} (h : CacheOnly s t) : SameBytes s t := .of_cores h.mem h.dscr h.cores

theorem SameBytes.foldl {β : Type} {step : State → β → State} (h : ∀ s b, SameBytes s (step s b)) (l : List β) (s : State) :
    SameBytes s (l.foldl step s) := by
  induction l generalizing s with
  | nil => exact .refl s
  | cons b l ih => exact (h s b).trans (ih _)

/-! ## Every group of another state -/

section
variable {α : Type} {f : Group → α}

theorem Keeps.of_cores (f : Group → α) {s t : State} (hc : t.cores = s.cores) : Keeps f s t :=
  .of_group? f fun d m => by simp [State.group?, State.core, hc]

theorem CacheOnly.keeps {s t : State} (h : CacheOnly s t) (f : Group → α) : Keeps f s t := .of_cores f h.cores

theorem Keeps.setCore (f : Group → α) (s : State) (c : Nat) {k : Core} (hk : k.groups = (s.core c).groups) :
    Keeps f s (s.setCore c k) := by
  refine .of_group? f fun d m => ?_
  unfold State.group?
  by_cases hc : d = c
  · subst hc
    by_cases hl : d < 64
    · rw [State.core_setCore_self hl, hk]
    · simp [State.setCore, hl]
  · rw [State.core_setCore_ne hc]

theorem nfind_map_snd {α β : Type} (m : NMap α) (f : α → β) (n : Nat) :
    nfind (m.map fun p => (p.1, f p.2)) n = (nfind m n).map f := by
  induction m with
  | nil => rfl
  | cons p m ih =>
    obtain ⟨k, v⟩ := p
    simp only [List.map_cons, nfind]
    split
    · rfl
    · exact ih

/-- Marking every group of every core. -/
def State.markGroups (s : State) (mark : Group → Group) : State :=
  { s with cores := s.cores.map fun (k : Core) => { k with groups := k.groups.map fun p => (p.1, mark p.2) } }

theorem group?_markGroups (s : State) (mark : Group → Group) (c n : Nat) :
    (s.markGroups mark).group? c n = (s.group? c n).map mark := by
  unfold State.group? State.core State.markGroups
  split
  · simp only [Vector.getElem_map]
    exact nfind_map_snd _ mark n
  · rfl

theorem noteWaits_eq (s : State) : s.noteWaits =
    (s.markGroups fun g => if s.memWaitHolds g.resume then { g with waitDone := true } else g).noteFences := rfl

theorem noteFences_cores (s : State) : s.noteFences.cores = s.cores := by
  unfold State.noteFences
  dsimp only
  split <;> rfl

theorem noteFences_mem (s : State) : s.noteFences.mem = s.mem := by
  unfold State.noteFences
  dsimp only
  split <;> rfl

theorem noteFences_dscr (s : State) : s.noteFences.dscr = s.dscr := by
  unfold State.noteFences
  dsimp only
  split <;> rfl

theorem noteWaits_mem (s : State) : s.noteWaits.mem = s.mem := noteFences_mem _
theorem noteWaits_dscr (s : State) : s.noteWaits.dscr = s.dscr := noteFences_dscr _

/-- A note that a wait is over (R164). -/
theorem Keeps.noteWaits (hf : ∀ g, f { g with waitDone := true } = f g) (s : State) : Keeps f s s.noteWaits := by
  rw [noteWaits_eq]
  refine Keeps.trans ?_ (Keeps.of_cores f (noteFences_cores _))
  intro d m
  rw [group?_markGroups, Option.map_map]
  refine congrArg (fun h => Option.map h _) (funext fun g => ?_)
  dsimp only [Function.comp]
  split
  · exact hf g
  · rfl

/-! ## Bytes put at a place -/

theorem Keeps.putLoc (f : Group → α) (s : State) (loc : Loc) (b : List Byte) : Keeps f s (s.putLoc loc b) := by
  have poison : Keeps f s (s.clearPoison loc b.length) := by
    unfold State.clearPoison
    split
    · exact .refl f s
    · exact .of_cores f rfl
  refine poison.trans ?_
  unfold State.putLoc
  cases loc with
  | phys pa => exact .of_cores f rfl
  | spad c w o => exact Keeps.modWg f _ c w _
  | dscr d o => exact .of_cores f rfl
  | priv o => exact .refl f _

/-! ## Miss slots (R426) -/

/-- A request of a group gets its slot. -/
def Group.giveSlot (g : Group) (id : Nat) : Group :=
  { g with pends := g.pends.map fun p => if p.id = id then { p with slot := true } else p }

theorem Keeps.grantSlots (hf : ∀ (g : Group) (id : Nat), f (g.giveSlot id) = f g) (s : State) (cl n : Nat) :
    Keeps f s (s.grantSlots cl n) := by
  induction n generalizing s with
  | zero => exact .refl f s
  | succ n ih =>
    unfold State.grantSlots
    split
    · exact .refl f s
    · exact (Keeps.modGroup f s _ _ fun g => hf g _).trans (ih _)

theorem Keeps.settleSlots (hf : ∀ (g : Group) (id : Nat), f (g.giveSlot id) = f g) (s : State) (cl : Nat) :
    Keeps f s (s.settleSlots cl) := Keeps.grantSlots hf s cl _

end

theorem SameBytes.grantSlots (s : State) (cl n : Nat) : SameBytes s (s.grantSlots cl n) := by
  induction n generalizing s with
  | zero => exact .refl s
  | succ n ih =>
    unfold State.grantSlots
    split
    · exact .refl s
    · exact (SameBytes.modGroup s _ _ _).trans (ih _)

theorem SameBytes.settleSlots (s : State) (cl : Nat) : SameBytes s (s.settleSlots cl) := SameBytes.grantSlots s cl _

theorem SameBytes.sendReq (s : State) (core slot : Nat) (q : PendReq) : SameBytes s (s.sendReq core slot q) :=
  (SameBytes.modGroup s core slot _).trans (SameBytes.settleSlots _ _)

/-! ## L1 (R282 to R284) -/

theorem SameBytes.setCore (s : State) (c : Nat) {k : Core} (hk : k.wgs = (s.core c).wgs) : SameBytes s (s.setCore c k) := by
  refine ⟨by simp, by simp, fun d n => ?_⟩
  unfold State.wg?
  by_cases hc : d = c
  · subst hc
    by_cases hl : d < 64
    · rw [State.core_setCore_self hl, hk]
    · simp [State.setCore, hl]
  · rw [State.core_setCore_ne hc]

theorem SameBytes.l1Fill (s : State) (core ctx pa hint : Nat) : SameBytes s (s.l1Fill core ctx pa hint) := by
  unfold State.l1Fill
  split
  · exact .refl s
  · exact SameBytes.setCore s core rfl

theorem SameBytes.l1Refresh (s : State) (core ctx pa : Nat) : SameBytes s (s.l1Refresh core ctx pa) := by
  unfold State.l1Refresh
  dsimp only
  split
  · exact .refl s
  · exact SameBytes.setCore s core rfl

theorem SameBytes.acquire (s : State) (core ctx : Nat) (sc : Scope) : SameBytes s (s.acquire core ctx sc) := by
  unfold State.acquire
  split
  · exact SameBytes.modCore s core fun _ => rfl
  · exact .refl s

theorem Keeps.l1Fill {α : Type} (f : Group → α) (s : State) (core ctx pa hint : Nat) :
    Keeps f s (s.l1Fill core ctx pa hint) := by
  unfold State.l1Fill
  split
  · exact .refl f s
  · exact Keeps.setCore f s core rfl

theorem Keeps.l1Refresh {α : Type} (f : Group → α) (s : State) (core ctx pa : Nat) :
    Keeps f s (s.l1Refresh core ctx pa) := by
  unfold State.l1Refresh
  dsimp only
  split
  · exact .refl f s
  · exact Keeps.setCore f s core rfl

theorem Keeps.acquire {α : Type} (f : Group → α) (s : State) (core ctx : Nat) (sc : Scope) :
    Keeps f s (s.acquire core ctx sc) := by
  unfold State.acquire
  split
  · exact Keeps.modCore f s core fun _ => rfl
  · exact .refl f s

theorem l1Touch_groups (k : Core) (l : L1Line) (hint : Nat) : (k.l1Touch l hint).groups = k.groups := by
  unfold Core.l1Touch; split <;> rfl

theorem l1Touch_wgs (k : Core) (l : L1Line) (hint : Nat) : (k.l1Touch l hint).wgs = k.wgs := by
  unfold Core.l1Touch; split <;> rfl

/-- An access to L2, whichever slice it goes to. -/
theorem l2Access_owned_cacheOnly (s : State) (core part ctx pa hint : Nat) (w owned : Bool) :
    CacheOnly s (s.l2Access core part ctx pa hint w owned) := by
  unfold State.l2Access
  dsimp only
  split
  · exact .refl s
  · have accessed := fun s home i line cl kind w => sliceAccess_cacheOnly s home i line ctx part hint cl kind w
    split
    · exact (accessed _ _ _ _ _ _ _).trans (dropCopies_cacheOnly _ _)
    · split
      · exact accessed _ _ _ _ _ _ _
      · split
        · exact accessed _ _ _ _ _ _ _
        · refine ite_cacheOnly _ (accessed _ _ _ _ _ _ _) (ite_cacheOnly _ ?_ ?_)
          · exact ((accessed _ _ _ _ _ _ _).trans (accessed _ _ _ _ _ _ _)).trans (dirAdd_cacheOnly _ _ _)
          · exact (accessed _ _ _ _ _ _ _).trans (accessed _ _ _ _ _ _ _)

theorem SameBytes.loadLine (s : State) (core part ctx : Nat) (via : Via) (hint : Nat) (loc : Loc) :
    SameBytes s (s.loadLine core part ctx via hint loc) := by
  unfold State.loadLine
  split
  · split
    · exact SameBytes.modCore s core fun k => l1Touch_wgs k _ _
    · refine SameBytes.trans ?_ (SameBytes.l1Fill _ core ctx _ hint)
      split
      · exact (l2Access_owned_cacheOnly ..).sameBytes
      · exact .refl s
  · refine SameBytes.trans ?_ (SameBytes.l1Refresh _ core ctx _)
    split
    · exact (l2Access_owned_cacheOnly ..).sameBytes
    · exact .refl s
  · exact .refl s

theorem Keeps.loadLine {α : Type} (f : Group → α) (s : State) (core part ctx : Nat) (via : Via) (hint : Nat) (loc : Loc) :
    Keeps f s (s.loadLine core part ctx via hint loc) := by
  unfold State.loadLine
  split
  · split
    · exact Keeps.modCore f s core fun k => l1Touch_groups k _ _
    · refine Keeps.trans ?_ (Keeps.l1Fill f _ core ctx _ hint)
      split
      · exact (l2Access_owned_cacheOnly ..).keeps f
      · exact .refl f s
  · refine Keeps.trans ?_ (Keeps.l1Refresh f _ core ctx _)
    split
    · exact (l2Access_owned_cacheOnly ..).keeps f
    · exact .refl f s
  · exact .refl f s

end Sys2Proof.Machine

/-! # A store that drains (R2, R281, R305, R306, R316)

The beat's elements are put at the single copy one after the other; what the caches and the waits note afterwards leaves
it, and the queue has lost the beat. -/

namespace Sys2Proof.Machine

/-! ## Bytes within a put -/

theorem leBytes_length (n v : Nat) : (leBytes n v).length = n := by
  induction n generalizing v with
  | zero => rfl
  | succ n ih => simp [leBytes, ih]

theorem getElem?_leBytes {n i : Nat} (h : i < n) (v : Nat) : (leBytes n v)[i]? = some (BitVec.ofNat 8 (v / 256 ^ i)) := by
  induction n generalizing v i with
  | zero => omega
  | succ n ih =>
    cases i with
    | zero => simp [leBytes]
    | succ i => rw [leBytes, List.getElem?_cons_succ, ih (by omega), Nat.div_div_eq_div_mul, Nat.pow_succ']

/-- A byte that was put reads back. -/
theorem get_put_inside {m : Mem} {a i : Nat} {bs : List Byte} {b : Byte} (h : m.wf = true) (hb : bs[i]? = some b) :
    (m.put a bs).get (a + i) = b := by
  induction bs generalizing m a i with
  | nil => cases hb
  | cons x r ih =>
    cases i with
    | zero =>
      obtain rfl : x = b := by simpa using hb
      rw [Mem.put, Mem.get_put_below _ _ _ (by omega)]
      exact Mem.get_set_self m a x h
    | succ i =>
      have := ih (a := a + 1) (Mem.set_wf m a x h) (by simpa using hb)
      rwa [show a + (i + 1) = a + 1 + i by omega, Mem.put]

/-! ## The elements of a beat at the single copy -/

/-- HBM after one element. -/
def SqElem.intoMem (m : Mem) (e : SqElem) : Mem := match e.loc with
  | .phys pa => m.put pa (leBytes e.size e.data.toNat)
  | _ => m

/-- The die scratchpads after one element. -/
def SqElem.intoDscr (m : Mem) (e : SqElem) : Mem := match e.loc with
  | .dscr d o => m.put (d * 2 ^ 25 + o) (leBytes e.size e.data.toNat)
  | _ => m

/-- One element's bytes, at the single copy and in L1. -/
def State.storeElem (s : State) (core ctx : Nat) (e : SqElem) : State :=
  let s := s.putLoc e.loc (leBytes e.size e.data.toNat)
  match e.loc with
  | .phys pa => s.modCore core fun k => k.l1Patch ctx pa (leBytes e.size e.data.toNat)
  | _ => s

theorem storeElems_eq (s : State) (core part ctx hint : Nat) (es : List SqElem) :
    s.storeElems core part ctx hint es = ((cachedLines es).foldl (fun s a => s.l2Access core part ctx a hint true)
      (es.foldl (fun s e => s.storeElem core ctx e) s)).noteWaits := rfl

theorem clearPoison_mem (s : State) (loc : Loc) (n : Nat) : (s.clearPoison loc n).mem = s.mem := by
  unfold State.clearPoison; split <;> rfl

theorem clearPoison_dscr (s : State) (loc : Loc) (n : Nat) : (s.clearPoison loc n).dscr = s.dscr := by
  unfold State.clearPoison; split <;> rfl

theorem storeElem_mem (s : State) (core ctx : Nat) (e : SqElem) : (s.storeElem core ctx e).mem = e.intoMem s.mem := by
  unfold State.storeElem SqElem.intoMem State.putLoc
  cases e.loc <;> simp [clearPoison_mem]

theorem storeElem_dscr (s : State) (core ctx : Nat) (e : SqElem) : (s.storeElem core ctx e).dscr = e.intoDscr s.dscr := by
  unfold State.storeElem SqElem.intoDscr State.putLoc
  cases e.loc <;> simp [clearPoison_dscr]

theorem foldl_storeElem_mem (es : List SqElem) (s : State) (core ctx : Nat) :
    (es.foldl (fun s e => s.storeElem core ctx e) s).mem = es.foldl SqElem.intoMem s.mem := by
  induction es generalizing s with
  | nil => rfl
  | cons e es ih => rw [List.foldl_cons, ih, storeElem_mem, List.foldl_cons]

theorem foldl_storeElem_dscr (es : List SqElem) (s : State) (core ctx : Nat) :
    (es.foldl (fun s e => s.storeElem core ctx e) s).dscr = es.foldl SqElem.intoDscr s.dscr := by
  induction es generalizing s with
  | nil => rfl
  | cons e es ih => rw [List.foldl_cons, ih, storeElem_dscr, List.foldl_cons]

theorem l2Accesses_cacheOnly (lines : List Nat) (s : State) (core part ctx hint : Nat) :
    CacheOnly s (lines.foldl (fun s a => s.l2Access core part ctx a hint true) s) :=
  foldl_cacheOnly _ _ (fun s a => l2Access_cacheOnly s core part ctx a hint true) s

theorem storeElems_mem (s : State) (core part ctx hint : Nat) (es : List SqElem) :
    (s.storeElems core part ctx hint es).mem = es.foldl SqElem.intoMem s.mem := by
  rw [storeElems_eq, noteWaits_mem, (l2Accesses_cacheOnly ..).mem, foldl_storeElem_mem]

theorem storeElems_dscr (s : State) (core part ctx hint : Nat) (es : List SqElem) :
    (s.storeElems core part ctx hint es).dscr = es.foldl SqElem.intoDscr s.dscr := by
  rw [storeElems_eq, noteWaits_dscr, (l2Accesses_cacheOnly ..).dscr, foldl_storeElem_dscr]

/-- A byte outside the elements' places stays. -/
theorem get_foldl_intoMem {es : List SqElem} {x : Nat}
    (h : ∀ e ∈ es, ∀ pa : Nat, e.loc = .phys pa → x < pa ∨ pa + e.size ≤ x) (m : Mem) :
    (es.foldl SqElem.intoMem m).get x = m.get x := by
  induction es generalizing m with
  | nil => rfl
  | cons e es ih =>
    rw [List.foldl_cons, ih fun e he => h e (List.mem_cons_of_mem _ he)]
    unfold SqElem.intoMem
    split
    · next pa hloc =>
      obtain hx | hx := h e List.mem_cons_self pa hloc
      · exact Mem.get_put_below _ _ _ hx
      · exact Mem.get_put_above _ _ _ (by rwa [leBytes_length])
    · rfl

theorem get_foldl_intoDscr {es : List SqElem} {x : Nat}
    (h : ∀ e ∈ es, ∀ d o : Nat, e.loc = .dscr d o → x < d * 2 ^ 25 + o ∨ d * 2 ^ 25 + o + e.size ≤ x) (m : Mem) :
    (es.foldl SqElem.intoDscr m).get x = m.get x := by
  induction es generalizing m with
  | nil => rfl
  | cons e es ih =>
    rw [List.foldl_cons, ih fun e he => h e (List.mem_cons_of_mem _ he)]
    unfold SqElem.intoDscr
    split
    · next d o hloc =>
      obtain hx | hx := h e List.mem_cons_self d o hloc
      · exact Mem.get_put_below _ _ _ hx
      · exact Mem.get_put_above _ _ _ (by rwa [leBytes_length])
    · rfl

/-! ## What a drain leaves of the groups -/

section
variable {α : Type} {f : Group → α}

theorem Keeps.storeElem (f : Group → α) (s : State) (core ctx : Nat) (e : SqElem) :
    Keeps f s (s.storeElem core ctx e) := by
  refine (Keeps.putLoc f s e.loc (leBytes e.size e.data.toNat)).trans ?_
  unfold State.storeElem
  dsimp only
  split
  · exact Keeps.modCore f _ core fun _ => rfl
  · exact .refl f _

theorem Keeps.storeElems (hf : ∀ g, f { g with waitDone := true } = f g) (s : State) (core part ctx hint : Nat)
    (es : List SqElem) : Keeps f s (s.storeElems core part ctx hint es) := by
  rw [storeElems_eq]
  refine Keeps.trans ?_ (Keeps.noteWaits hf _)
  exact (Keeps.foldl f (fun s e => Keeps.storeElem f s core ctx e) es s).trans ((l2Accesses_cacheOnly ..).keeps f)

end

/-! ## When the oldest beat may leave -/

theorem drainable_eq_some_iff {s : State} {core : Nat} {g : Group} {b : Beat} :
    s.drainable core g = some b ↔ g.sq.head? = some b ∧ (∀ p ∈ g.loads, b.stamp ≤ p.stamp) ∧
      (∀ e ∈ b.elems, s.absentLine e.loc = false) ∧ s.beatSlots core g b = true := by
  simp only [State.drainable, State.beatReady, Option.filter_eq_some_iff, Bool.and_eq_true, List.all_eq_true,
    decide_eq_true_eq, Bool.not_eq_true', and_assoc]

theorem storeQueueDrain_of_drainable {s : State} {core slot : Nat} {g : Group} {b : Beat} (hoff : s.sys.off = false)
    (hrun : s.sys.stopped = false) (hg : s.group? core slot = some g) (hb : s.drainable core g = some b) :
    exec (.storeQueueDrain core slot) s = .next (s.drainBeat core slot g b) := by
  show execStoreQueueDrain core slot s = _
  rw [execStoreQueueDrain, coreEvent_running hoff hrun]
  simp only [hg, hb]

/-- The state of a drain in which the beat has left the queue and nothing else has changed. -/
theorem drainBeat_store {s : State} {core slot : Nat} {g : Group} {b : Beat} (hop : b.op = .store) :
    s.drainBeat core slot g b = ((s.modGroup core slot fun g => { g with sq := g.sq.tail }).storeElems core g.part g.vf b.hint
      b.elems).settleSlots (core / 4) := by
  simp only [State.drainBeat, hop]

/-- Settles O13. -/
theorem drainWritesTheStoredBytes : Obligations.DrainWritesTheStoredBytes := by
  unfold Obligations.DrainWritesTheStoredBytes
  refine ⟨fun s core slot g b hoff hrun hg hb hop => ?_, fun s core slot g hoff hrun hg => ⟨fun b => drainable_eq_some_iff, fun h => ?_⟩⟩
  · refine ⟨_, storeQueueDrain_of_drainable hoff hrun hg hb, ?_⟩
    rw [drainBeat_store hop]
    have hmem := (SameBytes.settleSlots ((s.modGroup core slot fun g => { g with sq := g.sq.tail }).storeElems core g.part g.vf
      b.hint b.elems) (core / 4)).mem
    have hdscr := (SameBytes.settleSlots ((s.modGroup core slot fun g => { g with sq := g.sq.tail }).storeElems core g.part g.vf
      b.hint b.elems) (core / 4)).dscr
    rw [storeElems_mem, State.modGroup_mem] at hmem
    rw [storeElems_dscr, State.modGroup_dscr] at hdscr
    rw [hmem, hdscr]
    refine ⟨fun x hx => get_foldl_intoMem hx _, fun x hx => get_foldl_intoDscr hx _, fun e pa i he hloc hwf hi => ?_,
      fun e d o i he hloc hwf hi => ?_, ?_⟩
    · simp only [he, List.foldl_cons, List.foldl_nil, SqElem.intoMem, hloc]
      exact get_put_inside hwf (getElem?_leBytes hi _)
    · simp only [he, List.foldl_cons, List.foldl_nil, SqElem.intoDscr, hloc]
      exact get_put_inside hwf (getElem?_leBytes hi _)
    · rw [((Keeps.storeElems (f := (·.sq)) (fun _ => rfl) _ core g.part g.vf b.hint b.elems).trans
        (Keeps.settleSlots (fun _ _ => rfl) _ _)) core slot, group?_modGroup_map, hg]
      rfl
  · show execStoreQueueDrain core slot s = _
    rw [execStoreQueueDrain, coreEvent_running hoff hrun]
    simp only [hg, h]

end Sys2Proof.Machine

/-! # Loads that land (R281, R304, R316)

The value of a load that nothing covers is what the single copy holds. -/

namespace Sys2Proof.Machine

theorem seen_of_uncached {s : State} {core ctx pa n : Nat} {via : Via}
    (h : (∃ l2, via = .l1 l2) → (s.core core).l1Find ctx pa = none) (hp : s.poison = []) :
    s.seen core ctx via (.phys pa) n = (s.mem.bytes pa n).map fun b => (b, false) := by
  have clean : (List.range n).zipWith (fun i b => (b, s.poisoned ((Loc.phys pa).add i) 1)) (s.readLoc (.phys pa) n) =
      (s.mem.bytes pa n).map fun b => (b, false) := by
    simp only [State.poisoned, hp, List.isEmpty_nil, Bool.not_true, Bool.false_and, State.readLoc, Mem.bytes]
    rw [List.zipWith_map_right, List.zipWith_self, List.map_map]
    rfl
  cases via with
  | l1 l2 => simp only [State.seen, clean, h ⟨l2, rfl⟩]
  | slice l2 => simpa only [State.seen] using clean
  | uncached => simpa only [State.seen] using clean

/-- Settles O14. -/
theorem pendingLoadsLand : Obligations.PendingLoadsLand := by
  unfold Obligations.PendingLoadsLand
  refine ⟨fun s core slot id g q hoff hrun hg hq => ?_, fun s core ctx stamp sq p pa via hloc hsq hpoison hl1 => ?_, fun id v x => ?_⟩
  · have run : exec (.missDataReturn core slot id) s = .next (if q.id = id then s.landLoad core slot g q else s) := by
      show execMissDataReturn core slot id s = _
      rw [execMissDataReturn, coreEvent_running hoff hrun]
      simp only [hg, hq]
    exact ⟨fun h => by rw [run, if_pos h], fun h => by rw [run, if_neg h]⟩
  · have hbytes : (s.mem.bytes pa p.size).length = p.size := by simp [Mem.bytes]
    have same : (List.range p.size).zipWith (fun _ (u : Byte × Bool) => u)
        ((s.mem.bytes pa p.size).map fun b => (b, false)) = (s.mem.bytes pa p.size).map fun b => (b, false) :=
      List.ext_getElem (by simp [Mem.bytes]) fun _ _ _ => by simp
    have free : (((s.mem.bytes pa p.size).map fun b => (b, false)).any fun b => b.2) = false := by simp
    simp only [State.partValue, hloc, seen_of_uncached hl1 hpoison, hsq, queuedByte, List.foldl_nil, same, free,
      Bool.false_eq_true, if_false, List.map_map, Function.comp_def, List.map_id']
  · cases x <;> rfl

end Sys2Proof.Machine

/-! # Atomics (R308, R309)

An atomic whose checks pass and whose beats find room joins the store queue; at the single copy it reads the old value
and writes the new one at once. -/

namespace Sys2Proof.Machine

theorem putLoc_phys_mem (s : State) (pa : Nat) (b : List Byte) : (s.putLoc (.phys pa) b).mem = s.mem.put pa b := by
  simp [State.putLoc, clearPoison_mem]

/-- Settles O15. -/
theorem atomicsComplete : Obligations.AtomicsComplete := by
  unfold Obligations.AtomicsComplete
  refine ⟨⟨?_, ?_⟩, ?_, ?_⟩
  · intro f s c E pc a d wide size ls es r hissue hwide hsize ha hd hjudge hls hflip hes hroom hr
    show execAtom f s = _
    refine instr_goes hissue ?_
    simp only [hissue.maskWait, hissue.exec, ← hwide, ← hsize, ha, hd, hjudge, ← hls, noFlip_ok hflip, ← hes, room_ok hroom, ← hr,
      ok_bind, pure_eq_ok]
  · intro f s c E pc a e n wide size own help ls es r hissue hwide hsize ha hd hjudge hown hhelp hls hflip hes hroom hr
    show execAcas f s = _
    refine instr_goes hissue ?_
    simp only [hissue.maskWait, hissue.exec, ← hwide, ← hsize, ha, hd, hjudge, ← hown, ← hhelp, ← hls, noFlip_ok hflip, ← hes,
      room_ok hroom, ← hr, ok_bind, pure_eq_ok]
  · intro s o id pa wide e hloc hclean
    simp only [State.atomElem, hclean, Bool.false_eq_true, if_false]
    rw [hloc]
    exact ⟨rfl, putLoc_phys_mem s pa _⟩
  · intro s id pa wide e hloc hclean
    simp only [State.atomElem, hclean, Bool.false_eq_true, if_false]
    rw [hloc]
    refine ⟨rfl, ?_⟩
    have hread : s.readNat (.phys pa) e.size = leNat (s.mem.bytes pa e.size) := rfl
    rw [← hread]
    by_cases h : s.readNat (.phys pa) e.size = e.expect.toNat % 2 ^ (8 * e.size) ∧ e.writes = true
    · rw [if_pos h, if_pos h]
      exact putLoc_phys_mem s pa _
    · rw [if_neg h, if_neg h]

end Sys2Proof.Machine

/-! # Cache controls (R310, R311, R313) -/

namespace Sys2Proof.Machine

/-- A body that stalls changes nothing. -/
theorem instr_stall {i : Form} {body : Ctx → State → Except Trap State} {s : State} {c : Ctx} {g1 g2 : Guard} {E : LaneMask}
    {pc : PC} (h : Issues s c g1 g2 E pc) (hb : body c s = .error .stall) : instr i body s = .next s := by
  rw [instr_trap h.running h.group hb]
  exact congrArg Host.Outcome.next (State.heldIssue_self (State.ctx?_group h.group).1)

/-- The lines of a context's addresses that translate. -/
def invlKeys (s : State) (c : Ctx) (E : LaneMask) (a : Vector DWord 96) : List Nat :=
  (lanesOf E).filterMap fun l =>
    if a[l].toNat < 2 ^ 57 then
      match s.xlate c.core c.g.vf a[l].toNat false with
      | .ok t => some (lineOf (Xlat.paOf t a[l].toNat))
      | .fault .. => none
    else none

theorem mem_lanesOf {E : LaneMask} {l : Fin 96} : l ∈ lanesOf E ↔ inMask E l.val = true := by
  simp [lanesOf, laneList]

theorem mem_invlKeys {s : State} {c : Ctx} {E : LaneMask} {a : Vector DWord 96} {x : Nat} :
    x ∈ invlKeys s c E a ↔ ∃ (l : Fin 96) (t : TlbEntry), inMask E l.val = true ∧ a[l].toNat < 2 ^ 57 ∧
      s.xlate c.core c.g.vf a[l].toNat false = .ok t ∧ x = lineOf (Xlat.paOf t a[l].toNat) := by
  simp only [invlKeys, List.mem_filterMap, mem_lanesOf]
  constructor
  · rintro ⟨l, hl, h⟩
    split at h
    · next hlow =>
      split at h
      · next t ht => exact ⟨l, t, hl, hlow, ht, by simpa using h.symm⟩
      · cases h
    · cases h
  · rintro ⟨l, t, hl, hlow, ht, rfl⟩
    exact ⟨l, hl, by rw [if_pos hlow, ht]⟩

theorem mem_acquire_l1 {s : State} {core vf : Nat} {sc : Scope} (hcore : core < 64) (hsc : scopeWide sc = true) :
    ∀ l ∈ ((s.acquire core vf sc).core core).l1, l.ctx ≠ vf := by
  intro l hl
  rw [State.acquire, if_pos hsc, State.modCore, State.core_setCore_self hcore] at hl
  simpa using (List.mem_filter.mp hl).2

/-- Settles O16. -/
theorem cacheControlsComplete : Obligations.CacheControlsComplete := by
  unfold Obligations.CacheControlsComplete
  refine ⟨fun f s c E pc hissue hne => ⟨fun hloads hsq => ?_, fun hwait => ?_⟩,
    fun s core vf sc hcore => ⟨mem_acquire_l1 hcore, fun hsc => if_neg (by simp [hsc])⟩, fun f s c pc hissue => ?_,
    fun f s c E pc a hissue ha => ?_, fun f s c E pc a hissue ha => ⟨fun hsc => ?_, fun hsc => ?_⟩⟩
  · show execFence f s = _
    refine instr_goes hissue ?_
    have hgo : ¬ ((f.order.getLsbD 0 && !c.g.loads.isEmpty) || (f.order == 3 && !c.g.sq.isEmpty)) = true := by
      simpa [List.isEmpty_iff] using ⟨hloads, hsq⟩
    simp only [hissue.mask, hissue.exec, hne, if_false, if_neg hgo, ok_bind, pure_eq_ok]
  · show execFence f s = _
    refine instr_stall hissue ?_
    have hstall : ((f.order.getLsbD 0 && !c.g.loads.isEmpty) || (f.order == 3 && !c.g.sq.isEmpty)) = true := by
      simpa [List.isEmpty_iff] using hwait
    simp only [hissue.mask, hissue.exec, hne, if_false, if_pos hstall, ok_bind]
  · show execFence f s = _
    refine instr_goes hissue ?_
    simp only [hissue.mask, hissue.exec, if_true, ok_bind, pure_eq_ok]
  · show execPref f s = _
    refine instr_goes hissue ?_
    simp only [hissue.maskWait, hissue.exec, ha, ok_bind, pure_eq_ok]
  · show execInvl f s = _
    refine instr_goes hissue ?_
    simp only [hissue.maskWait, hissue.exec, ha, hsc, ok_bind, pure_eq_ok, Bool.not_false, if_true]
  · refine ⟨invlKeys s c E a, fun x => mem_invlKeys, ?_⟩
    show execInvl f s = _
    refine instr_goes hissue ?_
    simp only [hissue.maskWait, hissue.exec, ha, hsc, ok_bind, pure_eq_ok, Bool.not_true, Bool.false_eq_true, if_false]
    rfl

end Sys2Proof.Machine

/-! # What an issue leaves alone (R147, R152, R155, R478)

The accounting of an issue changes the issuing group and its core's queues and pipes. Every other group, and every
workgroup, stays as it is; of its own group all but the numbers of its pushes and its accounts stays. -/

namespace Sys2Proof.Machine

/-! ## The other groups and the workgroups -/

/-- Every group but one, and every workgroup, is the same. -/
structure Aside (c n : Nat) (s t : State) : Prop where
  groups : ∀ d m, (d, m) ≠ (c, n) → t.group? d m = s.group? d m
  wgs : ∀ d m, t.wg? d m = s.wg? d m

section
variable {c n : Nat}

theorem Aside.refl (c n : Nat) (s : State) : Aside c n s s := ⟨fun _ _ _ => rfl, fun _ _ => rfl⟩

theorem Aside.trans {s t u : State} (h : Aside c n s t) (k : Aside c n t u) : Aside c n s u :=
  ⟨fun d m e => (k.groups d m e).trans (h.groups d m e), fun d m => (k.wgs d m).trans (h.wgs d m)⟩

theorem Aside.modCore (s : State) (d : Nat) {f : Core → Core} (hg : ∀ k, (f k).groups = k.groups) (hw : ∀ k, (f k).wgs = k.wgs) :
    Aside c n s (s.modCore d f) := ⟨fun k m _ => State.group?_modCore hg k m, fun k m => State.wg?_modCore hw k m⟩

theorem Aside.setGroup (s : State) (g : Group) : Aside c n s (s.setGroup c n g) :=
  ⟨fun _ _ h => State.group?_setGroup_ne h, (SameBytes.setGroup s c n g).wgs⟩

theorem Aside.modGroup (s : State) (f : Group → Group) : Aside c n s (s.modGroup c n f) := by
  unfold State.modGroup
  split
  · exact Aside.setGroup s _
  · exact .refl c n s

theorem Aside.count (s : State) (d vf ev k : Nat) : Aside c n s (s.count d vf ev k) := by
  unfold State.count
  split
  · exact Aside.modCore s d (fun _ => rfl) fun _ => rfl
  · exact .refl c n s

theorem Aside.writeBack (s : State) : Aside c n s (s.writeBack c n) := by
  unfold State.writeBack
  split
  · exact .refl c n s
  · exact (Aside.setGroup s _).trans (Aside.count _ _ _ _ _)

theorem Aside.standDown (s : State) : Aside c n s (s.standDown c n) := by
  unfold State.standDown State.dropBaton State.leaveActive
  refine (Aside.writeBack s).trans ?_
  refine Aside.trans ?_ (Aside.modCore _ c (fun _ => rfl) fun _ => rfl)
  refine Aside.trans ?_ (Aside.modCore _ c (fun k => by split <;> rfl) fun k => by split <;> rfl)
  refine Aside.trans ?_ (Aside.modCore _ c (fun _ => rfl) fun _ => rfl)
  split
  · exact Aside.modGroup _ _
  · exact .refl c n _

theorem Aside.haltGroup (s : State) (live : LiveSet) : Aside c n s (s.haltGroup c n live) := by
  unfold State.haltGroup
  exact (Aside.standDown s).trans (Aside.trans (t := (s.standDown c n).newId.2) ⟨fun _ _ _ => rfl, fun _ _ => rfl⟩
    (Aside.modGroup _ _))

theorem Aside.debugStop (s : State) : Aside c n s (s.debugStop c n) := by
  unfold State.debugStop
  have h := (Aside.standDown s).trans
    (Aside.modGroup (s.standDown c n) fun g => { g with dstop := true, dstep := false })
  dsimp only
  split
  · exact h.trans (Aside.modCore _ c (fun _ => rfl) fun _ => rfl)
  · exact h

theorem Aside.stepDone (s : State) : Aside c n s (s.stepDone c n) := by
  unfold State.stepDone
  split
  · split
    · exact (Aside.debugStop s).trans (Aside.modGroup _ _)
    · exact .refl c n s
  · exact .refl c n s

end

section
variable (s : State) (c : Ctx) (i : Form)

theorem Aside.countIssue : Aside c.core c.slot s (s.countIssue c i) := by
  unfold State.countIssue
  split
  · exact .refl _ _ s
  · exact ((((Aside.count _ _ _ _ _).trans (Aside.count _ _ _ _ _)).trans (Aside.count _ _ _ _ _)).trans
      (Aside.count _ _ _ _ _)).trans (Aside.count _ _ _ _ _)

theorem Aside.countWrites (g : Group) : Aside c.core c.slot s (s.countWrites c i g) := by
  unfold State.countWrites
  split
  · exact .refl _ _ s
  · exact Aside.count _ _ _ _ _

theorem Aside.takePipe : Aside c.core c.slot s (s.takePipe c i) := by
  unfold State.takePipe
  dsimp only
  split
  · exact Aside.modCore s _ (fun _ => rfl) fun _ => rfl
  · exact Aside.modCore s _ (fun _ => rfl) fun _ => rfl
  · exact .refl _ _ s

theorem Aside.askBanks : Aside c.core c.slot s (s.askBanks c i) := by
  unfold State.askBanks
  split
  · exact .refl _ _ s
  · exact (Aside.modGroup s _).trans (Aside.modCore _ _ (fun _ => rfl) fun _ => rfl)

theorem Aside.issues : Aside c.core c.slot s (s.issues c i) := by
  unfold State.issues
  split
  · exact .refl _ _ s
  · exact (((Aside.askBanks s c i).trans (Aside.countIssue _ c i)).trans (Aside.takePipe _ c i)).trans (Aside.modGroup _ _)

theorem Aside.issued : Aside c.core c.slot s (s.issued c i) := by
  unfold State.issued
  split
  · exact .refl _ _ s
  · exact (((Aside.setGroup s _).trans (Aside.countWrites _ c i _)).trans (Aside.issues _ c i)).trans
      ((Aside.modGroup _ _).trans (Aside.stepDone _))

theorem Aside.goes (pc : PC) : Aside c.core c.slot s (s.goes c i pc) :=
  (Aside.modGroup s _).trans (Aside.issued _ c i)

end

/-! ## What lasts of the issuing group -/

/-- A lane without the numbers of its pushes. -/
def Lane.lasting (l : Lane) : Lane := { l with act := { l.act with seqs := [] } }

/-- A group without the accounts of its issues, and without what a stop or a debugger marks. -/
def Group.lasting (g : Group) : Group :=
  { g with lanes := g.lanes.map Lane.lasting, progress := 0, rejoin := false, dstop := false, dstep := false, bpPass := none,
           pushSeq := 0, cacheFloor := 0, busy := 0, lastPC := ⟨0, 1⟩, lostTo := none, bankAt := none, counted := false }

theorem lasting_stamp (g : Group) (old : Fin 96 → BitVec 32) : (g.stamp old).lasting = g.lasting := by
  unfold Group.stamp
  dsimp only
  generalize laneList.foldl (fun m l => max m ((g.lane l).act.P - old l).toNat) 0 = d
  split
  · rfl
  · unfold Group.lasting
    congr 1
    ext i hi
    all_goals simp [Lane.lasting, LaneAct.stamp]

theorem lasting_stampFrom (g x : Group) (i : Form) : (g.stampFrom x i).lasting = g.lasting := by
  unfold Group.stampFrom
  split
  · rfl
  · split
    · exact lasting_stamp g _
    · rfl

theorem lasting_issueBlind : IssueBlind Group.lasting where
  floor _ _ := rfl
  rejoin _ _ := rfl
  stop _ _ _ := rfl
  asks _ _ := rfl
  goes _ _ _ := rfl
  ends _ := rfl

theorem Keeps.issued_lasting (s : State) (c : Ctx) (i : Form) : Keeps Group.lasting s (s.issued c i) :=
  Keeps.issued lasting_issueBlind s c i fun g x _ => lasting_stampFrom g x i

/-- The issuing group after its change: it stands at pc, and all that lasts of it is the change's. -/
theorem group?_goes {s : State} {c : Ctx} {g : Group} (hg : s.group? c.core c.slot = some g) (i : Form) (pc : PC) :
    ∃ h, (s.goes c i pc).group? c.core c.slot = some h ∧ h.lasting = { g with pc := pc, completing := false }.lasting := by
  have kept := Keeps.issued_lasting (s.modGroup c.core c.slot fun g => { g with pc := pc, completing := false }) c i c.core c.slot
  rw [State.group?_modGroup_self hg] at kept
  exact Option.map_eq_some_iff.mp kept

theorem group?_goes_pc {s : State} {c : Ctx} {g : Group} (hg : s.group? c.core c.slot = some g) (i : Form) (pc : PC) :
    ((s.goes c i pc).group? c.core c.slot).map (·.pc) = some pc := by
  obtain ⟨h, hh, he⟩ := group?_goes hg i pc
  rw [hh]
  exact congrArg some (congrArg Group.pc he)

end Sys2Proof.Machine

/-! # Where groups stand after exchanges, cache controls and drains (R269, R306, R310, R311, R313) -/

namespace Sys2Proof.Machine

/-! ## The waiting party of a rendezvous -/

section
variable {c n : Nat}

theorem Aside.stampLate (s : State) (old : Group) : Aside c n s (s.stampLate c n old) := by
  unfold State.stampLate
  split
  · exact .refl c n s
  · exact (Aside.setGroup s _).trans (Aside.count _ _ _ _ _)

theorem Aside.pushLate (s : State) (f : Group → Group) : Aside c n s (s.pushLate c n f) := by
  unfold State.pushLate
  split
  · exact .refl c n s
  · exact (Aside.setGroup s _).trans (Aside.stampLate _ _)

theorem Aside.goNextWith (s : State) (f : Group → Group) : Aside c n s (s.goNextWith c n f) :=
  ((Aside.pushLate s f).trans (Aside.modGroup _ _)).trans (Aside.stepDone _)

end

/-- Where a group stands: its PC and the valid slots of its bundle. -/
def Group.place (g : Group) : PC × BitVec 7 := (g.pc, g.sv)

/-- Where a group stands and what it waits for. -/
def Group.stand (g : Group) : PC × Resume := (g.pc, g.resume)

theorem place_blind : Blind Group.place where
  floor _ _ := rfl
  rejoin _ _ := rfl
  stop _ _ _ := rfl

theorem stand_blind : Blind Group.stand where
  floor _ _ := rfl
  rejoin _ _ := rfl
  stop _ _ _ := rfl

theorem stamp_place (g : Group) (old : Fin 96 → BitVec 32) : (g.stamp old).place = g.place := by
  unfold Group.stamp
  dsimp only
  generalize laneList.foldl (fun m l => max m ((g.lane l).act.P - old l).toNat) 0 = d
  split <;> rfl

theorem receive_place (g : Group) (E : LaneMask) (vs : List Word) : (g.receive E vs).place = g.place := by
  unfold Group.receive; split <;> rfl

theorem Keeps.haltGroup {α : Type} {f : Group → α} (b : Blind f)
    (hf : ∀ g live n, f { g with gstate := .halted, live := live, haltSeq := n } = f g) (s : State) (c n : Nat)
    (live : LiveSet) : Keeps f s (s.haltGroup c n live) := by
  unfold State.haltGroup
  exact (Keeps.standDown b s c n).trans (Keeps.trans (t := (s.standDown c n).newId.2) (.of_cores f rfl)
    (Keeps.modGroup f _ c n fun g => hf g _ _))

theorem Keeps.stopParked_place (s : State) (c n : Nat) (g : Group) : Keeps Group.place s (s.stopParked c n g) := by
  unfold State.stopParked
  split
  · exact Keeps.haltGroup place_blind (fun _ _ _ => rfl) s c n _
  · exact .refl _ s

theorem Aside.stopParked (s : State) (c n : Nat) (g : Group) : Aside c n s (s.stopParked c n g) := by
  unfold State.stopParked
  split
  · exact Aside.haltGroup s _
  · exact .refl c n s

/-- Pushes that come late leave the group where it stands. -/
theorem Keeps.pushLate_place {f : Group → Group} (hf : ∀ g, (f g).place = g.place) (s : State) (c n : Nat) :
    Keeps Group.place s (s.pushLate c n f) := by
  unfold State.pushLate
  split
  · exact .refl _ s
  · next g hg =>
    refine (Keeps.setGroup _ s c n hg (hf g)).trans ?_
    unfold State.stampLate
    split
    · exact .refl _ _
    · next g' hg' => exact (Keeps.setGroup _ _ c n hg' (stamp_place g' _)).trans (Keeps.count _ _ _ _ _ _)

/-- A party that goes on stands at its next slot and waits no more. -/
theorem goNextWith_stand {s : State} {c n : Nat} {h : Group} {f : Group → Group} (hf : ∀ g, (f g).place = g.place)
    (hh : (s.group? c n).map Group.place = some h.place) :
    ((s.goNextWith c n f).group? c n).map Group.stand = some ((h.pc.next h.sv).getD ⟨h.pc.bundle + 64, 1⟩, .none) := by
  have late := (Keeps.pushLate_place hf s c n) c n
  rw [hh] at late
  obtain ⟨h', hs, hplace⟩ := Option.map_eq_some_iff.mp late
  have hpc : h'.pc = h.pc := congrArg Prod.fst hplace
  have hsv : h'.sv = h.sv := congrArg Prod.snd hplace
  unfold State.goNextWith
  rw [(Keeps.stepDone stand_blind _ c n) c n, group?_modGroup_map, hs, ← hpc, ← hsv]
  rfl

section
variable {s : State} {c : Ctx} {n p : Nat} {h : Group}

theorem group?_setXslot (s : State) (c w n : Nat) (x : XSlot) (d m : Nat) : (s.setXslot c w n x).group? d m = s.group? d m := by
  have := (Keeps.modWg id s c w fun w => { w with xslots := nset .empty w.xslots n x }) d m
  rwa [Option.map_id, id_eq, id_eq] at this

/-- The two parties after they have met: the partner is where it was, and the issuing group is as it was. -/
theorem met_place (hh : s.group? c.core p = some h) (n : Nat) :
    ((s.met c n p h).group? c.core p).map Group.place = some h.place := by
  unfold State.met
  rw [(Keeps.stopParked_place _ c.core p h) c.core p, group?_setXslot, hh]
  rfl

theorem met_group? (hs : s.group? c.core c.slot = some c.g) (hp : p ≠ c.slot) (n : Nat) (h : Group) :
    (s.met c n p h).group? c.core c.slot = some c.g := by
  unfold State.met
  rw [(Aside.stopParked _ c.core p h).groups _ _ (by simpa using Ne.symm hp), group?_setXslot, hs]

end

/-! ## The forms -/

/-- A group that goes on stands at its next slot, whatever the instruction changed of the rest. -/
theorem goes_of_keeps {s u : State} {c : Ctx} {g1 g2 : Guard} {E : LaneMask} {pc : PC} (hissue : Issues s c g1 g2 E pc)
    (hu : Keeps (fun _ => ()) s u) (i : Form) : ((u.goes c i pc).group? c.core c.slot).map (·.pc) = some pc := by
  have := hu c.core c.slot
  rw [(State.ctx?_group hissue.group).1] at this
  obtain ⟨g, hg, -⟩ := Option.map_eq_some_iff.mp this
  exact group?_goes_pc hg i pc

/-! ## Walks and prefetches -/

theorem setEntry_cores (s : State) (ea bits : Nat) : (s.setEntry ea bits).cores = s.cores := by
  unfold State.setEntry
  dsimp only
  split <;> rfl

theorem setSteps_cores (steps : Steps) (s : State) : (s.setSteps steps).cores = s.cores := by
  unfold State.setSteps
  induction steps generalizing s with
  | nil => rfl
  | cons p steps ih => rw [List.foldl_cons, ih, setEntry_cores]

theorem dirtyLog_cores (s : State) (vf ipa origin : Nat) : (s.dirtyLog vf ipa origin).cores = s.cores := by
  unfold State.dirtyLog
  dsimp only
  repeat' split
  all_goals simp

theorem ite_cores {p : Prop} [Decidable p] {s a b : State} (ha : a.cores = s.cores) (hb : b.cores = s.cores) :
    (if p then a else b).cores = s.cores := by split <;> assumption

theorem touch2_cores (s : State) (vf ipa : Nat) (write : Bool) (origin : Nat) :
    (s.touch2 vf ipa write origin).cores = s.cores := by
  unfold State.touch2
  split
  · extract_lets due t
    have ht : t.cores = s.cores := ite_cores (dirtyLog_cores s vf ipa origin) rfl
    rw [setEntry_cores, setSteps_cores, ht]
  · exact setSteps_cores _ s
  · exact setSteps_cores _ s

theorem touch1_cores (s : State) (vf bits origin : Nat) (p : Nat × Nat) : (s.touch1 vf bits origin p).cores = s.cores := by
  unfold State.touch1
  extract_lets t e
  have ht : t.cores = s.cores := ite_cores rfl (touch2_cores s vf p.1 false origin)
  refine ite_cores ht ?_
  rw [setEntry_cores]
  exact ite_cores ht ((touch2_cores t vf p.1 true 2).trans ht)

theorem foldl_touch1_cores (steps : Steps) (s : State) (vf bits origin : Nat) :
    (steps.foldl (fun s p => s.touch1 vf bits origin p) s).cores = s.cores := by
  induction steps generalizing s with
  | nil => rfl
  | cons p steps ih => rw [List.foldl_cons, ih, touch1_cores]

theorem touchWalk_cores (s : State) (vf va : Nat) (write : Bool) (origin : Nat) :
    (s.touchWalk vf va write origin).cores = s.cores := by
  unfold State.touchWalk
  refine ite_cores (ite_cores rfl (touch2_cores ..)) ?_
  split
  · next l steps _ =>
    extract_lets t
    have ht : t.cores = s.cores := (touch1_cores ..).trans (foldl_touch1_cores ..)
    exact ite_cores ht ((touch2_cores ..).trans ht)
  · exact foldl_touch1_cores ..
  · exact (touch2_cores ..).trans (foldl_touch1_cores ..)

section
variable {α : Type} (f : Group → α)

theorem Keeps.tlbFill (s : State) (core : Nat) (e : TlbEntry) : Keeps f s (s.tlbFill core e) := by
  unfold State.tlbFill
  split
  · exact .refl f s
  · refine Keeps.trans ?_ ((modDie_cacheOnly _ _ _).keeps f)
    exact ((free_cacheOnly s).keeps f).trans (Keeps.modCore f _ core fun _ => rfl)

theorem Keeps.walked (s : State) (core vf va : Nat) (write : Bool) (origin : Nat) :
    Keeps f s (s.walked core vf va write origin) := by
  unfold State.walked
  split
  · exact (Keeps.of_cores f (touchWalk_cores ..)).trans (Keeps.tlbFill f _ core _)
  · exact .of_cores f (touchWalk_cores ..)

theorem Keeps.cond {p : Prop} [Decidable p] {f : Group → α} {s a b : State} (ha : Keeps f s a) (hb : Keeps f s b) :
    Keeps f s (if p then a else b) := by split <;> assumption

theorem Keeps.prefetch (s : State) (core part vf hint va : Nat) : Keeps f s (s.prefetch core part vf hint va) := by
  have walked : Keeps f s (if (s.tlbHit core vf va false).isSome then s else s.walked core vf va false 0) :=
    .cond (.refl f s) (Keeps.walked f s core vf va false 0)
  unfold State.prefetch
  extract_lets _ _ t
  split
  · refine .cond (.refl f s) ?_
    have ht : Keeps f s t := walked
    clear_value t
    refine ht.trans (.cond (.refl f t) ?_)
    split
    · exact Keeps.loadLine f _ core part vf _ hint _
    · exact .refl f _
  · exact walked

theorem Keeps.queueWalk (s : State) (core vf hint va : Nat) : Keeps f s (s.queueWalk core vf hint va) :=
  (modDie_cacheOnly s _ _).keeps f

end

/-! ## Drains -/

section
variable {α : Type} {f : Group → α}

theorem atomElem_keeps (f : Group → α) (s : State) (op : BeatOp) (e : SqElem) : Keeps f s (s.atomElem op e).1 := by
  unfold State.atomElem
  dsimp only
  split
  · exact .refl f s
  · dsimp only
    split
    · exact Keeps.putLoc f s _ _
    · exact .refl f s

theorem Keeps.landIn (hf : ∀ g id v, f (g.land id v) = f g) (s : State) (core slot id : Nat) (v : Nat → Val) :
    Keeps f s (s.landIn core slot id v) := by
  unfold State.landIn
  split
  · exact .refl f s
  · next g hg =>
    dsimp only
    split
    · exact Keeps.setGroup f s core slot hg (hf g id v)
    · refine (Keeps.count f s _ _ _ _).trans (Keeps.setGroup f _ core slot (g := g) ?_ (hf g id v))
      rw [State.group?_count, hg]

/-- The lanes of an atomic beat at the single copy: the state, and each lane's old value. -/
def State.atomElems (s : State) (b : Beat) : State × List (Nat × Option Nat) :=
  b.elems.foldl (fun (r : State × List (Nat × Option Nat)) e =>
    ((r.1.atomElem b.op e).1, r.2 ++ [(e.lane, (r.1.atomElem b.op e).2)])) (s, [])

/-- The lines of HBM that a beat's elements lie in. -/
def physLines (es : List SqElem) : List Nat :=
  (es.filterMap fun e => match e.loc with
    | .phys pa => some (lineOf pa)
    | _ => none).eraseDups

/-- The words that an atomic beat's lanes take from the old values. -/
def atomVals (g : Group) (b : Beat) (olds : List (Nat × Option Nat)) (i : Nat) : Val :=
  match olds.find? fun p => p.1 == i / 2 with
  | some (_, some o) => .word (wordOfNat (o / 2 ^ (32 * (i % 2))))
  | some (l, none) => if inMask g.helper l then .word 0 else .poison b.pc
  | none => .word 0

/-- An atomic beat before its acquire. -/
def State.atomLanded (s : State) (core slot : Nat) (g : Group) (b : Beat) (id : Nat) : State :=
  ((physLines b.elems).foldl (fun s a => s.l1Refresh core g.vf a)
    ((cachedLines b.elems).foldl (fun s a => s.l2Access core g.part g.vf a 0 true) (s.atomElems b).1)).noteWaits.landIn core slot
      id (atomVals g b (s.atomElems b).2)

theorem performAtomic_eq (s : State) (core slot : Nat) (g : Group) (b : Beat) (id : Nat) :
    s.performAtomic core slot g b id = match orderAcq (BitVec.ofNat 2 b.order) b.scope with
      | some sc => (s.atomLanded core slot g b id).acquire core g.vf sc
      | none => s.atomLanded core slot g b id := rfl

theorem Keeps.atomElems (op : BeatOp) (es : List SqElem) (r : State × List (Nat × Option Nat)) :
    Keeps f r.1 (es.foldl (fun (r : State × List (Nat × Option Nat)) e =>
      ((r.1.atomElem op e).1, r.2 ++ [(e.lane, (r.1.atomElem op e).2)])) r).1 := by
  induction es generalizing r with
  | nil => exact .refl f r.1
  | cons e es ih => exact (atomElem_keeps f r.1 op e).trans (ih _)

theorem Keeps.performAtomic (hw : ∀ g, f { g with waitDone := true } = f g) (hl : ∀ g id v, f (g.land id v) = f g)
    (s : State) (core slot : Nat) (g : Group) (b : Beat) (id : Nat) : Keeps f s (s.performAtomic core slot g b id) := by
  rw [performAtomic_eq]
  have copies := Keeps.atomElems (f := f) b.op b.elems (s, [])
  have caches := (l2Accesses_cacheOnly (cachedLines b.elems) (s.atomElems b).1 core g.part g.vf 0).keeps f
  have lines := Keeps.foldl f (fun s a => Keeps.l1Refresh f s core g.vf a) (physLines b.elems)
    ((cachedLines b.elems).foldl (fun s a => s.l2Access core g.part g.vf a 0 true) (s.atomElems b).1)
  have landed := ((copies.trans caches).trans lines).trans ((Keeps.noteWaits hw _).trans
    (Keeps.landIn hl _ core slot id (atomVals g b (s.atomElems b).2)))
  split
  · exact landed.trans (Keeps.acquire f _ core g.vf _)
  · exact landed

/-- A drain: the beat leaves the queue, and whatever it does leaves what f reads. -/
theorem Keeps.drainBeat (hw : ∀ g, f { g with waitDone := true } = f g)
    (hp : ∀ (g : Group) (id : Nat), f (g.giveSlot id) = f g) (hl : ∀ g id v, f (g.land id v) = f g) (s : State)
    (core slot : Nat) (g : Group) (b : Beat) :
    Keeps f (s.modGroup core slot fun g => { g with sq := g.sq.tail }) (s.drainBeat core slot g b) := by
  unfold State.drainBeat
  refine Keeps.trans ?_ (Keeps.settleSlots hp _ _)
  split
  · exact Keeps.storeElems hw _ core _ _ _ _
  · exact Keeps.performAtomic hw hl _ core slot g b _
  · exact Keeps.performAtomic hw hl _ core slot g b _

end

/-- The two parties once the issuing one goes on. -/
theorem goes_both {u : State} {c : Ctx} {g : Group} {p : Nat} {x : PC × Resume} (hown : u.group? c.core c.slot = some g)
    (hother : (u.group? c.core p).map Group.stand = some x) (hne : p ≠ c.slot) (i : Form) (pc : PC) :
    ((u.goes c i pc).group? c.core c.slot).map (·.pc) = some pc ∧
      ((u.goes c i pc).group? c.core p).map (fun g => (g.pc, g.resume)) = some x := by
  refine ⟨group?_goes_pc hown i pc, ?_⟩
  rw [(Aside.goes u c i pc).groups _ _ (by simpa using hne)]
  exact hother

section
variable {s : State} {c : Ctx} {p n : Nat} {h : Group} {f : Group → Group}

theorem goNextWith_own (hs : s.group? c.core c.slot = some c.g) (hne : p ≠ c.slot) :
    ((s.met c n p h).goNextWith c.core p f).group? c.core c.slot = some c.g := by
  rw [(Aside.goNextWith _ _).groups _ _ (by simpa using Ne.symm hne)]
  exact met_group? hs hne n h

theorem goNextWith_other (hf : ∀ g, (f g).place = g.place) (hh : s.group? c.core p = some h) :
    (((s.met c n p h).goNextWith c.core p f).group? c.core p).map Group.stand =
      some ((h.pc.next h.sv).getD ⟨h.pc.bundle + 64, 1⟩, .none) :=
  goNextWith_stand hf (met_place hh n)

end

/-- Settles O17. -/
theorem exchangeAndCacheFormsComplete : Obligations.ExchangeAndCacheFormsComplete := by
  unfold Obligations.ExchangeAndCacheFormsComplete
  refine ⟨?_, ?_, ?_, ?_⟩
  · intro f s c E pc a b t p h w hissue hhandler hpartner hsrc hsq hloads hne hslot hp hr
    have hown := (State.ctx?_group hissue.group).1
    have hrun := rendezvousCompletes.1.1 f s c E pc a b t p h w hissue hhandler hpartner hsrc hsq hloads hslot hp hr
    exact ⟨_, hrun, goes_both (goNextWith_own hown hne) (goNextWith_other (fun g => receive_place g _ _) hp) hne _ pc⟩
  · intro f s c E pc p h vs hissue hhandler hpartner hne hslot hp hr
    have hown := (State.ctx?_group hissue.group).1
    have hrun := rendezvousCompletes.1.2 f s c E pc p h vs hissue hhandler hpartner hslot hp hr
    have hother := goNextWith_other (n := f.imm.toNat % 16) (f := id) (fun g => rfl) hp
    refine ⟨_, hrun, goes_both (State.group?_modGroup_self (goNextWith_own hown hne)) ?_ hne _ pc⟩
    rw [(Aside.modGroup _ _).groups _ _ (by simpa using hne)]
    exact hother
  · intro f s c E pc hissue
    obtain ⟨hfence, -, hskip, hpref, hinvl⟩ := cacheControlsComplete
    refine ⟨fun hloads hsq => ?_, fun a ha => ⟨⟨_, hpref f s c E pc a hissue ha, ?_⟩, ?_⟩⟩
    · by_cases hE : E = 0
      · subst hE
        exact ⟨_, hskip f s c pc hissue, goes_of_keeps hissue (.refl _ s) _⟩
      · refine ⟨_, (hfence f s c E pc hissue hE).1 hloads hsq, goes_of_keeps hissue ?_ _⟩
        exact .cond (Keeps.acquire _ s _ _ _) (.refl _ s)
    · refine goes_of_keeps hissue (Keeps.foldl _ (fun s x => ?_) _ s) _
      exact .cond (Keeps.prefetch _ s _ _ _ _ x) (Keeps.queueWalk _ s _ _ _ x)
    · cases hsc : scopeWide f.scope with
      | false => exact ⟨_, (hinvl f s c E pc a hissue ha).1 hsc, goes_of_keeps hissue (.refl _ s) _⟩
      | true =>
        obtain ⟨keys, -, hrun⟩ := (hinvl f s c E pc a hissue ha).2 hsc
        refine ⟨_, hrun, goes_of_keeps hissue ?_ _⟩
        exact Keeps.modCore _ s _ fun _ => rfl
  · intro s core slot g b hoff hrun hg hb hloads hpresent hslots
    have hdrain := storeQueueDrain_of_drainable hoff hrun hg (drainable_eq_some_iff.mpr ⟨hb, hloads, hpresent, hslots⟩)
    refine ⟨_, hdrain, ?_⟩
    rw [(Keeps.drainBeat (f := (·.sq)) (fun _ => rfl) (fun _ _ => rfl) (fun _ _ _ => rfl) s core slot g b) core slot,
      group?_modGroup_map, hg]
    rfl

end Sys2Proof.Machine

/-! # What instructions leave alone (R152, R155, R171, R478) -/

namespace Sys2Proof.Machine

/-! ## The state around the issuing group -/

section
variable (s : State) (c : Ctx) (i : Form) (g : Group) (pc : PC)

theorem goesAs_group? (hs : s.ctx? = some c) : ∃ h, (s.goesAs c i g pc).group? c.core c.slot = some h ∧
    h.lasting = { g with pc := pc, completing := false }.lasting :=
  group?_goes (State.group?_setGroup_self (State.group?_lt (State.ctx?_group hs).1)) i pc

theorem Aside.goesAs : Aside c.core c.slot s (s.goesAs c i g pc) := (Aside.setGroup s g).trans (Aside.goes _ c i pc)

end

/-! ## The progress count -/

theorem progress_blind : Blind fun g : Group => g.progress where
  floor _ _ := rfl
  rejoin _ _ := rfl
  stop _ _ _ := rfl

theorem stampFrom_progress (g x : Group) (i : Form) : (g.stampFrom x i).progress = g.progress := by
  unfold Group.stampFrom Group.stamp
  dsimp only
  split
  · rfl
  · generalize laneList.foldl (fun m l => max m ((g.lane l).act.P - (x.lane l).act.P).toNat) 0 = d
    split
    · split <;> rfl
    · rfl

theorem askBanks_keeps {α : Type} {f : Group → α} (hf : ∀ g x, f { g with bankAt := x } = f g) (s : State) (c : Ctx) (i : Form) :
    Keeps f s (s.askBanks c i) := by
  unfold State.askBanks
  split
  · exact .refl f s
  · exact (Keeps.modGroup f s _ _ fun g => hf g _).trans (Keeps.modCore f _ _ fun _ => rfl)

/-- An issue raises the progress count once (R152, R478). -/
theorem issues_progress {s : State} {c : Ctx} {g : Group} (hg : s.group? c.core c.slot = some g) (i : Form) :
    ((s.issues c i).group? c.core c.slot).map (·.progress) =
      some (if c.g.counted then g.progress else satInc16 g.progress) := by
  unfold State.issues
  split
  · rw [hg]; rfl
  · have kept : Keeps (fun g : Group => g.progress) s (((s.askBanks c i).countIssue c i).takePipe c i) :=
      ((askBanks_keeps (fun _ _ => rfl) s c i).trans (Keeps.countIssue _ _ c i)).trans (Keeps.takePipe _ _ c i)
    have hp := kept c.core c.slot
    rw [hg] at hp
    obtain ⟨h, hh, he⟩ := Option.map_eq_some_iff.mp hp
    have he' : h.progress = g.progress := he
    rw [group?_modGroup_map, hh, ← he']
    rfl

theorem issued_progress {s : State} {c : Ctx} {g : Group} (hg : s.group? c.core c.slot = some g) (i : Form) :
    ((s.issued c i).group? c.core c.slot).map (·.progress) =
      some (if c.g.counted then g.progress else satInc16 g.progress) := by
  have stored : ∀ g' : Group, ((s.setGroup c.core c.slot g').countWrites c i g').group? c.core c.slot = some g' := fun g' => by
    have := (Keeps.countWrites id (s.setGroup c.core c.slot g') c i g') c.core c.slot
    rwa [Option.map_id, id_eq, id_eq, State.group?_setGroup_self (State.group?_lt hg)] at this
  unfold State.issued
  simp only [hg]
  rw [(Keeps.stepDone progress_blind _ c.core c.slot) c.core c.slot, group?_modGroup_map, Option.map_map]
  refine (issues_progress (stored _) i).trans ?_
  rw [stampFrom_progress]

/-! ## Lanes -/

theorem modLanes_lane (g : Group) (E : LaneMask) (f : Fin 96 → Lane → Lane) (l : Fin 96) :
    (g.modLanes E f).lane l = if inMask E l.val then f l (g.lane l) else g.lane l := by
  simp [Group.modLanes, Group.lane]

theorem pushAll_frame (D : Nat) (vs : List Val) (a : LaneAct) : (a.pushAll D vs).frame = a.frame := by
  unfold LaneAct.pushAll
  induction vs generalizing a with
  | nil => rfl
  | cons v vs ih => rw [List.foldl_cons, ih]; rfl

theorem p_zero (l : Lane) : l.p 0 = true := rfl
theorem setP_zero (l : Lane) (b : Bool) : l.setP 0 b = l := rfl

/-- One bit of a predicate word. -/
theorem getLsbD_predBit {n i : Nat} (hi : i < 7) : (BitVec.ofNat 7 (2 ^ n)).getLsbD i = decide (n = i) := by
  rw [BitVec.getLsbD_ofNat, Nat.testBit_two_pow, decide_eq_true hi, Bool.true_and]

theorem setP_p_self (l : Lane) {n : Nat} (b : Bool) (h0 : 0 < n) (h8 : n < 8) : (l.setP n b).p n = b := by
  have hb := getLsbD_predBit (n := n - 1) (i := n - 1) (by omega)
  have hn : n ≠ 0 := by omega
  rw [decide_eq_true rfl] at hb
  rw [Lane.setP, if_neg hn, Lane.p]
  cases b
  · simp only [Bool.false_eq_true, if_false, BitVec.getLsbD_and, BitVec.getLsbD_not, hb, Bool.not_true, Bool.and_false, Bool.or_false,
      beq_eq_false_iff_ne, ne_eq, hn, not_false_eq_true]
  · simp only [if_true, BitVec.getLsbD_or, hb, Bool.or_true]

theorem setP_p_ne (l : Lane) {n k : Nat} (b : Bool) (hk : k ≠ n) (h8 : k < 8) : (l.setP n b).p k = l.p k := by
  unfold Lane.setP
  split
  · rfl
  · cases k with
    | zero => rfl
    | succ k =>
      have hb := getLsbD_predBit (n := n - 1) (i := k) (by omega)
      have hne : ¬ n - 1 = k := by omega
      rw [decide_eq_false hne] at hb
      simp only [Lane.p, Nat.add_sub_cancel]
      cases b
      · simp only [Bool.false_eq_true, if_false, BitVec.getLsbD_and, BitVec.getLsbD_not, hb, Bool.not_false, Bool.and_true,
          show k < 7 by omega, decide_true]
      · simp only [if_true, BitVec.getLsbD_or, hb, Bool.or_false]

section
variable (D pd n : Nat) (l : Lane) (o : LaneOut)

theorem setP_act (b : Bool) : (l.setP n b).act = l.act := by unfold Lane.setP; split <;> rfl
theorem setP_flags (b : Bool) : (l.setP n b).flags = l.flags := by unfold Lane.setP; split <;> rfl

theorem apply_frame : (l.apply D pd o).act.frame = l.act.frame := by
  unfold Lane.apply
  dsimp only
  split
  · rw [setP_act]; exact pushAll_frame D _ l.act
  · exact pushAll_frame D _ l.act

theorem apply_flags : (l.apply D pd o).flags = l.flags ||| o.flags := by
  unfold Lane.apply
  dsimp only
  split
  · rw [setP_flags]
  · rfl

theorem apply_p_ne (h : n ≠ pd ∨ o.pred = none) (h8 : n < 8) : (l.apply D pd o).p n = l.p n := by
  unfold Lane.apply
  dsimp only
  split
  · next b hb =>
    have hne : n ≠ pd := h.resolve_right (by simp [hb])
    rw [setP_p_ne _ _ hne h8]
    rfl
  · rfl

theorem apply_p_self {b : Bool} (h : o.pred = some b) (h0 : 0 < pd) (h8 : pd < 8) : (l.apply D pd o).p pd = b := by
  simp only [Lane.apply, h]
  exact setP_p_self _ b h0 h8

end

/-- Settles O18. -/
theorem localInstructionsKeepTheRest : Obligations.LocalInstructionsKeepTheRest := by
  unfold Obligations.LocalInstructionsKeepTheRest
  refine ⟨fun s t c i g pc hs ht => ?_, ⟨fun g E f l => ?_, fun g E f => ⟨rfl, rfl, rfl, rfl, rfl⟩,
    fun D pd n l o => ⟨apply_frame D pd l o, apply_flags D pd l o, apply_p_ne D pd n l o, fun b => apply_p_self D pd l o⟩,
    fun l n b => ⟨rfl, rfl, setP_p_self l b⟩⟩⟩
  · subst ht
    have aside := Aside.goesAs s c i g pc
    obtain ⟨h, hh, hlast⟩ := goesAs_group? s c i g pc hs
    refine ⟨by simp [State.goesAs, State.goes], by simp [State.goesAs, State.goes], by simp [State.goesAs, State.goes],
      by simp [State.goesAs, State.goes], by simp [State.goesAs, State.goes], by simp [State.goesAs, State.goes],
      by simp [State.goesAs, State.goes], by simp [State.goesAs, State.goes], by simp [State.goesAs, State.goes],
      by simp [State.goesAs, State.goes], by simp [State.goesAs, State.goes], by simp [State.goesAs, State.goes],
      by simp [State.goesAs, State.goes], aside.wgs, aside.groups, h, hh, ?_⟩
    have lanes : ∀ l : Fin 96, (h.lane l).lasting = (g.lane l).lasting := fun l => by
      have := congrArg (fun x : Group => x.lanes[l]) hlast
      simpa only [Group.lasting, Group.lane, Fin.getElem_fin, Vector.getElem_map] using this
    have progress := issued_progress (s := (s.setGroup c.core c.slot g).modGroup c.core c.slot fun g =>
      { g with pc := pc, completing := false }) (State.group?_modGroup_self (State.group?_setGroup_self
        (State.group?_lt (State.ctx?_group hs).1))) i
    rw [show (State.issued _ c i).group? c.core c.slot = some h from hh] at progress
    have field : ∀ {α : Type} (F : Group → α), F h.lasting = F ({ g with pc := pc, completing := false } : Group).lasting :=
      fun F => congrArg F hlast
    refine ⟨field Group.pc, field Group.s, fun l => ?_, field Group.members, field Group.stack, field Group.rets,
      field Group.base, field Group.frameSize, field Group.depth, field Group.csr, field Group.t0, field Group.t1,
      field Group.sq, field Group.pends, field Group.spend, field Group.gstate, Option.some.inj progress⟩
    have part : ∀ {α : Type} (F : Lane → α), F (h.lane l).lasting = F (g.lane l).lasting := fun F => congrArg F (lanes l)
    exact ⟨part Lane.preds, part Lane.flags, part Lane.rep, part (·.act.P), part (·.act.F), part (·.act.coil), part (·.act.frame)⟩
  · rw [modLanes_lane]
    exact ⟨fun h => if_pos h, fun h => if_neg (by simp [h])⟩

end Sys2Proof.Machine

/-! # Memory instructions at issue (R306, R316, R426)

With the translations in the core's TLB, an access that issues changes no byte. A load may give miss slots to requests of
other groups; a store or an atomic leaves every other group as it is. -/

namespace Sys2Proof.Machine

/-! ## Translations at hand -/

/-- A core that has a translation exists. -/
theorem lt_of_tlbFind {s : State} {core vf va : Nat} {w : Bool} (h : (tlbFind (s.core core).tlb vf va w).isSome = true) :
    core < 64 := by
  refine Decidable.byContradiction fun hc => ?_
  simp [State.core, hc, tlbFind] at h

theorem touch_of_tlb {s : State} {core vf va : Nat} {w : Bool} (h : (tlbFind (s.core core).tlb vf va w).isSome = true)
    (origin : Nat) : s.touch core vf va w origin = s := by
  obtain ⟨e, he⟩ := Option.isSome_iff_exists.mp h
  have hcore : ¬ core ≥ 64 := Nat.not_le.mpr (lt_of_tlbFind h)
  have hhit : s.tlbHit core vf va w = some e := by simp [State.tlbHit, hcore, he]
  simp [State.touch, hhit, h]

/-- What one access that stands does to the tables, the log and the TLBs. -/
def State.touchOne (s : State) (c : Ctx) (w : Bool) (p : LaneAt) : State := match p.loc with
  | .phys _ => s.touch c.core c.g.vf (p.va.toNat % 2 ^ 57) w 0
  | _ => s

theorem touchAll_eq (s : State) (c : Ctx) (w : Bool) (ls : List LaneAt) :
    s.touchAll c w ls = ls.foldl (fun s p => s.touchOne c w p) s := rfl

theorem touchAll_of_tlb {s : State} {c : Ctx} {ls : List LaneAt} {w : Bool} (h : ∀ p ∈ ls, (∃ pa, p.loc = .phys pa) →
    (tlbFind (s.core c.core).tlb c.g.vf (p.va.toNat % 2 ^ 57) w).isSome = true) : s.touchAll c w ls = s := by
  rw [touchAll_eq]
  induction ls with
  | nil => rfl
  | cons p ls ih =>
    have hp : s.touchOne c w p = s := by
      unfold State.touchOne
      split
      · next pa hloc => exact touch_of_tlb (h p List.mem_cons_self ⟨pa, hloc⟩) 0
      · rfl
    rw [List.foldl_cons, hp]
    exact ih fun q hq => h q (List.mem_cons_of_mem _ hq)

/-! ## What an issued access leaves -/

/-- The bytes, and what f reads of every group but one. -/
structure KeepsElse {α : Type} (f : Group → α) (c n : Nat) (s t : State) : Prop extends SameBytes s t where
  groups : ∀ d m, (d, m) ≠ (c, n) → (t.group? d m).map f = (s.group? d m).map f

section
variable {α : Type} {f : Group → α} {c n : Nat}

theorem KeepsElse.refl (f : Group → α) (c n : Nat) (s : State) : KeepsElse f c n s s := ⟨.refl s, fun _ _ _ => rfl⟩

theorem KeepsElse.trans {s t u : State} (h : KeepsElse f c n s t) (k : KeepsElse f c n t u) : KeepsElse f c n s u :=
  ⟨h.toSameBytes.trans k.toSameBytes, fun d m e => (k.groups d m e).trans (h.groups d m e)⟩

theorem KeepsElse.of_keeps {s t : State} (h : SameBytes s t) (k : Keeps f s t) : KeepsElse f c n s t := ⟨h, fun d m _ => k d m⟩

theorem KeepsElse.modGroup (f : Group → α) (s : State) (h : Group → Group) : KeepsElse f c n s (s.modGroup c n h) :=
  ⟨SameBytes.modGroup s c n h, fun d m e => congrArg _ ((Aside.modGroup s h).groups d m e)⟩

theorem KeepsElse.newId (f : Group → α) (s : State) : KeepsElse f c n s s.newId.2 :=
  .of_keeps (.of_cores rfl rfl rfl) (.of_cores f rfl)

theorem KeepsElse.foldl {β : Type} {step : State → β → State} (h : ∀ s b, KeepsElse f c n s (step s b)) (l : List β) (s : State) :
    KeepsElse f c n s (l.foldl step s) := by
  induction l generalizing s with
  | nil => exact .refl f c n s
  | cons b l ih => exact (h s b).trans (ih _)

/-- The same of a fold that answers more than a state. -/
theorem KeepsElse.foldl_fst {β γ : Type} {step : State × γ → β → State × γ} (h : ∀ r b, KeepsElse f c n r.1 (step r b).1)
    (l : List β) (r : State × γ) : KeepsElse f c n r.1 (l.foldl step r).1 := by
  induction l generalizing r with
  | nil => exact .refl f c n r.1
  | cons b l ih => exact (h r b).trans (ih _)

theorem KeepsElse.sendReq (hf : ∀ g id, f (g.giveSlot id) = f g) (s : State) (q : PendReq) : KeepsElse f c n s (s.sendReq c n q) :=
  (KeepsElse.modGroup f s _).trans (.of_keeps (SameBytes.settleSlots _ _) (Keeps.settleSlots hf _ _))

theorem KeepsElse.lookup (f : Group → α) (s : State) (x : Ctx) (via : Via) (loc : Loc) (hit : Bool) :
    KeepsElse f c n s (s.lookup x via loc hit) := by
  unfold State.lookup
  split
  · exact .of_keeps (SameBytes.count _ _ _ _ _) (Keeps.count f _ _ _ _ _)
  · exact .refl f c n s

theorem KeepsElse.acquire (f : Group → α) (s : State) (core ctx : Nat) (sc : Scope) :
    KeepsElse f c n s (s.acquire core ctx sc) := .of_keeps (SameBytes.acquire ..) (Keeps.acquire f s core ctx sc)

theorem KeepsElse.loadLine (f : Group → α) (s : State) (core part ctx : Nat) (via : Via) (hint : Nat) (loc : Loc) :
    KeepsElse f c n s (s.loadLine core part ctx via hint loc) := .of_keeps (SameBytes.loadLine ..) (Keeps.loadLine f s core part ctx via hint loc)

end

/-- A group without the miss slots of its requests. -/
def Group.slotless (g : Group) : Group := { g with pends := g.pends.map fun p => { p with slot := false } }

theorem slotless_giveSlot (g : Group) (id : Nat) : (g.giveSlot id).slotless = g.slotless := by
  unfold Group.slotless Group.giveSlot
  congr 1
  rw [List.map_map]
  refine List.map_congr_left fun p _ => ?_
  dsimp only [Function.comp]
  split <;> rfl

theorem KeepsElse.issueLoad (s : State) (c : Ctx) (size : Nat) (sext line : Bool) (acq : Option Scope) (hint : Nat)
    (ls : List LaneAt) (h : s.touchAll c false ls = s) :
    KeepsElse Group.slotless c.core c.slot s (s.issueLoad c size sext line acq hint ls).1 := by
  have acquired : ∀ (u : State) (vals : List (Nat × Val)), KeepsElse Group.slotless c.core c.slot s u →
      KeepsElse Group.slotless c.core c.slot s (match acq with
        | some sc => (u.acquire c.core c.g.vf sc, vals)
        | none => (u, vals)).1 := by
    intro u vals hu
    split
    · exact hu.trans (KeepsElse.acquire _ u _ _ _)
    · exact hu
  unfold State.issueLoad
  simp only [h]
  refine acquired _ _ (KeepsElse.foldl_fst (fun r mine => ?_) _ (s, [], !c.g.loads.isEmpty))
  have looked := fun via loc hit => KeepsElse.lookup (c := c.core) (n := c.slot) Group.slotless r.1 c via loc hit
  split
  · exact .refl _ _ _ r.1
  · split
    · exact (looked _ _ _).trans (KeepsElse.loadLine _ _ _ _ _ _ _ _)
    · exact ((looked _ _ _).trans (KeepsElse.newId _ _)).trans (KeepsElse.sendReq slotless_giveSlot _ _)

theorem Aside.queueAtomic (s : State) (c : Ctx) (op : Nat → BeatOp) (order : BitVec 2) (sc : Scope) (es : List SqElem)
    (vas : Nat → DWord) : KeepsElse id c.core c.slot s (s.queueAtomic c op order sc es vas).1 := by
  unfold State.queueAtomic
  refine KeepsElse.foldl_fst (fun r b => ?_) _ (s, fun _ => none)
  exact (KeepsElse.newId id r.1).trans (KeepsElse.modGroup id r.1.newId.2 _)

/-- Settles O19. -/
theorem memoryInstructionsKeepMemoryAtIssue : Obligations.MemoryInstructionsKeepMemoryAtIssue := by
  unfold Obligations.MemoryInstructionsKeepMemoryAtIssue
  intro s c ls w h
  refine ⟨touchAll_of_tlb h, fun bs => ?_, fun hw t size hint sext line acq ht => ?_, fun t op order sc es vas ht => ?_⟩
  · have same := SameBytes.modGroup s c.core c.slot fun g => { g with sq := g.sq ++ bs }
    exact ⟨same.mem, same.dscr, same.wgs, (Aside.modGroup s _).groups⟩
  · subst hw
    have kept := KeepsElse.issueLoad s c size sext line acq hint ls (touchAll_of_tlb h)
    rw [← ht] at kept
    exact ⟨kept.mem, kept.dscr, kept.wgs, kept.groups⟩
  · have kept := Aside.queueAtomic s c op order sc es vas
    rw [← ht] at kept
    exact ⟨kept.mem, kept.dscr, kept.wgs, fun k n e => by simpa using kept.groups k n e⟩

end Sys2Proof.Machine

/-! # Pushes (R171) -/

namespace Sys2Proof.Machine

/-- A sorted table reads at the key just set what was set. -/
theorem nget_nset_self_of_sorted {α : Type} [DecidableEq α] (d : α) (m : NMap α) (n : Nat) (x : α)
    (hm : nsorted none m = true) : nget d (nset d m n x) n = x := by
  unfold nset
  split
  · next h => rw [h]; exact nget_ndel_self d m n hm
  · exact nget_nins_self d m n x

section
variable {D n : Nat} {P : BitVec 32}

theorem mod_mod_of_coil (h : D ∣ 2 ^ 32) (x : Nat) : x % 2 ^ 32 % D = x % D := Nat.mod_mod_of_dvd x h

/-- The slot of age 1 is the one the push counts as its own. -/
theorem index_one (h : D ∣ 2 ^ 32) (a : LaneAct) : a.index D 1 = a.P.toNat % D := by
  obtain ⟨k, hk⟩ := h
  rw [LaneAct.index, hk, Nat.add_sub_cancel, Nat.add_mul_mod_self_left]

/-- The slot of an age once one more value has been pushed. -/
theorem index_push (h : D ∣ 2 ^ 32) (hn : n < D) (a : LaneAct) (v : Val) :
    (a.push D v).index D (n + 1) = a.index D n := by
  have hD : D ≤ 2 ^ 32 := Nat.le_of_dvd (by decide) h
  have hP := a.P.isLt
  have hsucc : (a.push D v).P.toNat = (a.P.toNat + 1) % 2 ^ 32 := by
    rw [LaneAct.push, BitVec.toNat_add]; rfl
  obtain ⟨k, hk⟩ := h
  rw [LaneAct.index, LaneAct.index, hsucc]
  rcases Nat.lt_or_ge (a.P.toNat + 1) (2 ^ 32) with hlt | hge
  · rw [Nat.mod_eq_of_lt hlt]
    congr 1
    omega
  · have hwrap : a.P.toNat + 1 = 2 ^ 32 := by omega
    rw [hwrap, Nat.mod_self, show a.P.toNat + 2 ^ 32 + 1 - n = 2 ^ 32 + 1 - (n + 1) + D * k by omega, Nat.add_mul_mod_self_left,
      Nat.zero_add]

/-- Ages 1 to D have slots of their own. -/
theorem index_ne (h : D ∣ 2 ^ 32) (h0 : 0 < n) (hn : n < D) (a : LaneAct) : a.index D (n + 1) ≠ a.P.toNat % D := by
  have hD : D ≤ 2 ^ 32 := Nat.le_of_dvd (by decide) h
  obtain ⟨k, hk⟩ := h
  rw [LaneAct.index]
  intro e
  have hmod : (a.P.toNat + 2 ^ 32 + 1 - (n + 1)) % D = (a.P.toNat + 2 ^ 32) % D := by
    rw [e, hk, Nat.add_mul_mod_self_left]
  have hdvd : D ∣ (a.P.toNat + 2 ^ 32) - (a.P.toNat + 2 ^ 32 + 1 - (n + 1)) :=
    Nat.dvd_of_mod_eq_zero (Nat.sub_mod_eq_zero_of_mod_eq hmod.symm)
  rw [show a.P.toNat + 2 ^ 32 - (a.P.toNat + 2 ^ 32 + 1 - (n + 1)) = n by omega] at hdvd
  exact absurd (Nat.le_of_dvd h0 hdvd) (by omega)

end

/-- A push makes one more value live, up to D of them. -/
theorem count_push {D : Nat} (a : LaneAct) (v : Val) (h0 : 0 < D) (hD : D < 2 ^ 31) (hc : a.count ≤ D) :
    (a.push D v).count = min D (a.count + 1) := by
  have hcount : (a.P + 1 - a.F).toNat = a.count + 1 := by
    unfold LaneAct.count at hc ⊢
    bv_omega
  unfold LaneAct.push LaneAct.count at *
  dsimp only at *
  rw [hcount]
  split
  · next h =>
    rw [Nat.min_eq_left (by omega)]
    bv_omega
  · next h => rw [hcount]; omega

/-- Settles O20. -/
theorem coilPushes : Obligations.CoilPushes := by
  unfold Obligations.CoilPushes
  refine ⟨fun D a v hD hdvd hs => ?_, fun D n a v hD hdvd h0 hn => ?_, fun D a v h0 hD hc => ⟨count_push a v h0 hD hc, rfl⟩⟩
  · rw [LaneAct.age, index_one hdvd]
    exact nget_nset_self_of_sorted _ _ _ v hs
  · have hne := index_ne hdvd h0 hn (a.push D v)
    rw [LaneAct.age, LaneAct.age, ← index_push hdvd hn a v]
    exact nget_nset_ne _ _ v hne

end Sys2Proof.Machine

/-! # Group-wide instructions with no executing lane (R64, R65)

Each of them ends at its test of E, before it reads or changes anything. -/

namespace Sys2Proof.Machine

theorem csrw_skip {f : TOps} {s : State} {c : Ctx} {pc : PC} (h : Issues s c f.g1 f.g2 0 pc)
    (hr : f.imm.toNat ≠ 7 ∨ c.g.csr.inHandler = true) : exec (.csrw f) s = .next (s.goes c (.t 0x1A4 f) pc) := by
  show execCsrw f s = _
  refine instr_goes h ?_
  have hok : ¬ (f.imm.toNat = 7 ∧ (!c.g.csr.inHandler) = true) := by
    obtain hr | hr := hr <;> simp [hr]
  simp only [h.maskWait, h.maskSound, h.exec, hok, ok_bind, if_false, if_true, pure_eq_ok]

/-- The instructions that do nothing but move on where no lane executes. -/
theorem exec_of_skips {i : Instr} {g1 g2 : Guard} {s : State} {c : Ctx} {pc : PC} (hs : skips i = some (g1, g2))
    (h : Issues s c g1 g2 0 pc) : exec i s = .next (s.goes c i.form pc) := by
  cases i
  case csrw f =>
    by_cases h7 : f.imm.toNat = 7
    · simp [skips, h7] at hs
    · simp only [skips, h7, if_false, Option.some.injEq, Prod.mk.injEq] at hs
      obtain ⟨rfl, rfl⟩ := hs
      exact csrw_skip h (.inl h7)
  case cpy f =>
    obtain ⟨rfl, rfl⟩ : f.g1 = g1 ∧ f.g2 = g2 := by simpa only [skips, Option.some.injEq, Prod.mk.injEq] using hs
    exact instr_goes h (by simp only [copyBody, h.maskWait, h.maskSound, h.exec, map_ok, ok_bind, if_true, pure_eq_ok])
  case bfly f =>
    obtain ⟨rfl, rfl⟩ : f.g1 = g1 ∧ f.g2 = g2 := by simpa only [skips, Option.some.injEq, Prod.mk.injEq] using hs
    exact instr_goes h (by simp only [stagesBody, h.mask, h.exec, ok_bind, if_true, pure_eq_ok])
  case bflyp f =>
    obtain ⟨rfl, rfl⟩ : f.g1 = g1 ∧ f.g2 = g2 := by simpa only [skips, Option.some.injEq, Prod.mk.injEq] using hs
    exact instr_goes h (by simp only [stagesBody, h.mask, h.exec, ok_bind, if_true, pure_eq_ok])
  all_goals simp only [skips, Option.some.injEq, Prod.mk.injEq, reduceCtorEq] at hs
  all_goals
    obtain ⟨rfl, rfl⟩ := hs
    delta exec
    refine instr_goes h ?_
    simp only [h.mask, h.exec, ok_bind, if_true, pure_eq_ok]

/-- Settles O21. -/
theorem groupInstructionsSkip : Obligations.GroupInstructionsSkip := by
  unfold Obligations.GroupInstructionsSkip
  refine ⟨fun i g1 g2 s c pc hs h => exec_of_skips hs h, fun r hr f s c pc h => ?_, fun f s c E pc h h7 => ⟨fun hin hE => ?_, fun hin => ?_⟩⟩
  · rw [exec_scalarRow r hr]
    exact scalarInstr_skip h
  · subst hE
    exact csrw_skip h (.inr hin)
  · show execCsrw f s = _
    refine instr_fault h.running h.group ?_
    simp only [h.maskWait, h.exec, h7, hin, ok_bind, Bool.not_false, and_self, if_true, raise, error_bind, fcIllegal]

end Sys2Proof.Machine

/-! # Copies at issue (R330, R332) -/

namespace Sys2Proof.Machine

theorem copyBody_ok {op kind : Nat} {f : EOps} {s : State} {c : Ctx} {E : LaneMask} {pc : PC} {v : Vector DWord 96}
    {src dst : DWord} {x : Nat} {idxs : List (Nat × Word)} {k : CopyCmd} {lines : List (Nat × Nat × Nat)}
    (h : Issues s c f.g1 f.g2 E pc) (hne : E ≠ 0)
    (hv : kind ≠ 0 → c.checkNames E [(f.an, 1)] = .ok () ∧ c.readLanes E (c.vsrc (s.wgidOf c) .n32 f.cnt false f.an) = .ok v)
    (hsrc : c.readS f.p.val = .ok src) (hdst : c.readS f.q.val = .ok dst)
    (hbad : cpyBad kind (c.kreg f.kix.val) f.kix.val f.cnt.toNat dst = false)
    (hidxs : idxs = if kind = 0 then [] else (lanesOf (E &&& ~~~c.g.helper)).map fun l => (l.val, lowWord v[l]))
    (hchecks : s.copyChecks c E kind f.cnt.toNat idxs.length src dst (c.kreg f.kix.val) (c.kreg (f.kix.val + 1))
      (c.kreg (f.kix.val + 2)) = .ok ())
    (hsq : c.g.sq = []) (hloads : c.g.loads = []) (hx : s.copyContext c = some x)
    (hk : k = { id := s.nextId, slot := c.slot, vf := c.g.vf, part := c.g.part, wg := c.g.wg, ctx := x,
                seq := c.g.t0.nextSeq 0, pc := c.g.pc.word, card := c.card, kind := kind, lanes := E, src := src, dst := dst,
                k0 := c.kreg f.kix.val, k1 := c.kreg (f.kix.val + 1), k2 := c.kreg (f.kix.val + 2), cnt := f.cnt.toNat,
                idxs := idxs, entryB := c.g.entryB })
    (hlines : lines = s.newId.2.spadLines (k.req c.core) k.dsts) :
    copyBody op kind f c s = .ok (((lines.foldl (fun s x => s.dueLine x true) s.newId.2).modCore c.core fun q =>
      { q with copies := q.copies ++ [{ k with lines := lines }], ctxOwner := q.ctxOwner.set! x (some c.slot) }).withGroup c
        fun g => { g with t0 := g.t0.issue s.nextId f.commit, copyCtx := some x }) := by
  by_cases hkind : kind = 0
  · subst hkind
    rw [if_pos rfl] at hidxs
    simp only [copyBody, h.maskWait, h.maskSound, h.exec, hne, hsrc, hdst, ← hidxs, quiet_ok hsq hloads, hx, ok_bind, map_ok,
      pure_eq_ok, if_false, if_true, hbad, hchecks, Bool.false_eq_true]
    subst hk hlines
    rfl
  · rw [if_neg hkind] at hidxs
    obtain ⟨hnames, hread⟩ := hv hkind
    simp only [copyBody, h.maskWait, h.exec, hkind, hne, hnames, hread, hsrc, hdst, hbad, ← hidxs, hchecks, quiet_ok hsq hloads, hx,
      ok_bind, pure_eq_ok, if_false, Bool.false_eq_true]
    subst hk hlines
    rfl

/-- Settles O22. -/
theorem copiesIssue : Obligations.CopiesIssue := by
  unfold Obligations.CopiesIssue
  intro r f s c E pc v src dst x idxs k lines hr h hne hv hsrc hdst hbad hidxs hchecks hsq hloads hx hk hlines
  have body : ∀ op, copyBody op r.2.1 f c s = _ := fun op =>
    copyBody_ok h hne hv hsrc hdst hbad hidxs hchecks hsq hloads hx hk hlines
  simp only [List.mem_cons, List.not_mem_nil, or_false] at hr
  obtain rfl | rfl | rfl := hr
  · show execCpy f s = _
    exact instr_goes h (body _)
  · show execCpyg f s = _
    exact instr_goes h (body _)
  · show execCpys f s = _
    exact instr_goes h (body _)

end Sys2Proof.Machine

/-! # Timelines, barriers and phase objects (R337 to R346) -/

namespace Sys2Proof.Machine

theorem loadsDone_ok {c : Ctx} (h : c.g.loads = []) : c.loadsDone = .ok () := by simp [Ctx.loadsDone, h]

/-- Parking for anything but an access. -/
theorem park_notHeld (s : State) (c : Ctx) (i : Form) (w : WaitRec) {r : Resume} (hr : r ≠ .replay) :
    NotHeld (s.park c i w r) c.core c.slot :=
  (NotHeld.modGroup _ c.core c.slot fun _ => hr).issued i

/-- Settles O23. -/
theorem timelinesComplete : Obligations.TimelinesComplete := by
  unfold Obligations.TimelinesComplete
  refine ⟨⟨?_, ?_, ?_, ?_⟩, ?_, ?_⟩
  · intro f s c E pc h hne hfree
    show execCmt f s = _
    refine instr_storesGroup h ?_
    simp only [h.mask, h.exec, hne, hfree, ok_bind, pure_eq_ok, if_false]
  · intro f s c E pc v h hne hop hv hdone
    show execWaitt f s = _
    refine instr_goes h ?_
    cases hback : f.op.getLsbD 2 with
    | true =>
      rw [hback, if_pos rfl] at hdone
      simp only [h.mask, h.exec, hne, h.nextPc, hop, hdone, ok_bind, pure_eq_ok, if_false, if_true, Bool.false_eq_true]
    | false =>
      rw [hback, if_neg (by decide)] at hdone
      simp only [h.mask, h.exec, hne, h.nextPc, hop, hv hback, hdone, ok_bind, pure_eq_ok, if_false, if_true,
        Bool.false_eq_true]
  · intro f s u c E pc a v loc h hne hop ha hv hplace hloads hqueued hdone
    show execWaitt f s = _
    refine instr_goes h ?_
    simp only [h.mask, h.exec, hne, h.nextPc, hop, ha, hv, hplace, loadsDone_ok hloads, hqueued, hdone, ok_bind, pure_eq_ok,
      if_false, if_true]
  · intro f s c E pc h hne hfree
    show execTlrd f s = _
    refine instr_goes h ?_
    simp only [h.mask, h.exec, hne, hfree, ok_bind, pure_eq_ok, if_false]
    split <;> rfl
  · intro f s c E pc v n h hne hop hv hn hwait
    show execWaitt f s = _
    refine instr_out h.running h.group ?_ (park_notHeld _ _ _ _ nofun)
    have hnot : ¬ n ≤ (c.g.tl (f.op.toNat % 2)).k := Nat.not_le.mpr hwait
    cases hback : f.op.getLsbD 2 with
    | true =>
      rw [hback, if_pos rfl] at hn
      simp only [h.mask, h.exec, hne, h.nextPc, hop, ← hn, hnot, ok_bind, if_false, if_true, Bool.false_eq_true]
    | false =>
      rw [hback, if_neg (by decide)] at hn
      simp only [h.mask, h.exec, hne, h.nextPc, hop, hv hback, ← hn, hnot, ok_bind, if_false, Bool.false_eq_true]
  · intro f s u c E pc a v loc h hne hop ha hv hplace hloads hqueued hwait
    show execWaitt f s = _
    refine instr_out h.running h.group ?_ (park_notHeld _ _ _ _ nofun)
    simp only [h.mask, h.exec, hne, h.nextPc, hop, ha, hv, hplace, loadsDone_ok hloads, hqueued, Nat.not_le.mpr hwait, ok_bind,
      if_false, if_true]

/-! ## Barriers -/

theorem settled_notHeld {s : State} {c n : Nat} (h : NotHeld s c n) (cl : Bool) (core w b : Nat) :
    NotHeld ((if cl then State.settleBarc else State.settleBar) s core w b) c n := by
  cases cl with
  | true => exact h.of_keeps (Keeps.settleBarc (fun _ => rfl) s core w b)
  | false => exact h.of_keeps (Keeps.settleBar (fun _ => rfl) s core w b)

section
variable {f : TOps} {s u : State} {c : Ctx} {E : LaneMask} {pc : PC} {cl : Bool} {b ph op : Nat}

/-- A group that arrives: it parks where its arrival does not complete the phase, and goes on at once where it does. -/
theorem barrierBody_eq (h : Issues s c f.g1 f.g2 E pc) (hhandler : c.g.csr.inHandler = false) (hflags : c.flagsIn = .ok ())
    (harith : c.arith E s = none) (hsq : c.g.sq = []) (hloads : c.g.loads = []) (hph : ph = s.barPhase c.core c.g.wg cl b)
    (hu : u = (if cl then State.settleBarc else State.settleBar) ((s.arriveBar c.core c.slot c.g.wg cl b).park c (.t op f)
      { kind := if cl then 6 else 5, obj := BitVec.ofNat 64 b, val := BitVec.ofNat 64 ph } (.barrier cl b ph)) c.core c.g.wg b) :
    barrierBody cl b op f c s = .error (.out (if u.barPhase c.core c.g.wg cl b = ph then u
      else (if cl then u.acquire c.core c.g.vf .cluster else u).withGroup c fun g =>
        { g with pc := pc, wait := {}, resume := .none })) := by
  subst hu hph
  cases cl
  all_goals
    simp only [barrierBody, h.mask, h.exec, notInHandler_ok hhandler, hflags, harith, quiet_ok hsq hloads, h.nextPc, ok_bind, if_true,
      if_false, Bool.false_eq_true]
    split <;> rfl

theorem barrier_notHeld (hu : NotHeld u c.core c.slot) : NotHeld (if u.barPhase c.core c.g.wg cl b = ph then u
      else (if cl then u.acquire c.core c.g.vf .cluster else u).withGroup c fun g =>
        { g with pc := pc, wait := {}, resume := .none }) c.core c.slot := by
  split
  · exact hu
  · exact NotHeld.modGroup _ c.core c.slot fun _ => nofun

end

/-- Settles O24. -/
theorem barriersComplete : Obligations.BarriersComplete := by
  unfold Obligations.BarriersComplete
  intro f s u c E pc cl b ph h hhandler hflags harith hsq hloads hb hph hu
  have hheld : NotHeld u c.core c.slot := by
    rw [hu]
    exact settled_notHeld (park_notHeld _ _ _ _ (r := .barrier cl b ph) nofun) cl _ _ _
  have body := barrierBody_eq h hhandler hflags harith hsq hloads hph hu
  cases cl with
  | true =>
    rw [if_pos rfl] at hb
    subst hb
    show execBarc f s = _
    exact instr_out h.running h.group body (barrier_notHeld hheld)
  | false =>
    rw [if_neg (by decide)] at hb
    subst hb
    show execBar f s = _
    exact instr_out h.running h.group body (barrier_notHeld hheld)

/-! ## Phase objects -/

theorem presence_ok {s : State} {loc : Loc} {a : DWord} (h : s.absentLine loc = false) : s.presence loc a = .ok () := by
  simp [State.presence, h]

/-- Settles O25. -/
theorem phaseObjectsComplete : Obligations.PhaseObjectsComplete := by
  unfold Obligations.PhaseObjectsComplete
  refine ⟨?_, ?_, ?_, ?_, ?_⟩
  · intro f s u c g E pc a loc h hne hfree ha hplace hpresent hclean hsq hloads hn hg
    show execArv f s = _
    refine instr_goes h ?_
    simp only [h.mask, h.exec, hne, hfree, ha, hplace, presence_ok hpresent, hclean, quiet_ok hsq hloads, Nat.not_lt.mpr hn, hg, ok_bind,
      pure_eq_ok, if_false, Bool.false_eq_true]
  · intro f s u c E pc a v loc h hne ha hv hplace hpresent hloads hqueued
    show execWph f s = _
    split
    · next hpast =>
      refine instr_goes h ?_
      simp only [h.mask, h.exec, hne, h.nextPc, ha, hv, hplace, presence_ok hpresent, loadsDone_ok hloads, hqueued, hpast, ok_bind,
        pure_eq_ok, if_false, if_true]
    · next hpast =>
      refine instr_out h.running h.group ?_ (park_notHeld _ _ _ _ nofun)
      simp only [h.mask, h.exec, hne, h.nextPc, ha, hv, hplace, presence_ok hpresent, loadsDone_ok hloads, hqueued, hpast, ok_bind,
        if_false]
  · intro f s c E pc h hne
    show execYield f s = _
    refine instr_goes h ?_
    simp only [h.mask, h.exec, hne, ok_bind, pure_eq_ok, if_false]
  · intro w0 phase n hn
    have h0 : ¬ w0 % 2 ^ 32 - n = 0 := by omega
    simp only [arvWords, h0, if_false]
  · intro w0 phase
    simp only [arvWords, Nat.sub_self, if_true]

end Sys2Proof.Machine

/-! # The matrix engine at issue (R353 to R371, R384 to R397) -/

namespace Sys2Proof.Machine

/-- Settles O26. -/
theorem batonAndTilesComplete : Obligations.BatonAndTilesComplete := by
  unfold Obligations.BatonAndTilesComplete
  refine ⟨fun f s c E pc h hne hhandler => ⟨fun hown => ?_, fun hfree => ?_, fun n hother hn => ?_⟩,
    fun f s c E pc h hne => ⟨fun hown => ?_, fun hother => ?_⟩,
    fun f s c E pc x h hne hhandler hx => ⟨fun hown => ?_, fun hfree hidle => ?_, fun hother => ?_⟩,
    fun f s c E pc h hne hown hclosed => ?_⟩
  · show execBtake f s = _
    refine instr_goes h ?_
    simp only [h.mask, h.exec, hne, notInHandler_ok hhandler, h.nextPc, hown, ok_bind, pure_eq_ok, if_false, if_true]
  · show execBtake f s = _
    refine instr_goes h ?_
    simp only [h.mask, h.exec, hne, notInHandler_ok hhandler, h.nextPc, hfree, ok_bind, pure_eq_ok, if_false, if_true, reduceCtorEq,
      Option.isNone_none]
  · show execBtake f s = _
    refine instr_out h.running h.group ?_ (park_notHeld _ _ _ _ nofun)
    simp only [h.mask, h.exec, hne, notInHandler_ok hhandler, h.nextPc, hother, hn, ok_bind, if_false, Option.some.injEq,
      Option.isNone_some, Bool.false_eq_true]
  · show execBpass f s = _
    refine instr_goes h ?_
    simp only [h.mask, h.exec, hne, hown, ok_bind, pure_eq_ok, if_false, if_true]
    rfl
  · show execBpass f s = _
    refine instr_faultOpen h.running h.group ?_
    simp only [h.mask, h.exec, hne, hother, ok_bind, if_false, raiseOpen, fcBaton]
  · subst hx
    show execTalloc f s = _
    refine instr_goes h ?_
    simp only [h.mask, h.exec, hne, notInHandler_ok hhandler, h.nextPc, hown, ok_bind, pure_eq_ok, if_false, if_true]
  · subst hx
    show execTalloc f s = _
    refine instr_goes h ?_
    simp only [h.mask, h.exec, hne, notInHandler_ok hhandler, h.nextPc, hfree, hidle, ok_bind, pure_eq_ok, if_false, if_true,
      reduceCtorEq, Option.isNone_none, Bool.not_false, Bool.and_self]
  · subst hx
    show execTalloc f s = _
    refine instr_out h.running h.group ?_ (park_notHeld _ _ _ _ nofun)
    have hnot : (s.tile c.core f.tile.val).owner ≠ some c.slot := by
      obtain ⟨n, hn, hne⟩ | ⟨hn, -⟩ := hother <;> simp [*]
    have htaken : ((s.tile c.core f.tile.val).owner.isNone && !(s.tile c.core f.tile.val).freeing) = false := by
      obtain ⟨n, hn, hne⟩ | ⟨hn, hf⟩ := hother <;> simp [*]
    simp only [h.mask, h.exec, hne, notInHandler_ok hhandler, h.nextPc, hnot, htaken, ok_bind, if_false, Bool.false_eq_true]
  · show execTfree f s = _
    refine instr_goes h ?_
    simp only [h.mask, h.exec, hne, hown, hclosed, ok_bind, pure_eq_ok, if_false]

/-! ## Steps -/

/-- Settles O27. -/
theorem matrixStepsIssue : Obligations.MatrixStepsIssue := by
  unfold Obligations.MatrixStepsIssue
  refine ⟨?_, ?_⟩
  · intro f s c E pc frag b fb ra d kappa h hne hhit hmiss hb hfb hbaton hown hmode hformat hsettle hlatch hd hkappa hspace halign
      hranges hsq hloads hroom
    show execMms f s = _
    refine instr_goes h ?_
    subst hfb hd hkappa
    cases hl : s.latched c f with
    | some l =>
      obtain ⟨hrange, rfl⟩ := hhit l hl
      simp only [h.maskWait, h.maskSound, h.exec, hne, hrange, hb, hbaton, hown, hmode, hformat, hsettle, hlatch, hspace, halign,
        hranges, quiet_ok hsq hloads, hroom, ok_bind, pure_eq_ok, if_false]
    | none =>
      obtain ⟨hnames, hfrag⟩ := hmiss hl
      simp only [h.maskWait, h.exec, hne, hnames, hfrag, hb, hbaton, hown, hmode, hformat, hsettle, hlatch, hspace, halign,
        hranges, quiet_ok hsq hloads, hroom, ok_bind, pure_eq_ok, if_false]
  · intro f s c E pc a b fb ra ai bi cnt d kappa h hne ha hb hfb hinc hcnt hbaton hown hmode hformat hsettle hd hkappa hspaces
      haligna halignb hranges hsq hloads hroom
    show execMml f s = _
    refine instr_goes h ?_
    subst hfb hcnt hd hkappa
    simp only [h.mask, h.exec, hne, ha, hb, ← hinc, hbaton, hown, hmode, hformat, hsettle, hspaces, haligna, halignb, hranges,
      quiet_ok hsq hloads, hroom, ok_bind, pure_eq_ok, if_false]

end Sys2Proof.Machine

/-! # Tile commands, counting and butterflies at issue (R366 to R371, R384 to R397) -/

namespace Sys2Proof.Machine

/-- The format block of a drain asks for nothing that the tile's mode does not have. -/
theorem drainMode_ok {m : TMode} {el : Elem} {b1 b2 : Bool} (he : b2 = true → el = .e4m3)
    (hm : b1 = true → m ≠ .real32 ∧ m ≠ .cplx32) :
    ((b2 && el != .e4m3) || (b1 && (m == .real32 || m == .cplx32))) = false := by
  cases b2 <;> cases b1 <;> simp_all

/-- Settles O28. -/
theorem tileCommandsIssue : Obligations.TileCommandsIssue := by
  unfold Obligations.TileCommandsIssue
  refine ⟨?_, ?_, ?_, ?_⟩
  · intro f s c E pc a m other h hne ha hown hm hother hhalted hloads hroom
    show execAclr f s = _
    refine instr_goes h ?_
    cases hbank : (s.eng c.core).bank with
    | none =>
      simp only [hbank] at hother
      subst hother
      by_cases hfix : f.mode.getLsbD 2 = true <;>
          simp only [h.mask, h.exec, hne, ha, hfix, hown, ← hm, loadsDone_ok hloads, hroom, ok_bind, pure_eq_ok, if_false,
        if_true, Option.isSome_none, Bool.false_and, Bool.false_eq_true]
    | some b =>
      by_cases htaken : m = .count ∧ b ≠ f.tile.val
      · simp only [hbank, htaken, ne_eq, not_false_eq_true, and_self, if_true] at hother
        subst hother
        obtain ⟨n, hn⟩ := Option.isSome_iff_exists.mp (hhalted b rfl)
        by_cases hfix : f.mode.getLsbD 2 = true <;>
          simp only [h.mask, h.exec, hne, ha, hfix, hown, ← hm, htaken, hn, loadsDone_ok hloads, hroom, ok_bind, pure_eq_ok, if_false, if_true,
          ne_eq, not_false_eq_true, and_self, Option.map_some, Option.isNone_some, Bool.and_false, Bool.false_eq_true]
      · simp only [hbank, htaken, if_false] at hother
        subst hother
        by_cases hfix : f.mode.getLsbD 2 = true <;>
          simp only [h.mask, h.exec, hne, ha, hfix, hown, ← hm, htaken, loadsDone_ok hloads, hroom, ok_bind, pure_eq_ok, if_false,
          if_true, Option.isSome_none, Bool.false_and, Bool.false_eq_true]
  · intro f s c E pc a fb rw r m el ra h hne ha hfb hrw hr hm hel hown hbad hdigits hformat hexact hother hspace halign hranges
      hsq hloads hroom
    show execAld f s = _
    refine instr_goes h ?_
    subst hfb hrw hr hel
    by_cases hmode : m = .exact
    · subst hmode
      simp only [h.mask, h.exec, hne, ha, hown, hbad, hdigits, ← hm, hformat, hexact rfl, hspace, halign, hranges,
        quiet_ok hsq hloads, hroom, ok_bind, pure_eq_ok, if_false, if_true, Bool.not_true, Bool.false_eq_true]
    · simp only [h.mask, h.exec, hne, ha, hown, hbad, hdigits, ← hm, hformat, hmode, hother hmode, hspace, halign, hranges,
        quiet_ok hsq hloads, hroom, ok_bind, pure_eq_ok, if_false, Bool.not_true, Bool.false_eq_true]
  · intro f s c E pc a fb rw r m el st u h hne ha hfb hrw hr hm hel hown hbad hdigits he4m3 hreal hformat hspace halign hst
      hranges hsq hloads hroom hu
    show execAdrn f s = _
    refine instr_goes h ?_
    have hdrain := drainMode_ok he4m3 hreal
    subst hfb hrw hr hm hel hst hu
    simp only [h.mask, h.exec, hne, ha, hown, hbad, hdigits, hdrain, hformat, hspace, halign, hranges,
        quiet_ok hsq hloads, hroom, ok_bind, pure_eq_ok, if_false, Bool.not_true, Bool.false_eq_true]
  · intro f s c E pc n x h hne hn hname hown hmode hclosed hpending hx
    show execAdrv f s = _
    refine instr_goes h ?_
    subst hx
    have hn : (isFrameName f.an).getD 0 = n.val := by rw [hn]; rfl
    simp only [h.mask, h.exec, hne, hn, hname, hown, hmode, hclosed, hpending, ok_bind, pure_eq_ok, if_false]
    rfl

/-! ## Counting and butterflies -/

/-- Settles O29. -/
theorem countingCommandsIssue : Obligations.CountingCommandsIssue := by
  unfold Obligations.CountingCommandsIssue
  refine ⟨⟨?_, ?_, ?_, ?_⟩, ?_⟩
  · intro f s c E pc frag b fb ra kappa h hne hnames hfrag hb hfb hcount hkappa hspace halign hranges hsq hloads hroom
    show execMcnt f s = _
    refine instr_goes h ?_
    subst hfb hkappa
    simp only [h.maskWait, h.exec, hne, hnames, hfrag, hb, hcount, hspace, halign, hranges, quiet_ok hsq hloads, hroom, ok_bind,
      pure_eq_ok, if_false]
  · intro f s c E pc a b fb ra ai bi cnt kappa h hne ha hb hfb hinc hcnt hcount hkappa hspaces haligna halignb hranges hsq hloads
      hroom
    show execMcntl f s = _
    refine instr_goes h ?_
    subst hfb hcnt hkappa
    simp only [h.mask, h.exec, hne, ha, hb, ← hinc, hcount, hspaces, haligna, halignb, hranges, quiet_ok hsq hloads, hroom,
      ok_bind, pure_eq_ok, if_false]
  · intro f s c E pc run h hne hbaton hcount hrun hranges hsq hloads hroom
    show execMmrg f s = _
    refine instr_goes h ?_
    subst hrun
    simp only [h.mask, h.exec, hne, hbaton, hcount, hranges, quiet_ok hsq hloads, hroom, ok_bind, pure_eq_ok, if_false]
  · intro f s c E pc h hne hcount hloads hroom
    show execCntz f s = _
    refine instr_goes h ?_
    simp only [h.mask, h.exec, hne, hcount, loadsDone_ok hloads, hroom, ok_bind, pure_eq_ok, if_false]
  · intro f s c E pc plan n ds h hne hn hds hfit hbad hbaton hown hmode hstages hloads hroom
    have hbody : ∀ word, stagesBody f word plan c s = .ok (s.engIssue c E f true [] (.stages ds)) := fun word => by
      have hany : (ds.any fun p => stageBad plan p.1) = false := by
        rw [List.any_eq_false]
        exact fun p hp => by simp [hbad p hp]
      have hmin : (ds.filterMap (stageMode (s.tile c.core f.tile.val))).min? = none := by
        rw [List.min?_eq_none_iff, List.filterMap_eq_nil_iff]
        exact hstages
      have hin : ¬ (127 < f.kix.val + n - 1 ∨ (ds.any fun p => stageBad plan p.1) = true) := 
        not_or.mpr ⟨by omega, by simp [hany]⟩
      subst hn
      rw [hds] at hin hmin ⊢
      simp only [stagesBody, h.mask, h.exec, hne, hin, hbaton, hown, hmode, hmin, loadsDone_ok hloads, hroom, ok_bind, pure_eq_ok,
        if_false]
    cases plan with
    | false => exact instr_goes h (hbody _)
    | true => exact instr_goes h (hbody _)

end Sys2Proof.Machine

/-! # Queues, dependence counters, futures and facts of the job (R110 to R128) -/

namespace Sys2Proof.Machine

/-- Checks of which every one passes find no failing one (R302). -/
theorem chkFirst_none {cs : List (DWord × Chk)} (h : ∀ p ∈ cs, ∃ loc ty, p.2 = .ok loc ty) : chkFirst cs = none := by
  have hrank : ∀ (l : List (DWord × Chk)), (∀ p ∈ l, ∃ loc ty, p.2 = .ok loc ty) →
      l.foldl (fun r x => min r x.2.rank) 100 = 100 := by
    intro l
    induction l with
    | nil => exact fun _ => rfl
    | cons p l ih =>
      intro hl
      obtain ⟨loc, ty, hp⟩ := hl p List.mem_cons_self
      rw [List.foldl_cons, hp]
      exact ih fun q hq => hl q (List.mem_cons_of_mem _ hq)
  simp [chkFirst, hrank cs h]

/-- A list of checks that all pass. -/
theorem forM_ok {ε α : Type} {l : List α} {f : α → Except ε Unit} (h : ∀ a ∈ l, f a = .ok ()) : l.forM f = .ok () := by
  induction l with
  | nil => rfl
  | cons a l ih =>
    show (f a >>= fun _ => l.forM f) = _
    rw [h a List.mem_cons_self]
    exact ih fun x hx => h x (List.mem_cons_of_mem _ hx)

theorem noFlip_of_forall {s : State} {l : List (DWord × Loc)} (h : ∀ p ∈ l, s.flipping p.2 = false) :
    (l.any fun p => s.flipping p.2) = false := by
  rw [List.any_eq_false]
  exact fun p hp => by simp [h p hp]

/-- Settles O30. -/
theorem queueInstructionsComplete : Obligations.QueueInstructionsComplete := by
  unfold Obligations.QueueInstructionsComplete
  refine ⟨?_, ?_, ?_⟩
  · intro f s u c E pc q a loc h hne hfree hq ha husable hplace hsq hloads hroom
    show execEnq f s = _
    refine instr_goes h ?_
    simp only [h.mask, h.exec, hne, hfree, hq, ha, husable, hplace, quiet_ok hsq hloads, hroom, ok_bind, pure_eq_ok, if_false,
      Bool.not_true, Bool.false_eq_true]
  · intro f s c E M pc q w n vals recs base cs h hne hq husable hw hdepth hlive hM hn hn0 hvals hrecs hbase hcs hok hsq hloads
      hroom hflip
    show execEnqd f s = _
    refine instr_goes h ?_
    have hlow : (lanesWhere E fun l => !(c.g.lane l).act.live w) = 0 :=
      lanesWhere_eq_zero fun l hl => by simp [hlive l hl]
    have hfirst := chkFirst_none hok
    have hflips := noFlip_of_forall hflip
    have hdepth : ¬ c.g.coilD < w := by omega
    have hroom : ¬ s.dqSlots c.g.vf q.toNat < base - (s.dq c.g.vf q.toNat).freed + n := by omega
    subst hM hn hrecs hbase hcs hw
    simp only [h.mask, h.exec, hne, hq, husable, hdepth, hlow, hn0, hvals, hfirst, quiet_ok hsq hloads, hroom, hflips, ok_bind,
      pure_eq_ok, if_false, Bool.not_true, Bool.false_eq_true, ne_eq, not_true_eq_false]
  · intro f s u c E pc q n w base h hne hq husable hw hn hbase hok hloads hu
    have hfirst := chkFirst_none hok
    subst hw hn hbase hu
    refine ⟨fun hwait => ?_, fun t ht => ?_⟩
    · show execDeq f s = _
      refine instr_out h.running h.group ?_ (park_notHeld _ _ _ _ nofun)
      simp only [h.mask, h.exec, hne, hq, husable, h.nextPc, hfirst, loadsDone_ok hloads, hwait, ok_bind, if_false,
        Bool.not_true, Bool.false_eq_true]
    · show execDeq f s = _
      refine instr_goes h ?_
      simp only [h.mask, h.exec, hne, hq, husable, h.nextPc, hfirst, loadsDone_ok hloads, ht, ok_bind, pure_eq_ok, if_false,
        Bool.not_true, Bool.false_eq_true]

/-! ## Dependence counters -/

/-- DCADD once its operands are read and its waits over: the amount, its sum x and what the sum's range makes of it. -/
def dcaddEnd (f : TOps) (s : State) (c : Ctx) (E : LaneMask) (i : DWord) (x : Int) : Except Trap State := do
  if x < 0 then raise fcDc 1 (Config.dcDetail i.toNat x) E
  if 2 ^ 32 ≤ x then raiseOpen fcDc 2 E
  return (s.dcSet c.g.vf i.toNat x.toNat).putS c f.d.val (BitVec.ofInt 64 x)

theorem dcadd_outcomes {body : Ctx → State → Except Trap State} {f : TOps} {s : State} {c : Ctx} {E : LaneMask} {pc : PC}
    {i : DWord} {x : Int} (h : Issues s c f.g1 f.g2 E pc) (hbody : body c s = dcaddEnd f s c E i x) :
    (0 ≤ x → x < 2 ^ 32 → instr (.t 0x183 f) body s =
      .next (((s.dcSet c.g.vf i.toNat x.toNat).putS c f.d.val (BitVec.ofInt 64 x)).goes c (.t 0x183 f) pc)) ∧
    (x < 0 → ∃ d : DWord, instr (.t 0x183 f) body s = .next (s.precise c 0x31 1 d E)) ∧
    (2 ^ 32 ≤ x → instr (.t 0x183 f) body s = .next (s.preciseOpen c 0x31 2 E)) := by
  refine ⟨fun h0 h32 => instr_goes h ?_, fun hneg => ⟨Config.dcDetail i.toNat x, instr_fault h.running h.group ?_⟩,
    fun hover => instr_faultOpen h.running h.group ?_⟩
  · rw [hbody, dcaddEnd, if_neg (by omega), if_neg (by omega)]
    rfl
  · rw [hbody, dcaddEnd, if_pos hneg]
    rfl
  · rw [hbody, dcaddEnd, if_neg (by omega), if_pos hover]
    rfl

/-- Settles O31. -/
theorem countersComplete : Obligations.CountersComplete := by
  unfold Obligations.CountersComplete
  refine ⟨?_, ?_⟩
  · intro f s c E pc i b x h hne hfree hi hb hbound hsq hloads hx
    have hbound : ¬ s.dcn c.g.vf ≤ i.toNat := by omega
    show (_ → _ → execDcadd f s = _) ∧ (_ → ∃ d : DWord, execDcadd f s = _) ∧ (_ → execDcadd f s = _)
    cases hop : f.op.getLsbD 0 with
    | true =>
      have hx : dcNext (s.dc c.g.vf i.toNat) f 0 = x := by rw [hx, dcNext, hop]; rfl
      refine dcadd_outcomes h ?_
      simp only [h.mask, h.exec, hne, hfree, hi, hop, hx, hbound, quiet_ok hsq hloads, ok_bind, if_false, if_true]
      rfl
    | false =>
      have hx : dcNext (s.dc c.g.vf i.toNat) f b = x := by rw [hx, dcNext, hop]
      refine dcadd_outcomes h ?_
      simp only [h.mask, h.exec, hne, hfree, hi, hb hop, hop, hx, hbound, quiet_ok hsq hloads, ok_bind, if_false,
        Bool.false_eq_true]
      rfl
  · intro f s c E pc i h hne hfree hi hbound
    show execDcrd f s = _
    refine instr_goes h ?_
    have hbound : ¬ s.dcn c.g.vf ≤ i.toNat := by omega
    simp only [h.mask, h.exec, hne, hfree, hi, hbound, ok_bind, pure_eq_ok, if_false]

/-! ## Facts of the job -/

/-- Settles O33. -/
theorem jobFactsComplete : Obligations.JobFactsComplete := by
  unfold Obligations.JobFactsComplete
  refine ⟨?_, ?_⟩
  · intro f s c E pc j n h hne hfree hfree' hjob hn
    subst hn
    refine ⟨fun hnone => ?_, fun hsome => ?_⟩
    · show execNextch f s = _
      refine instr_goes h ?_
      simp only [h.mask, h.exec, hne, hfree, hfree', hjob, hnone, ok_bind, pure_eq_ok, if_false, if_true]
    · show execNextch f s = _
      refine instr_goes h ?_
      simp only [h.mask, h.exec, hne, hfree, hfree', hjob, Nat.ne_of_gt hsome, ok_bind, pure_eq_ok, if_false]
  · intro f s c E pc h hne hfree
    show execTinfo f s = _
    refine instr_goes h ?_
    simp only [h.mask, h.exec, hne, hfree, ok_bind, pure_eq_ok, if_false]

end Sys2Proof.Machine

/-! # Futures, joins and traps (R114 to R116, R124 to R126, R408, R409, R447) -/

namespace Sys2Proof.Machine

/-! ## Futures -/

theorem noPoison_find {s : State} {fl : List (DWord × Loc)} (h : ∀ p ∈ fl, s.poisoned p.2 16 = false) :
    (fl.find? fun p => s.poisoned p.2 16) = none :=
  List.find?_eq_none.mpr fun p hp => by simp [h p hp]

/-- The lowest number that no join has (R115). -/
theorem find?_lowest_join {v : Vf} {n h : Nat} (hh : h < n) (hbelow : ∀ i : Nat, i < h → (nfind v.joins i).isSome = true)
    (hfree : nfind v.joins h = none) : ((List.range n).find? fun h => (nfind v.joins h).isNone) = some h := by
  rw [List.find?_range_eq_some]
  exact ⟨by simp [hfree], List.mem_range.mpr hh, fun i hi => by simp [hbelow i hi]⟩

/-- Settles O32. -/
theorem futuresComplete : Obligations.FuturesComplete := by
  unfold Obligations.FuturesComplete
  refine ⟨?_, ?_, ?_⟩
  · intro f s u c E pc a v loc h hne ha hv hplace hpoison hsq hloads
    refine ⟨fun hreset hstate => ?_, fun hreset hstate => ?_, fun hset hstate => ?_, fun hset hstate => ?_, fun hset hstate => ?_⟩
    · show execFres f s = _
      refine instr_goes h ?_
      simp only [h.mask, h.exec, hne, ha, hreset, hplace, hpoison, quiet_ok hsq hloads, State.resetFuture, hstate, ok_bind,
        pure_eq_ok, if_false, if_true, Bool.false_eq_true]
    · show execFres f s = _
      refine instr_fault h.running h.group ?_
      simp only [h.mask, h.exec, hne, ha, hreset, hplace, hpoison, quiet_ok hsq hloads, State.resetFuture, hstate, ok_bind,
        if_false, if_true, Bool.false_eq_true]
      rfl
    · show execFres f s = _
      refine instr_goes h ?_
      have hlow : ¬ 2 ≤ futState (u.futWord0 loc) := by omega
      have hone : ¬ futState (u.futWord0 loc) = 1 := by omega
      simp only [h.mask, h.exec, hne, ha, hv hset, hset, hplace, hpoison, quiet_ok hsq hloads, State.resolve, hlow, hone, ok_bind,
        pure_eq_ok, if_false, Bool.false_eq_true]
    · show execFres f s = _
      refine instr_goes h ?_
      have hlow : ¬ 2 ≤ 1 := by omega
      simp only [h.mask, h.exec, hne, ha, hv hset, hset, hplace, hpoison, quiet_ok hsq hloads, State.resolve, hstate, hlow, ok_bind,
        pure_eq_ok, if_false, if_true, Bool.false_eq_true]
    · show execFres f s = _
      refine instr_fault h.running h.group ?_
      simp only [h.mask, h.exec, hne, ha, hv hset, hset, hplace, hpoison, quiet_ok hsq hloads, State.resolve, hstate, ok_bind,
        if_false, if_true, Bool.false_eq_true]
      rfl
  · intro f s u u2 u3 c E pc card list ls fl futs loc j r h hne hfree hcard hlist husable hform hforms hls hsq hloads hfuts
      hfutForms hplace hfl hpoison hj hbelow hnone hr
    show execFjoin f s = _
    refine instr_goes h ?_
    have hentries : ((List.range (joinN f)).map fun i => list + BitVec.ofNat 64 (8 * i)).forM
        (fun a => s.addrForm c E (globalWant 8 false) a) = .ok () :=
      forM_ok fun a ha => by
        obtain ⟨i, hi, rfl⟩ := List.mem_map.mp ha
        exact hforms i (List.mem_range.mp hi)
    have hfutForms := forM_ok hfutForms
    subst hfuts hr
    simp only [h.mask, h.exec, hne, hfree, hcard, hlist, husable, hform, hentries, hls, quiet_ok hsq hloads, hfutForms, hplace, hfl,
      noPoison_find hpoison, find?_lowest_join hj hbelow hnone, ok_bind, pure_eq_ok, if_false, Bool.not_true, Bool.false_eq_true]
  · intro f s u c E pc a loc h hne hfree hfree' ha hplace hloads hqueued
    refine ⟨fun hready => ?_, fun hwait hstate => ?_⟩
    · show execFget f s = _
      refine instr_goes h ?_
      have hready : (f.op.getLsbD 0 && decide (futState (u.futWord0 loc) < 2)) = false := by
        obtain h0 | h2 := hready
        · rw [h0, Bool.false_and]
        · rw [decide_eq_false (by omega), Bool.and_false]
      simp only [h.mask, h.exec, hne, hfree, hfree', ha, hplace, hready, loadsDone_ok hloads, hqueued, h.nextPc, ok_bind,
        pure_eq_ok, map_ok, if_false, ite_self, Bool.false_eq_true]
    · show execFget f s = _
      refine instr_out h.running h.group ?_ (park_notHeld _ _ _ _ nofun)
      simp only [h.mask, h.exec, hne, hfree, hfree', ha, hplace, hwait, hstate, loadsDone_ok hloads, hqueued, h.nextPc, ok_bind,
        map_ok, if_false, if_true, decide_true, Bool.and_self]

/-! ## Traps and returns -/

/-- Settles O34. -/
theorem trapsAndReturns : Obligations.TrapsAndReturns := by
  unfold Obligations.TrapsAndReturns
  refine ⟨⟨?_, ?_, ?_, ?_⟩, fun f s c E pc h => ⟨fun hin hmark hdepth hslot hslot' => ⟨fun hterm => ?_, fun hterm hskip => ?_,
    fun hterm hskip => ?_⟩, fun hout => ?_, fun hin hstack => ?_, fun hin hmark hdepth hpc => ?_⟩⟩
  · intro f s c E pc h hne
    show execTrap f s = _
    refine jumpInstr_goes h ?_
    simp only [h.mask, h.exec, hne, ok_bind, pure_eq_ok, if_false]
  · intro f s c E pc h hne hstop
    show execBpt f s = _
    refine jumpInstr_goes h ?_
    simp only [h.mask, h.exec, hne, hstop, ok_bind, pure_eq_ok, if_false, Bool.false_eq_true]
  · intro f s c E pc h hne hstop
    show execBpt f s = _
    refine jumpInstr_goes h ?_
    simp only [h.mask, h.exec, hne, hstop, h.step, ok_bind, pure_eq_ok, if_false, if_true]
  · intro f s c pc h p hp
    simp only [List.mem_cons, List.not_mem_nil, or_false] at hp
    obtain rfl | rfl := hp
    · show execTrap f s = _
      refine jumpInstr_skip h ?_
      simp only [h.mask, h.exec, ok_bind, if_true]
    · show execBpt f s = _
      refine jumpInstr_skip h ?_
      simp only [h.mask, h.exec, ok_bind, if_true]
  · show execTret f s = _
    refine jumpInstr_goes h ?_
    simp only [h.mask, hin, hmark, hdepth, hslot, hslot', hterm, ok_bind, pure_eq_ok, if_false, if_true, Bool.not_true,
      Bool.false_eq_true, ne_eq, not_true_eq_false, or_self]
  · show execTret f s = _
    refine jumpInstr_goes h ?_
    simp only [h.mask, hin, hmark, hdepth, hslot, hslot', hterm, hskip, resumePc, ok_bind, pure_eq_ok, if_false, if_true,
      Bool.not_true, Bool.not_false, Bool.false_eq_true, ne_eq, not_true_eq_false, or_self]
  · show execTret f s = _
    refine jumpInstr_goes h ?_
    simp only [h.mask, hin, hmark, hdepth, hslot, hslot', hterm, hskip, resumePc, ok_bind, pure_eq_ok, if_false,
      Bool.not_true, Bool.false_eq_true, ne_eq, not_true_eq_false, or_self]
    split <;> rfl
  · show execTret f s = _
    refine jumpInstr_fault h.running h.group ?_
    simp only [h.mask, h.exec, hout, ok_bind, if_true, Bool.not_false]
    rfl
  · show execTret f s = _
    refine jumpInstr_fault h.running h.group ?_
    simp only [h.mask, h.exec, hin, hstack, ok_bind, if_false, if_true, Bool.not_true, Bool.false_eq_true]
    rfl
  · show execTret f s = _
    refine jumpInstr_fault h.running h.group ?_
    simp only [h.mask, h.exec, hin, hmark, hdepth, hpc, ok_bind, if_false, if_true, Bool.not_true, Bool.false_eq_true, ne_eq,
      not_true_eq_false, or_self]
    rfl

end Sys2Proof.Machine

/-! # Control registers, flags, time and counters (R406, R410 to R413) -/

namespace Sys2Proof.Machine

theorem allDone_ok {c : Ctx} (h : c.g.pends = []) : c.allDone = .ok () := by simp [Ctx.allDone, h]

/-- A change that leaves what the group waits for does not make it newly held by its access. -/
theorem heldIssue_of_keeps {s u : State} {c : Ctx} (hc : s.ctx? = some c) (hu : Keeps (·.resume) s u) (i : Form) :
    u.heldIssue c i = u := by
  by_cases hr : c.g.resume = .replay
  · simp [State.heldIssue, hr]
  · have h : NotHeld s c.core c.slot := fun g hg => by
      rw [(State.ctx?_group hc).1] at hg
      cases hg
      exact hr
    exact (h.of_keeps hu).heldIssue_eq i

/-- An instruction whose body ends in a state in which its group waits for what it waited for. -/
theorem instr_outKept {i : Form} {body : Ctx → State → Except Trap State} {s u : State} {c : Ctx}
    (hs : s.sys.stopped = false) (hc : s.ctx? = some c) (hb : body c s = .error (.out u)) (hu : Keeps (·.resume) s u) :
    instr i body s = .next u := by
  rw [instr_trap hs hc hb]
  exact congrArg Host.Outcome.next (heldIssue_of_keeps hc hu i)

/-! ## Control registers -/

/-- What a write of one register leaves of the others (R406). -/
theorem read_write_ne (k : Csrs) {m n : Nat} (v : DWord) (hne : m ≠ n) (hn : n ≤ 0x0E) : (k.write m v).read n = k.read n := by
  unfold Csrs.write
  split
  case h_6 => rfl
  all_goals
    obtain rfl | rfl | rfl | rfl | rfl | rfl | rfl | rfl | rfl | rfl | rfl | rfl | rfl | rfl | rfl :
        n = 0 ∨ n = 1 ∨ n = 2 ∨ n = 3 ∨ n = 4 ∨ n = 5 ∨ n = 6 ∨ n = 7 ∨ n = 8 ∨ n = 9 ∨ n = 10 ∨ n = 11 ∨ n = 12 ∨
          n = 13 ∨ n = 14 := by omega
    all_goals simp_all [Csrs.read]

theorem write_fixed (k : Csrs) {n : Nat} (v : DWord) (hn : n ≤ 6 ∨ 0x0C ≤ n) : k.write n v = k := by
  unfold Csrs.write
  split
  case h_6 => rfl
  all_goals omega

/-- The low n bits of a word, n at most 64, are the word and a mask of n ones. -/
theorem setWidth_setWidth_eq_and (v m : DWord) {n : Nat} (hn : n ≤ 64) (hm : m.toNat = 2 ^ n - 1) :
    (v.setWidth n).setWidth 64 = v &&& m := by
  apply BitVec.eq_of_toNat_eq
  have hlt : v.toNat % 2 ^ n < 2 ^ 64 :=
    Nat.lt_of_lt_of_le (Nat.mod_lt _ (Nat.two_pow_pos n)) (Nat.pow_le_pow_right (by omega) hn)
  rw [BitVec.toNat_setWidth, BitVec.toNat_setWidth, BitVec.toNat_and, hm, Nat.and_two_pow_sub_one_eq_mod,
    Nat.mod_eq_of_lt hlt]

/-- Settles O37. -/
theorem controlRegistersComplete : Obligations.ControlRegistersComplete := by
  unfold Obligations.ControlRegistersComplete
  refine ⟨⟨?_, ?_, ?_, ?_, ?_, ?_, ?_⟩, fun k v => ⟨rfl, rfl, ?_, ?_, ?_⟩, fun k m n v hne hn => read_write_ne k v hne hn,
    fun k n v hn => write_fixed k v hn⟩
  · intro f s c E pc h hne hfree hpends
    show execCsrr f s = _
    refine instr_goes h ?_
    simp only [h.mask, h.exec, hne, hfree, allDone_ok hpends, ok_bind, pure_eq_ok, if_false]
  · intro f s c E pc v h hne hv hin hpends
    show execCsrw f s = _
    refine instr_goes h ?_
    have hlegal : ¬ (f.imm.toNat = 7 ∧ (!c.g.csr.inHandler) = true) := fun ⟨h7, hout⟩ => by simp [hin h7] at hout
    simp only [h.maskWait, h.maskSound, h.exec, hne, hlegal, hv, allDone_ok hpends, ok_bind, pure_eq_ok, if_false]
  · intro f s c E pc h hne hpends
    show execFlags f s = _
    refine instr_goesAs h ?_
    simp only [h.mask, h.exec, hne, allDone_ok hpends, ok_bind, pure_eq_ok, if_false]
    rfl
  · intro f s c E pc h hne hpends
    show execFlclr f s = _
    refine instr_goesAs h ?_
    simp only [h.mask, h.exec, hne, allDone_ok hpends, ok_bind, pure_eq_ok, if_false]
    rfl
  · intro f s c E pc h hne hfree
    show execTime f s = _
    refine instr_goes h ?_
    simp only [h.mask, h.exec, hne, hfree, ok_bind, pure_eq_ok, if_false]
  · intro f s c E pc v i h hne hfree hv
    refine ⟨fun vf hop => ?_, fun hop => ?_⟩
    · show execCtrrd f s = _
      refine instr_goes h ?_
      simp only [h.mask, h.exec, hne, hfree, hv, hop, ok_bind, pure_eq_ok, if_false]
      split <;> rfl
    · show execCtrrd f s = _
      refine instr_fault h.running h.group ?_
      simp only [h.mask, h.exec, hne, hfree, hv, hop, ok_bind, if_false]
      rfl
  · intro f s c E pc n v u w h hne hn hv hn8 hv10 hev hu hw
    have hlegal : ¬ (8 ≤ n.toNat ∨ 2 ^ 10 ≤ v.toNat ∨ 0x10 ≤ fld v 0 8) := by omega
    have hgoes : Keeps (·.resume) s u := hu ▸
      (Keeps.modGroup _ _ _ _ (h := fun g => { g with pc := pc, completing := false }) fun _ => rfl).trans
        (Keeps.issued resume_issueBlind _ c _ fun g x _ => stampFrom_resume g x _)
    show execCtrcfg f s = _
    refine instr_outKept h.running h.group ?_ (hgoes.trans (Keeps.modCore _ u _ fun _ => rfl))
    subst hu hw
    simp only [h.mask, h.exec, hne, hn, hv, hlegal, h.nextPc, ok_bind, if_false]
    rfl
  · exact setWidth_setWidth_eq_and v _ (n := 7) (by decide) rfl
  · exact setWidth_setWidth_eq_and v _ (n := 6) (by decide) rfl
  · exact setWidth_setWidth_eq_and v _ (n := 6) (by decide) rfl

end Sys2Proof.Machine

/-! # Integer results (R212 to R217, R223, R224)

Words are residues: what a 32-bit type reads from a word is the word's number mod 2^32, so that a wrapped result does not
depend on how its operands are read. -/

namespace Sys2Proof.Machine

/-! ## Elements of a whole word -/

theorem elemInt_emod {t : Ty} (ht : t = .i32 ∨ t = .n32) (x : Word) :
    elemInt t 0 x % 2 ^ 32 = (x.toNat : Int) % 2 ^ 32 := by
  have hlt := x.isLt
  obtain rfl | rfl := ht
  · simp [elemInt, codeInt, elemNat, tySigned, tyWidth, tyElems, tyPair]
    omega
  · simp [elemInt, codeInt, elemNat, tySigned, tyWidth, tyElems, tyPair]

theorem eachElem_push {t : Ty} (ht : t = .i32 ∨ t = .n32) {f : Nat → Int} {v : Int} (h : f 0 % 2 ^ 32 = v % 2 ^ 32) :
    (eachElem t f).push = [BitVec.ofInt 32 v] := by
  have hpush : (eachElem t f).push = [BitVec.ofNat 32 (f 0 % 2 ^ 32).toNat] := by
    obtain rfl | rfl := ht <;>
    · simp [eachElem, pushWord, packElems, wrapNat, wordOfNat, tyWidth, tyElems, tyPair]
      exact BitVec.eq_of_toNat_eq (Nat.mod_mod _ _)
  rw [hpush, h]
  congr 1
  apply BitVec.eq_of_toNat_eq
  rw [BitVec.toNat_ofNat, BitVec.toNat_ofInt]
  omega

/-! ## Shifts -/

theorem shl_eq (a : Word) (n : Nat) : (if n < 32 then a <<< n else 0) = BitVec.ofNat 32 (a.toNat * 2 ^ min n 32) := by
  split
  · next h =>
    rw [Nat.min_eq_left (Nat.le_of_lt h)]
    apply BitVec.eq_of_toNat_eq
    rw [BitVec.toNat_shiftLeft, BitVec.toNat_ofNat, Nat.shiftLeft_eq]
  · next h =>
    rw [Nat.min_eq_right (Nat.le_of_not_lt h)]
    apply BitVec.eq_of_toNat_eq
    rw [BitVec.toNat_ofNat, Nat.mul_mod_left]
    rfl

theorem shr_eq (a : Word) (n : Nat) : (if n < 32 then a >>> n else 0) = BitVec.ofNat 32 (a.toNat / 2 ^ min n 32) := by
  have ha := a.isLt
  split
  · next h =>
    rw [Nat.min_eq_left (Nat.le_of_lt h)]
    apply BitVec.eq_of_toNat_eq
    rw [BitVec.toNat_ushiftRight, BitVec.toNat_ofNat, Nat.shiftRight_eq_div_pow,
      Nat.mod_eq_of_lt (Nat.lt_of_le_of_lt (Nat.div_le_self _ _) ha)]
  · next h =>
    rw [Nat.min_eq_right (Nat.le_of_not_lt h), Nat.div_eq_of_lt ha]
    rfl

theorem sar_eq (a : Word) (n : Nat) : (if n < 32 then a.sshiftRight n else if a.msb then 0xFFFFFFFF#32 else 0) =
    BitVec.ofInt 32 (a.toInt.fdiv (2 ^ min n 32)) := by
  have hdiv : ∀ k : Nat, a.toInt.fdiv (2 ^ k) = a.toInt / 2 ^ k := fun k => Int.fdiv_eq_ediv_of_nonneg _ (Int.le_of_lt (Int.pow_pos (by decide)))
  split
  · next h =>
    rw [Nat.min_eq_left (Nat.le_of_lt h), BitVec.sshiftRight_eq, hdiv, Int.shiftRight_eq_div_pow]
    norm_cast
  · next h =>
    rw [Nat.min_eq_right (Nat.le_of_not_lt h), hdiv]
    have hlt := a.toInt_lt
    have hle := a.le_toInt
    rw [BitVec.msb_eq_toInt]
    split
    · next hneg =>
      have : a.toInt / 2 ^ 32 = -1 := by simp at hneg hle; omega
      rw [this]; rfl
    · next hneg =>
      have : a.toInt / 2 ^ 32 = 0 := by simp at hneg hlt; omega
      rw [this]; rfl

/-! ## Pairs of words -/

theorem toNat_joinPair (lo hi : Word) : (joinPair lo hi).toNat = hi.toNat * 2 ^ 32 + lo.toNat := by
  rw [joinPair, BitVec.toNat_append, ← Nat.shiftLeft_add_eq_or_of_lt lo.isLt, Nat.shiftLeft_eq]

/-- FUNSH to the right: the low word of the pair moved down. -/
theorem funsh_right (lo hi : Word) (n : Nat) :
    lowWord (joinPair lo hi >>> n) = BitVec.ofNat 32 ((hi.toNat * 2 ^ 32 + lo.toNat) / 2 ^ n) := by
  apply BitVec.eq_of_toNat_eq
  rw [lowWord, BitVec.toNat_setWidth, BitVec.toNat_ushiftRight, toNat_joinPair, Nat.shiftRight_eq_div_pow, BitVec.toNat_ofNat]

/-- FUNSH to the left: the high word of the pair moved up, and its low word at a count of 32. -/
theorem funsh_left (lo hi : Word) (n : Nat) :
    (if n = 32 then lo else highWord (joinPair lo hi <<< n)) =
      BitVec.ofNat 32 ((hi.toNat * 2 ^ 32 + lo.toNat) * 2 ^ n / 2 ^ 32) := by
  apply BitVec.eq_of_toNat_eq
  split
  · next h =>
    rw [h, Nat.mul_div_cancel _ (by decide), BitVec.toNat_ofNat]
    have := lo.isLt
    omega
  · rw [highWord, BitVec.toNat_setWidth, BitVec.toNat_ushiftRight, BitVec.toNat_shiftLeft, toNat_joinPair, Nat.shiftLeft_eq,
      Nat.shiftRight_eq_div_pow, BitVec.toNat_ofNat]
    generalize (hi.toNat * 2 ^ 32 + lo.toNat) * 2 ^ n = m
    omega

/-- Settles O60. -/
theorem integerResults : Obligations.IntegerResults := by
  unfold Obligations.IntegerResults
  refine ⟨fun f x ht => ⟨?_, ?_, ?_⟩, fun f x ht => ?_, fun f x ht => ?_, fun f x hb => ?_, fun f x ht hb => ?_,
    fun f x ht hb => ?_, fun f x => ⟨?_, ?_, ?_⟩, fun f x u n hu hn => ⟨fun hleft => ?_, fun hright => ?_⟩,
    fun f x u hu => ⟨fun hlow => ?_, fun hhigh => ?_⟩, fun f x => ⟨fun hadd => ?_, fun hsub => ?_⟩⟩
  · rw [← BitVec.ofInt_natCast]
    exact eachElem_push ht (by rw [Int.natCast_add, Int.add_emod, elemInt_emod ht, elemInt_emod ht, ← Int.add_emod])
  · exact eachElem_push ht (by rw [Int.sub_emod, elemInt_emod ht, elemInt_emod ht, ← Int.sub_emod])
  · rw [← BitVec.ofInt_natCast]
    exact eachElem_push ht (by rw [Int.natCast_mul, Int.mul_emod, elemInt_emod ht, elemInt_emod ht, ← Int.mul_emod])
  · rw [← BitVec.ofInt_natCast]
    simp only [opImulh, ht, wordInt, tySigned, pushWord, wordOfInt, Bool.false_eq_true, if_false]
    rw [Int.fdiv_eq_ediv_of_nonneg _ (by decide)]
    norm_cast
  · simp only [opImulh, ht, wordInt, tySigned, pushWord, wordOfInt, if_true]
  · have hzero : wordInt f.ty x.wb = 0 := by rw [hb, wordInt]; split <;> rfl
    simp only [opIdivm, hzero, if_true]
    rfl
  · have hzero : wordInt f.ty x.wb ≠ 0 := by
      simpa [ht, wordInt, tySigned] using fun h => hb (BitVec.eq_of_toInt_eq (by simpa using h))
    simp only [opIdivm, hzero, if_false]
    simp only [ht, wordInt, tySigned, wordOfInt, if_true]
  · have hzero : wordInt f.ty x.wb ≠ 0 := by
      simpa [ht, wordInt, tySigned] using fun h => hb (BitVec.eq_of_toNat_eq (by simpa using h))
    simp only [opIdivm, hzero, if_false]
    simp only [ht, wordInt, tySigned, wordOfInt, Bool.false_eq_true, if_false]
    rw [← BitVec.ofInt_natCast, ← BitVec.ofInt_natCast, Int.natCast_emod, Int.emod_def, Int.natCast_ediv,
      Int.tdiv_eq_ediv_of_nonneg (Int.natCast_nonneg _), Int.mul_comm (_ / _)]
  · exact congrArg (fun w => [w]) (shl_eq _ _)
  · exact congrArg (fun w => [w]) (shr_eq _ _)
  · exact congrArg (fun w => [w]) (sar_eq _ _)
  · subst hu hn
    simp only [opFunsh, hleft, Bool.false_eq_true, if_false]
    exact congrArg (fun w => [w]) (funsh_left _ _ _)
  · subst hu hn
    simp only [opFunsh, hright, if_true]
    exact congrArg (fun w => [w]) (funsh_right _ _ _)
  · simp only [opIaddc, hlow, hu, Bool.false_eq_true, if_false]
    rfl
  · simp only [opIaddc, hhigh, hu, if_true]
    rfl
  · simp only [opIadd64, hadd, Bool.false_eq_true, if_false]
    rfl
  · simp only [opIadd64, hsub, if_true]
    rfl

end Sys2Proof.Machine

/-! # Words of the spec, and the machine after reset (R85, R202, R205, R214, R221; R110, R130, R134, R465) -/

namespace Sys2Proof.Machine

/-- Whether the decoder answers so. -/
def answersSo : Except Nat Instr → Except Nat Instr → Bool
  | .ok i, .ok j => decide (i = j)
  | .error n, .error m => decide (n = m)
  | _, _ => false

theorem eq_of_answersSo {x y : Except Nat Instr} (h : answersSo x y = true) : x = y := by
  cases x with
  | ok i =>
    cases y with
    | ok j => exact congrArg Except.ok (of_decide_eq_true h)
    | error m => cases h
  | error n =>
    cases y with
    | ok j => cases h
    | error m => exact congrArg Except.error (of_decide_eq_true h)

/-- Settles O56: each word is decoded. -/
theorem wordsDecode : Obligations.WordsDecode := by
  unfold Obligations.WordsDecode
  refine ⟨?_, ?_, ?_, ?_, ?_, ?_, ?_⟩
  all_goals exact eq_of_answersSo (by decide +kernel)

/-- No group stands in a core after reset. -/
theorem reset_core_groups (k : Nat) : (State.reset.core k).groups = [] := by
  unfold State.core
  split
  · simp [State.reset]
  · rfl

/-- Every core and slice of a die is in partition 0 after reset: words 1 to 63 of its placement are zero. -/
theorem reset_placement : ∀ d < 4, State.reset.pr (placeOfs d 0x400) = 0x300FFFFFFF ∧
    ∀ p < 64, 0 < p → State.reset.pr (placeOfs d (0x400 + 8 * p)) = 0 := by decide +kernel

/-- Settles O57. -/
theorem resetLeaves : Obligations.ResetLeaves := by
  unfold Obligations.ResetLeaves
  refine ⟨fun k n => ?_, rfl, fun vf i => rfl, fun d hd => ?_, ?_, ?_, ?_, rfl, rfl, rfl, rfl, rfl, rfl, rfl⟩
  · rw [State.group?, reset_core_groups]
    rfl
  · obtain ⟨hfirst, hrest⟩ := reset_placement d hd
    exact ⟨hfirst, fun p h0 h64 => hrest p h64 h0⟩
  · decide +kernel
  · decide +kernel
  · decide +kernel

end Sys2Proof.Machine

/-! # Fetches, replays, walks and returned lines (R47, R144, R295, R299, R415, R420) -/

namespace Sys2Proof.Machine

/-- Settles O38. -/
theorem fetchAndArrivalEventsComplete : Obligations.FetchAndArrivalEventsComplete := by
  unfold Obligations.FetchAndArrivalEventsComplete
  refine ⟨?_, ?_, ?_, ?_, ?_, ?_⟩
  · intro s part die w hoff hw
    show execPageWalk part die s = _
    rw [execPageWalk, event_on hoff]
    simp only [hw]
    rfl
  · intro s core slot g hoff hrun hg hstate hstop hkind hdone hresume
    refine ⟨fun hgo => ?_, fun hstops => ?_⟩
    · show execAccessReplay core slot s = _
      rw [execAccessReplay, coreEvent_running hoff hrun]
      simp only [hg, hstate, hstop, hkind, hdone, hgo, hresume, State.finishWait, Bool.not_false, ne_eq, not_false_eq_true, and_self,
        if_true, Option.getD_some]
    · show execAccessReplay core slot s = _
      rw [execAccessReplay, coreEvent_running hoff hrun]
      simp only [hg, hstops, ne_eq, not_true_eq_false, and_false, if_false]
  · intro s t core slot c ws hoff hrun hnext hread
    show execIcacheFill core slot c.g.pc.bundle s = _
    rw [execIcacheFill, coreEvent_running hoff hrun]
    simp only [State.icacheFill, hnext, Option.filter_some, beq_self_eq_true, Bool.and_self, if_true, State.demandFetch, hread]
  · intro s t core slot bundle c ws hoff hrun hnext hc hmiss hpre hhigh hread
    refine ⟨fun hgood => ?_, fun hbad => ?_⟩
    · show execIcacheFill core slot bundle s = _
      rw [execIcacheFill, coreEvent_running hoff hrun]
      simp only [State.icacheFill, hnext, Option.filter_none, hc, hmiss, hpre, hhigh, hread, hgood, Option.isNone_none,
        beq_self_eq_true, Bool.and_self, if_true, Option.isSome_none, Bool.false_eq_true, if_false]
    · show execIcacheFill core slot bundle s = _
      rw [execIcacheFill, coreEvent_running hoff hrun]
      simp only [State.icacheFill, hnext, Option.filter_none, hc, hmiss, hpre, hhigh, hread, Option.isSome_iff_ne_none.mpr hbad,
        Option.isNone_none, beq_self_eq_true, Bool.and_self, if_true]
  · intro s u t core slot c l ws hoff hrun hc hhit hbad hheld hu hread
    have hbad' : (bundleFault l.words).isNone = false := by rw [← Option.not_isSome, hbad]; rfl
    subst hu
    refine ⟨fun hgood => ?_, fun sub hsub => ?_⟩
    · show execBundleRefetch core slot s = _
      rw [execBundleRefetch, coreEvent_running hoff hrun]
      simp only [State.bundleRefetch, hc, hhit, hbad', hheld, Bool.or_self, Bool.false_eq_true, if_false, State.demandFetch, hread,
        hgood]
    · show execBundleRefetch core slot s = _
      rw [execBundleRefetch, coreEvent_running hoff hrun]
      simp only [State.bundleRefetch, hc, hhit, hbad', hheld, Bool.or_self, Bool.false_eq_true, if_false, State.demandFetch, hread,
        hsub]
  · intro s t core wg line pa l2 w hoff hrun hw harriving hhold hsave
    show execSpilledLineArrival core wg line s = _
    rw [execSpilledLineArrival, coreEvent_running hoff hrun]
    simp only [hw, harriving, hhold, hsave, Bool.not_true, Option.isSome_none, Bool.or_self, Bool.false_eq_true, if_false]

end Sys2Proof.Machine

/-! # Doorbells, enables and register reads of the host (R5, R98, R99, R430, R435, R437, R445) -/

namespace Sys2Proof.Machine

/-! ## Fields of a register -/

/-- A word without one of its fields is the part above it and the part below it. -/
theorem putFld_toNat (x : DWord) {lo w : Nat} (v : Nat) (h : lo + w ≤ 64) :
    (putFld x lo w v).toNat = 2 ^ lo * (2 ^ w * (x.toNat / 2 ^ lo / 2 ^ w) + v % 2 ^ w) + x.toNat % 2 ^ lo := by
  have hx := Nat.div_add_mod x.toNat (2 ^ lo)
  have hq := Nat.div_add_mod (x.toNat / 2 ^ lo) (2 ^ w)
  have hv : v % 2 ^ w < 2 ^ w := Nat.mod_lt _ (Nat.two_pow_pos w)
  have hlow : x.toNat % 2 ^ lo < 2 ^ lo := Nat.mod_lt _ (Nat.two_pow_pos lo)
  have hhigh : x.toNat / 2 ^ lo / 2 ^ w < 2 ^ (64 - (lo + w)) := by
    rw [Nat.div_div_eq_div_mul, ← Nat.pow_add, Nat.div_lt_iff_lt_mul (Nat.two_pow_pos _), ← Nat.pow_add, Nat.sub_add_cancel h]
    exact x.isLt
  rw [putFld, BitVec.toNat_ofNat, fld]
  generalize x.toNat / 2 ^ lo / 2 ^ w = a at *
  generalize x.toNat / 2 ^ lo % 2 ^ w = b at *
  generalize x.toNat % 2 ^ lo = c at *
  generalize v % 2 ^ w = d at *
  have hsum : x.toNat - b * 2 ^ lo + d * 2 ^ lo = 2 ^ lo * (2 ^ w * a + d) + c := by
    rw [← hx, ← hq, Nat.mul_add, Nat.mul_add, Nat.mul_comm b, Nat.mul_comm d]
    omega
  rw [hsum, Nat.mod_eq_of_lt]
  calc 2 ^ lo * (2 ^ w * a + d) + c < 2 ^ lo * (2 ^ w * a + d + 1) := by rw [Nat.mul_succ]; omega
    _ ≤ 2 ^ lo * (2 ^ w * 2 ^ (64 - (lo + w))) := by
        refine Nat.mul_le_mul_left _ ?_
        have := Nat.mul_le_mul_left (2 ^ w) (Nat.succ_le_of_lt hhigh)
        rw [Nat.mul_succ] at this
        omega
    _ = 2 ^ 64 := by rw [← Nat.pow_add, ← Nat.pow_add]; congr 1; omega

/-- The field that was put. -/
theorem fld_putFld_self (x : DWord) {lo w : Nat} (v : Nat) (h : lo + w ≤ 64) : fld (putFld x lo w v) lo w = v % 2 ^ w := by
  rw [fld, putFld_toNat x v h, Nat.mul_add_div (Nat.two_pow_pos lo),
    Nat.div_eq_of_lt (Nat.mod_lt _ (Nat.two_pow_pos lo)), Nat.add_zero, Nat.mul_add_mod, Nat.mod_mod]

/-- A bit outside the field. -/
theorem bit_putFld_ne (x : DWord) {lo w i : Nat} (v : Nat) (h : lo + w ≤ 64) (hi : i < lo ∨ lo + w ≤ i) :
    bit (putFld x lo w v) i = bit x i := by
  have hlow : x.toNat % 2 ^ lo < 2 ^ lo := Nat.mod_lt _ (Nat.two_pow_pos lo)
  have hv : v % 2 ^ w < 2 ^ w := Nat.mod_lt _ (Nat.two_pow_pos w)
  rw [bit, bit, BitVec.getLsbD, BitVec.getLsbD, putFld_toNat x v h, Nat.testBit_two_pow_mul_add _ hlow]
  split
  · next hlo => rw [Nat.testBit_mod_two_pow, decide_eq_true hlo, Bool.true_and]
  · rw [Nat.testBit_two_pow_mul_add _ hv, if_neg (by omega), Nat.testBit_div_two_pow, Nat.testBit_div_two_pow]
    congr 1
    omega

/-- A bit that was put. -/
theorem bit_putFld_bit (x : DWord) {i : Nat} (v : Nat) (h : i < 64) : bit (putFld x i 1 v) i = decide (v % 2 = 1) := by
  have hlow : x.toNat % 2 ^ i < 2 ^ i := Nat.mod_lt _ (Nat.two_pow_pos i)
  have hv : v % 2 < 2 := Nat.mod_lt _ (by omega)
  rw [bit, BitVec.getLsbD, putFld_toNat x v (by omega), Nat.testBit_two_pow_mul_add _ hlow, if_neg (by omega), Nat.sub_self,
    Nat.testBit_zero]
  congr 1
  rw [Nat.pow_one]
  exact propext (by omega)

/-! ## Enables -/

theorem cfgWrite_enable (data : Bool) (old v : DWord) : bit (cfgWrite data old v) 0 = bit v 0 := by
  rw [cfgWrite, bit_putFld_bit _ _ (by omega), bit, BitVec.getLsbD, Nat.testBit_zero, fld]
  simp

/-- While EN is 1 a write changes EN alone, and the error that it clears. -/
theorem cfgWrite_enabled (data : Bool) {old : DWord} (v : DWord) {i : Nat} (hen : bit old 0 = true) (h0 : 0 < i) (h7 : i ≠ 7) :
    bit (cfgWrite data old v) i = bit old i := by
  rw [cfgWrite]
  simp only [hen, if_true]
  rw [bit_putFld_ne _ _ (by omega) (by omega)]
  split
  · exact bit_putFld_ne _ _ (by omega) (by omega)
  · rfl

/-! ## Halves -/

theorem pr_setPr_self {s : State} (h : nsorted none s.preg = true) (o : Nat) (v : DWord) : (s.setPr o v).pr o = v := by
  rw [State.pr, State.setPr, nset]
  split
  · next hv => rw [hv]; exact nget_ndel_self _ _ _ h
  · exact nget_nins_self _ _ _ _

/-- The high half that a path's shadow holds after a read of the low half. -/
theorem shadow_latchHigh {s : State} (h : nsorted none s.preg = true) (path : HostPath) (vf : Nat) (v : DWord) :
    fld ((s.latchHigh path vf v).pr (vtOfs vf 0x18)) (shadowLo path) 32 = fld v 32 32 := by
  rw [State.latchHigh, pr_setPr_self h, fld_putFld_self _ _ (by cases path <;> decide)]
  exact Nat.mod_eq_of_lt (Nat.mod_lt _ (Nat.two_pow_pos 32))

/-- A read of a register of a module that shows all of its registers. -/
theorem readEvent_eq {path : HostPath} {fn ofs : Nat} {f : HostPath → Nat → Nat → State → State} {s : State}
    (hoff : s.sys.off = false) (hid : s.sys.identityOnly = false) {p : HostPath} {v o : Nat}
    (ht : readTarget path (fn % 2048) (ofs / 8 * 8) = (p, v, o)) :
    readEvent path fn ofs f s = .next (f p v o (if p = .operator ∨ v = pfn then s.noteRead else s)) := by
  rw [readEvent, event_on hoff]
  simp only [hid, Bool.false_and, Bool.false_eq_true, if_false, ht]

/-- What a read names where it names a function's page itself. -/
theorem readTarget_page {path : HostPath} {vf o : Nat} (hvf : vf < 256) : readTarget path vf o = (path, vf, o) := by
  rw [readTarget, if_neg fun h => by rw [h.1] at hvf; exact absurd hvf (by decide)]

/-- What an operator window of the physical function's space names (R445). -/
theorem readTarget_window {path : HostPath} {vf o : Nat} (hvf : vf < 256) (ho : o < 0x10000) :
    readTarget path pfn (0x1000000 + 0x10000 * vf + o) = (.operator, vf, o) := by
  rw [readTarget, if_pos ⟨rfl, by omega, by omega⟩]
  exact congrArg (Prod.mk HostPath.operator) (Prod.ext (by dsimp only; omega) (by dsimp only; omega))

/-- What a read of the physical function's own space names. -/
theorem pf_target {o : Nat} (ho : o % 8 = 0) (hlt : o < 0x1000000) :
    readTarget .operator (pfn % 2048) (o / 8 * 8) = (.operator, pfn, o) := by
  rw [readTarget, if_neg (by omega), show o / 8 * 8 = o from by omega]
  rfl

section
variable {s : State} (hoff : s.sys.off = false) (hid : s.sys.identityOnly = false)
include hoff hid

/-- The read of a wide register's low half: what it shows, and the high half left in the shadow (R5). -/
theorem halfReadLow_wide {path p : HostPath} {fn ofs vf o : Nat} (hfn : fn < 2048) (hvf : vf ≠ pfn) (hwide : wide64 o = true)
    (ht : readTarget path fn (ofs / 8 * 8) = (p, vf, o)) {t : State}
    (hread : (if p = .operator then s.noteRead else s) = t) :
    execHalfReadLow path fn ofs s = .next ({ t with
      hostRead := BitVec.ofNat 64 (fld (t.hostSeen p vf o) 0 32) }.latchHigh p vf (t.hostSeen p vf o)) := by
  rw [← Nat.mod_eq_of_lt hfn] at ht
  rw [execHalfReadLow, readEvent_eq hoff hid ht]
  simp only [hvf, or_false, hread, show ¬ 2048 ≤ fn from by omega, if_false, hwide, ne_eq, not_false_eq_true, and_self, if_true]

/-- The read of its high half shows the shadow. -/
theorem halfReadHigh_wide {path p : HostPath} {fn ofs vf o : Nat} (hfn : fn < 2048) (hvf : vf ≠ pfn) (hwide : wide64 o = true)
    (ht : readTarget path fn (ofs / 8 * 8) = (p, vf, o)) :
    ∃ w, execHalfReadHigh path fn ofs s = .next w ∧
      w.hostRead = BitVec.ofNat 64 (fld (s.pr (vtOfs vf 0x18)) (shadowLo p) 32) := by
  rw [← Nat.mod_eq_of_lt hfn] at ht
  rw [execHalfReadHigh, readEvent_eq hoff hid ht]
  refine ⟨_, rfl, ?_⟩
  simp only [hvf, or_false, hwide, ne_eq, not_false_eq_true, and_self, if_true]
  split <;> rfl

end

/-! ## Tickets -/

theorem nins_ne_nil {α : Type} (m : NMap α) (n : Nat) (x : α) : nins m n x ≠ [] := by
  cases m with
  | nil => exact List.cons_ne_nil _ _
  | cons p m =>
    unfold nins
    split
    · exact List.cons_ne_nil _ _
    · split
      · exact List.cons_ne_nil _ _
      · exact List.cons_ne_nil _ _

theorem vf_setVf_of_ne {s : State} (fn : Nat) {v : Vf} (h : v ≠ {}) : (s.setVf fn v).vf fn = v := by
  rw [State.vf, State.setVf, nset, if_neg h]
  exact nget_nins_self _ _ _ _

/-- Tickets leave the held slots of their function as they are. -/
theorem heldOn_takeTickets (s : State) (vf q : Nat) {n : Nat} (h : 0 < n) : (s.takeTickets vf q n).2.heldOn vf = s.heldOn vf := by
  have hq : ({ nget {} (s.vf vf).jqs q with seq := (s.jq vf q).seq + n } : JQueue) ≠ {} := fun e => by
    have := congrArg JQueue.seq e
    dsimp only at this
    omega
  have hqs : nset {} (s.vf vf).jqs q { nget {} (s.vf vf).jqs q with seq := (s.jq vf q).seq + n } ≠ [] := by
    rw [nset, if_neg hq]
    exact nins_ne_nil _ _ _
  have hvf := vf_setVf_of_ne (s := s) vf (v := { s.vf vf with
    jqs := nset {} (s.vf vf).jqs q { nget {} (s.vf vf).jqs q with seq := (s.jq vf q).seq + n } })
    fun e => hqs (congrArg Vf.jqs e)
  show (((s.setVf vf _).vf vf).dcs.filter _).map _ = _
  rw [hvf]
  rfl

/-- Settles O39. -/
theorem registerEventsComplete : Obligations.RegisterEventsComplete := by
  unfold Obligations.RegisterEventsComplete
  refine ⟨⟨fun s vf q p hoff hid hq => ⟨fun hen hfits => ⟨fun hsame => ?_, fun k t u hk hpos htake => ?_⟩, fun hbad => ?_⟩,
    fun s vf q v hoff hid hq hold hv => ?_, fun s vf q v hoff hid hq hold hv => ?_,
    fun data old v i hen h0 h7 => cfgWrite_enabled data v hen h0 h7, fun data old v => cfgWrite_enable data old v⟩,
    fun s vf q v hoff hid hvf hq => ?_, fun s vf hoff hid => ?_, fun s vf o v hoff hid hsorted hvf ho hwide hv => ?_,
    fun s vf o v hoff hid hsorted hvf ho hlt hwide hv => ?_, fun s o hoff hid ho hlt => ⟨?_, ?_⟩,
    fun s vf o hoff hid hvf ho => ⟨?_, fun hnarrow => ?_⟩, fun s fn ofs v hoff hid => ⟨fun hfn => ?_, fun hfn => ?_⟩⟩
  · show execJobQueueDoorbell vf q p s = _
    rw [execJobQueueDoorbell, hostEvent_running hoff hid, State.doorbell, if_neg (by omega)]
    dsimp only
    rw [if_pos ⟨hen, hfits⟩, if_pos (by rw [hsame, BitVec.sub_self]; rfl)]
  · subst hk
    obtain ⟨rfl, rfl⟩ := Prod.ext_iff.mp htake
    refine ⟨rfl, rfl, rfl, ?_⟩
    show execJobQueueDoorbell vf q p s = _
    rw [execJobQueueDoorbell, hostEvent_running hoff hid, State.doorbell, if_neg (by omega)]
    dsimp only
    rw [if_pos ⟨hen, hfits⟩, if_neg (Nat.ne_of_gt hpos), heldOn_takeTickets s vf q hpos]
  · show execJobQueueDoorbell vf q p s = _
    rw [execJobQueueDoorbell, hostEvent_running hoff hid, State.doorbell, if_neg (by omega)]
    dsimp only
    rw [if_neg]
    rintro ⟨hen, hfits⟩
    obtain hoff | hover := hbad
    · exact absurd hen (by simp [hoff])
    · omega
  · show execQueueEnWrite vf false q v s = _
    rw [execQueueEnWrite, hostEvent_running hoff hid, State.queueEn]
    simp only [Bool.false_eq_true, if_false, Nat.not_le.mpr hq, hold, hv, Bool.not_true, Bool.or_self]
  · show execQueueEnWrite vf true q v s = _
    rw [execQueueEnWrite, hostEvent_running hoff hid, State.queueEn]
    simp only [if_true, if_false, Nat.not_le.mpr hq, hold, hv, Bool.not_true, Bool.or_self, Bool.false_eq_true]
  · show execLatencyMonitorConfig vf q v s = _
    rw [execLatencyMonitorConfig, hostEvent_running hoff hid, if_pos ⟨hvf, hq⟩]
  · show execLogOvfClear vf s = _
    rw [execLogOvfClear, hostEvent_running hoff hid]
    rfl
  · have hpfn : vf ≠ pfn := fun e => by rw [e] at hvf; exact absurd hvf (by decide)
    have ht : readTarget .tenant vf (o / 8 * 8) = (.tenant, vf, o) := by
      rw [show o / 8 * 8 = o from by omega, readTarget_page hvf]
    have ht' : readTarget .tenant vf ((o + 4) / 8 * 8) = (.tenant, vf, o) := by
      rw [show (o + 4) / 8 * 8 = o from by omega, readTarget_page hvf]
    refine ⟨_, halfReadLow_wide hoff hid (by omega) hpfn hwide ht (if_neg nofun), by rw [hv]; rfl, fun hoff hid => ?_⟩
    obtain ⟨w, hw, hshown⟩ := halfReadHigh_wide hoff hid (by omega) hpfn hwide ht'
    refine ⟨w, hw, ?_⟩
    rw [hshown, ← hv]
    exact congrArg (BitVec.ofNat 64) (shadow_latchHigh (s := { s with hostRead := _ }) hsorted .tenant vf _)
  · have hpfn : vf ≠ pfn := fun e => by rw [e] at hvf; exact absurd hvf (by decide)
    have ht : readTarget .operator pfn ((0x1000000 + 0x10000 * vf + o) / 8 * 8) = (.operator, vf, o) := by
      rw [show (0x1000000 + 0x10000 * vf + o) / 8 * 8 = 0x1000000 + 0x10000 * vf + o from by omega, readTarget_window hvf hlt]
    have ht' : readTarget .operator pfn ((0x1000000 + 0x10000 * vf + o + 4) / 8 * 8) = (.operator, vf, o) := by
      rw [show (0x1000000 + 0x10000 * vf + o + 4) / 8 * 8 = 0x1000000 + 0x10000 * vf + o from by omega,
        readTarget_window hvf hlt]
    have hdirect : readTarget .operator vf (o / 8 * 8) = (.operator, vf, o) := by
      rw [show o / 8 * 8 = o from by omega, readTarget_page hvf]
    refine ⟨_, halfReadLow_wide hoff hid (by decide) hpfn hwide ht (if_pos rfl),
      halfReadLow_wide hoff hid (by omega) hpfn hwide hdirect (if_pos rfl), by rw [hv]; rfl, fun hoff hid => ?_⟩
    obtain ⟨w, hw, hshown⟩ := halfReadHigh_wide hoff hid (by decide) hpfn hwide ht'
    refine ⟨w, hw, ?_⟩
    rw [hshown, ← hv]
    exact congrArg (BitVec.ofNat 64) (shadow_latchHigh (s := { s.noteRead with hostRead := _ }) hsorted .operator vf _)
  · show execHalfReadLow .operator pfn o s = _
    rw [execHalfReadLow, readEvent_eq hoff hid (pf_target ho hlt)]
    simp only [true_or, if_true, show ¬ 2048 ≤ pfn from by decide, if_false, ne_eq, not_true_eq_false, false_and]
  · show execHalfReadHigh .operator pfn (o + 4) s = _
    have ht : readTarget .operator (pfn % 2048) ((o + 4) / 8 * 8) = (.operator, pfn, o) := by
      rw [show (o + 4) / 8 * 8 = o / 8 * 8 from by omega, pf_target ho hlt]
    rw [execHalfReadHigh, readEvent_eq hoff hid ht]
    simp only [true_or, if_true, ne_eq, not_true_eq_false, false_and, if_false]
  · show execHalfReadLow .tenant (2048 + vf) o s = _
    have ht : readTarget .tenant ((2048 + vf) % 2048) (o / 8 * 8) = (.tenant, vf, o) := by
      rw [show (2048 + vf) % 2048 = vf from by omega, show o / 8 * 8 = o from by omega, readTarget_page hvf]
    have hpfn : vf ≠ pfn := fun e => by rw [e] at hvf; exact absurd hvf (by decide)
    rw [execHalfReadLow, readEvent_eq hoff hid ht]
    simp only [reduceCtorEq, false_or, hpfn, if_false, show 2048 ≤ 2048 + vf from by omega, if_true]
  · show execHalfReadLow .tenant vf o s = _
    have ht : readTarget .tenant (vf % 2048) (o / 8 * 8) = (.tenant, vf, o) := by
      rw [show vf % 2048 = vf from by omega, show o / 8 * 8 = o from by omega, readTarget_page hvf]
    have hpfn : vf ≠ pfn := fun e => by rw [e] at hvf; exact absurd hvf (by decide)
    rw [execHalfReadLow, readEvent_eq hoff hid ht]
    simp only [reduceCtorEq, false_or, hpfn, if_false, show ¬ 2048 ≤ vf from by omega, hnarrow, Bool.false_eq_true, and_false]
  · show execRegisterWrite fn ofs v s = _
    rw [execRegisterWrite, hostEvent_running hoff hid, if_pos hfn]
  · show execRegisterWrite fn ofs v s = _
    rw [execRegisterWrite, hostEvent_running hoff hid, if_neg (by rw [hfn]; decide), if_pos hfn]

end Sys2Proof.Machine

/-! # Parsing, dealing, stealing and starting work (R96, R102, R104, R107, R108) -/

namespace Sys2Proof.Machine

section
variable {s u : State} {vf q : Nat} (hoff : s.sys.off = false) (hbound : (s.bound vf).isSome = true)
  (hstate : (s.vf vf).pstate ≠ .halted) (hfence : ((s.inQueue vf q).any fun p => p.2.parsed && p.2.kind == 1) = false)
  (hwaits : (s.vf vf).cardWaits q = false) (hu : u = s.enterConts vf) (hconts : u.contsOf vf q = [])
include hoff hbound hstate hfence hwaits hu hconts

/-- The oldest entered card is parsed where the ring holds no older one (R96). -/
theorem cardParse_entered {p : Nat × Job} (hp : u.unparsed vf q = some p)
    (hring : ∀ r ∈ (u.jq vf q).ring.head?, p.2.seq < r.seq) (hheld : u.parseHeld p.2 = false) :
    execCardParse vf q s = .next (u.parse p.1 p.2) := by
  have hgo : ((s.bound vf).isNone || (s.vf vf).pstate == .halted || (s.vf vf).cardWaits q ||
      (s.inQueue vf q).any fun p => p.2.parsed && p.2.kind == 1) = false := by
    rw [hfence, hwaits, ← Option.not_isSome, hbound, beq_eq_false_iff_ne.mpr hstate]; rfl
  rw [execCardParse, event_on hoff]
  simp only [hgo, Bool.false_eq_true, if_false, ← hu, hp, hconts, List.all_nil, hheld, Bool.not_false, Bool.and_self, if_true]
  cases hhead : (u.jq vf q).ring.head? with
  | none => rfl
  | some r =>
    have hlt : p.2.seq < r.seq := hring r (by rw [hhead]; rfl)
    simp only [Option.any_some, hlt, decide_true, if_true]

/-- With none the next card of the ring is entered and parsed (R96). -/
theorem cardParse_ring {r : RingCards} {p : Nat × Job} (hhead : (u.jq vf q).ring.head? = some r)
    (hnone : ((u.unparsed vf q).any fun p => decide (p.2.seq < r.seq)) = false) (hroom : u.copyRoom vf q = true)
    (hslot : u.fnHeld vf r.slot = false) (hp : (u.copyCard vf q r).unparsed vf q = some p) (hseq : p.2.seq = r.seq)
    (hheld : (u.copyCard vf q r).parseHeld p.2 = false) :
    execCardParse vf q s = .next ((u.copyCard vf q r).parse p.1 p.2) := by
  have hgo : ((s.bound vf).isNone || (s.vf vf).pstate == .halted || (s.vf vf).cardWaits q ||
      (s.inQueue vf q).any fun p => p.2.parsed && p.2.kind == 1) = false := by
    rw [hfence, hwaits, ← Option.not_isSome, hbound, beq_eq_false_iff_ne.mpr hstate]; rfl
  rw [execCardParse, event_on hoff]
  simp only [hgo, Bool.false_eq_true, if_false, ← hu, hhead, hnone, hconts, List.all_nil, hroom, hslot, hp, hseq, hheld,
    beq_self_eq_true, Bool.not_true, Bool.not_false, Bool.or_self, Bool.and_self, if_true]

end

/-- Settles O40. -/
theorem dealerEventsComplete : Obligations.DealerEventsComplete := by
  unfold Obligations.DealerEventsComplete
  refine ⟨⟨fun s u vf q hoff hbound hstate hfence hwaits hu hconts => ⟨fun p hp hring hheld => ?_,
    fun r p hhead hnone hroom hslot hp hseq hheld => ?_⟩, fun s t vf q hoff ht hstate p hp => ⟨fun hmet hgate hturn hdrain hheld => ?_,
    fun hunmet => ?_⟩, fun s id j hoff hj hkind hrem hstart hidle hheld hrefused => ?_⟩, fun s t part hoff ht => ?_,
    fun s core v i ch hoff hrun hon hclock hready hempty hlargest => ⟨fun hone => ?_, fun j hmany hj => ?_⟩,
    fun s core ch rest j hoff hrun hq hj hset hdealt hgate hfits => ?_⟩
  · exact cardParse_entered hoff hbound hstate hfence hwaits hu hconts hp hring hheld
  · exact cardParse_ring hoff hbound hstate hfence hwaits hu hconts hhead hnone hroom hslot hp hseq hheld
  · show execFenceConditionMet vf q s = _
    rw [execFenceConditionMet, event_on hoff]
    have hdrain : (!bit (wordAtD p.2.words 7) 4 || (t.inQueue vf q).all fun x => decide (p.2.seq ≤ x.2.seq)) = true := by
      cases hb : bit (wordAtD p.2.words 7) 4 with
      | false => rfl
      | true => simpa using hdrain hb
    simp only [← ht, hstate, if_false, hp, hmet, hgate, hturn, hdrain, hheld, decide_true, Bool.not_false, Bool.and_self, if_true]
  · show execFenceConditionMet vf q s = _
    rw [execFenceConditionMet, event_on hoff]
    simp only [← ht, hstate, if_false, hp, hunmet, decide_false, Bool.false_and, Bool.false_eq_true]
  · show execJobComplete id s = _
    rw [execJobComplete, event_on hoff]
    have hdone : s.completable id j = true := by simp [State.completable, hkind, hrem, hstart, hidle]
    simp only [hj, hdone, hheld, hrefused, Bool.not_true, Bool.or_self, Bool.false_eq_true, if_false, Option.isNone_none,
      Bool.and_true, decide_eq_true_eq]
    split <;> rfl
  · show execDealChunk part s = _
    rw [execDealChunk, event_on hoff]
    simp only [ht]
  · show execStealChunk core s = _
    rw [execStealChunk, coreEvent_running hoff hrun]
    simp only [hon, hclock, hready, hempty, hlargest, hone, Bool.not_true, Bool.or_self, List.isEmpty_nil, Bool.false_eq_true, if_false, if_true]
  · show execStealChunk core s = _
    rw [execStealChunk, coreEvent_running hoff hrun]
    simp only [hon, hclock, hready, hempty, hlargest, Nat.not_le.mpr hmany, hj, Bool.not_true, Bool.or_self, List.isEmpty_nil,
      Bool.false_eq_true, if_false]
    rfl
  · show execWorkgroupStart core s = _
    rw [execWorkgroupStart, coreEvent_running hoff hrun]
    have hmax : max 1 ch.setSize = 1 := by omega
    simp only [hq, hj, hset, if_true, hdealt, hgate, hfits, hmax, List.length_cons, List.length_nil, List.all_cons, List.all_nil,
      Bool.not_false, Bool.and_self, beq_self_eq_true, List.foldl_cons, List.foldl_nil]

end Sys2Proof.Machine

/-! # Pieces of copies and commands of the engine (R322, R333, R351, R352, R371, R372) -/

namespace Sys2Proof.Machine

/-- Settles O41. -/
theorem copyAndEngineEventsComplete : Obligations.CopyAndEngineEventsComplete := by
  unfold Obligations.CopyAndEngineEventsComplete
  refine ⟨⟨?_, ?_, ?_⟩, ?_, ?_, ?_, ?_, ?_⟩
  · intro s u w core cmd row ofs k r q pa l2 hoff hrun hk hfailed hhold hkind hbad hrow hpiece hgot hlocal hat hpoison hw
    show execCopyPiece core cmd false row ofs s = _
    rw [execCopyPiece, coreEvent_running hoff hrun]
    simp only [hk, hfailed, hhold, hbad, hrow, hpiece, State.readPiece, hgot, hlocal, hat, State.sourceAbsent, hpoison, ← hw,
      Option.isSome_none, Bool.or_self, Bool.and_false, Bool.false_eq_true, if_false]
  · intro s u core cmd row ofs k r q pa l2 data hoff hrun hk hfailed hhold hkind hrow hpiece hput hdata hlocal hat
    show execCopyPiece core cmd true row ofs s = _
    rw [execCopyPiece, coreEvent_running hoff hrun]
    simp only [hk, hfailed, hhold, hkind, hrow, hpiece, State.writePiece, hput, hdata, hlocal, hat, Option.isSome_none, Bool.not_true,
      Bool.or_self, Bool.and_false, Bool.false_and, Bool.false_eq_true, false_and, beq_eq_false_iff_ne.mpr hkind, if_false, if_true]
  · intro s core cmd k hoff hrun hk hhold hfailed hwritten hsent hnote hfut
    show execCopyComplete core cmd s = _
    rw [execCopyComplete, coreEvent_running hoff hrun]
    simp only [hk, hhold, hfailed, hwritten, hsent, hnote, State.copyResolve, hfut, Option.isSome_none, Option.isNone_none,
      List.isEmpty_nil, Bool.not_true, Bool.not_false, Bool.or_self, Bool.and_false, Bool.false_and, Bool.false_eq_true, if_false,
      if_true]
  · intro s core cmd k hoff hrun hk hstart hlanes hdrain
    show execEngineCommandStart core cmd [] s = _
    rw [execEngineCommandStart, coreEvent_running hoff hrun]
    simp only [hk, List.foldl_nil, hstart, hlanes, Bool.not_true, Bool.or_self, Bool.false_eq_true, if_false]
  · intro s core cmd k fb rw a opts hoff hrun hk hstart hop
    show execEngineCommandStart core cmd [] s = _
    rw [execEngineCommandStart, coreEvent_running hoff hrun]
    simp only [hk, List.foldl_nil, hstart, hop, EOp.lanesDrain, Bool.not_true, Bool.or_self, Bool.false_eq_true, if_false,
      List.filterMap_nil]
    rfl
  · intro s core cmd i k x hoff hrun hk hstart hx habsent hpoison hnew hstart'
    show execEngineCommandStart core cmd [i] s = _
    rw [execEngineCommandStart, coreEvent_running hoff hrun]
    simp only [hk, List.foldl_cons, List.foldl_nil, hx, State.engRead, habsent, hpoison, hnew, Option.isSome_none, Bool.or_self,
      Bool.false_eq_true, if_false, hstart', Bool.not_false, Bool.true_or, if_true]
  · intro s core cmd k hoff hrun hk hstarted hheld hpoison
    refine ⟨fun g hg => ?_, fun hg => ?_⟩
    · show execEngineCommandComplete core cmd s = _
      rw [execEngineCommandComplete, coreEvent_running hoff hrun]
      simp only [hk, hstarted, hheld, hpoison, hg, Bool.not_true, Bool.or_self, Bool.false_eq_true, if_false]
    · show execEngineCommandComplete core cmd s = _
      rw [execEngineCommandComplete, coreEvent_running hoff hrun]
      simp only [hk, hstarted, hheld, hpoison, hg, Bool.not_true, Bool.or_self, Bool.false_eq_true, if_false]
  · intro s core cmd slot0 k sat hoff hrun hk hop hstart
    show execAdrvDrain core cmd s = _
    rw [execAdrvDrain, coreEvent_running hoff hrun]
    simp only [hk, hop, hstart, if_true]

end Sys2Proof.Machine

/-! # The active set and power gating (R149, R150, R167 to R169, R494) -/

namespace Sys2Proof.Machine

/-! ## The best ready group -/

/-- A group that the scheduler would not pass over for the other: less progress, or as much and an older start. -/
def NotAfter (b x : Nat × Group) : Prop :=
  b.2.progress.toNat ≤ x.2.progress.toNat ∧ (x.2.progress = b.2.progress → b.2.start ≤ x.2.start)

theorem NotAfter.refl (b : Nat × Group) : NotAfter b b := ⟨Nat.le_refl _, fun _ => Nat.le_refl _⟩

theorem NotAfter.trans {a b c : Nat × Group} (h : NotAfter a b) (k : NotAfter b c) : NotAfter a c :=
  ⟨Nat.le_trans h.1 k.1, fun e => by
    have hab : b.2.progress = a.2.progress := BitVec.eq_of_toNat_eq (by have := h.1; have := k.1; rw [e] at this; omega)
    exact Nat.le_trans (h.2 hab) (k.2 (e.trans hab.symm))⟩

/-- What the search for the best group does with the next one. -/
def bestStep (y x : Nat × Group) : Nat × Group :=
  if x.2.progress.toNat < y.2.progress.toNat ∨ (x.2.progress = y.2.progress ∧ x.2.start < y.2.start) then x else y

theorem bestStep_cases (y x : Nat × Group) : NotAfter (bestStep y x) y ∧ NotAfter (bestStep y x) x ∧
    (bestStep y x = x ∨ bestStep y x = y) := by
  unfold bestStep
  split
  · next h =>
    refine ⟨⟨?_, fun e => ?_⟩, .refl x, .inl rfl⟩
    · obtain h | ⟨h, -⟩ := h
      · exact Nat.le_of_lt h
      · exact Nat.le_of_eq (congrArg BitVec.toNat h)
    · obtain h | ⟨-, h⟩ := h
      · rw [e] at h; exact absurd h (Nat.lt_irrefl _)
      · exact Nat.le_of_lt h
  · next h =>
    refine ⟨.refl y, ⟨?_, fun e => ?_⟩, .inr rfl⟩
    · exact Nat.le_of_not_lt fun hlt => h (.inl hlt)
    · exact Nat.le_of_not_lt fun hlt => h (.inr ⟨e, hlt⟩)

theorem foldl_bestStep (l : List (Nat × Group)) (a : Nat × Group) : (l.foldl bestStep a = a ∨ l.foldl bestStep a ∈ l) ∧
    NotAfter (l.foldl bestStep a) a ∧ ∀ x ∈ l, NotAfter (l.foldl bestStep a) x := by
  induction l generalizing a with
  | nil => exact ⟨.inl rfl, NotAfter.refl a, List.forall_mem_nil _⟩
  | cons y l ih =>
    obtain ⟨hmem, hfirst, hrest⟩ := ih (bestStep a y)
    obtain ⟨ha, hy, hone⟩ := bestStep_cases a y
    refine ⟨?_, hfirst.trans ha, ?_⟩
    · obtain h | h := hmem
      · obtain h' | h' := hone
        · exact .inr (by rw [List.foldl_cons, h, h']; exact List.mem_cons_self)
        · exact .inl (by rw [List.foldl_cons, h, h'])
      · exact .inr (List.mem_cons_of_mem _ h)
    · intro x hx
      obtain rfl | hx := List.mem_cons.mp hx
      · exact hfirst.trans hy
      · exact hrest x hx

theorem bestGroup_cons (a : Nat × Group) (l : List (Nat × Group)) : bestGroup (a :: l) = some (l.foldl bestStep a) := by
  unfold bestGroup
  rw [List.foldl_cons]
  induction l generalizing a with
  | nil => rfl
  | cons y l ih =>
    rw [List.foldl_cons, List.foldl_cons, ← ih (bestStep a y)]
    unfold bestStep
    dsimp only
    congr 1
    split <;> rfl

/-- The best group is one of the list that comes after none of it (R149). -/
theorem bestGroup_spec {l : List (Nat × Group)} {b : Nat × Group} (h : bestGroup l = some b) :
    b ∈ l ∧ ∀ x ∈ l, NotAfter b x := by
  cases l with
  | nil => cases h
  | cons a l =>
    rw [bestGroup_cons] at h
    obtain rfl := Option.some.inj h
    obtain ⟨hmem, hfirst, hrest⟩ := foldl_bestStep l a
    refine ⟨?_, fun x hx => ?_⟩
    · obtain h | h := hmem
      · rw [h]; exact List.mem_cons_self
      · exact List.mem_cons_of_mem _ h
    · obtain rfl | hx := List.mem_cons.mp hx
      · exact hfirst
      · exact hrest x hx

/-! ## Swaps -/

theorem core_modCore_self {s : State} {c : Nat} (h : c < 64) (f : Core → Core) : (s.modCore c f).core c = f (s.core c) :=
  State.core_setCore_self h

/-- A change of a group leaves its core's active set and swaps. -/
theorem core_modGroup {α : Type} (f : Core → α) (hf : ∀ k gs, f { k with groups := gs } = f k) (s : State) (c n : Nat)
    (h : Group → Group) : f ((s.modGroup c n h).core c) = f (s.core c) := by
  unfold State.modGroup
  split
  · next g hg => rw [State.setGroup, core_modCore_self (State.group?_lt hg), hf]
  · rfl

/-- A swap puts the group into its place for 8 clocks (R150). -/
theorem swapIn_core {s : State} {core a : Nat} (n : Nat) (hc : core < 64) (ha : a < 8) :
    ((s.swapIn core a n).core core).active.toList.getD a none = some n ∧
    ((s.swapIn core a n).core core).swapping (s.clock + 7) a = true ∧
    ((s.swapIn core a n).core core).swapping (s.clock + 8) a = false := by
  unfold State.swapIn
  extract_lets t
  have hclock : t.clock = s.clock := by
    simp only [t]
    split <;> simp
  clear_value t
  rw [← hclock, State.enterActive, core_modGroup (fun k => k.active.toList.getD a none) (fun _ _ => rfl),
    core_modGroup (fun k => k.swapping (t.clock + 7) a) (fun _ _ => rfl),
    core_modGroup (fun k => k.swapping (t.clock + 8) a) (fun _ _ => rfl), core_modCore_self hc, core_modCore_self hc]
  refine ⟨?_, ?_, ?_⟩
  · simp [ha]
  · simp [Core.swapping]
  · simp [Core.swapping]
    exact fun _ _ _ _ hne _ he => absurd he hne

/-! ## Gating -/

/-- A core whose entry is due is not gated yet. -/
theorem entryDue_notGated {s : State} {core : Nat} (h : s.entryDue core = true) : (s.core core).gate.gated = false := by
  refine Bool.eq_false_iff.mpr fun hg => ?_
  simp [State.entryDue, State.entryClock, hg] at h

theorem modCore_congr {s : State} {c : Nat} {f g : Core → Core} (h : f (s.core c) = g (s.core c)) :
    s.modCore c f = s.modCore c g := congrArg (s.setCore c) h

/-- Idleness that ends in the entry clock of a core that is not gated aborts the entry (R168). -/
theorem rouse_entry {g : Gating} {clock : Nat} (h : g.gated = false) : g.rouse (some clock) clock = g.abort clock := by
  rw [Gating.rouse, if_neg (by simp [h]), if_pos rfl]

theorem rouse_later {g : Gating} {entry : Option Nat} {clock : Nat} (h : g.gated = false) (he : entry ≠ some clock) :
    g.rouse entry clock = { g with idleSince := none } := by
  rw [Gating.rouse, if_neg (by simp [h]), if_neg he]

/-- A wake in the clock of an entry that has been made undoes it. -/
theorem rouse_gated {g : Gating} {entry : Option Nat} {clock : Nat} (h : g.gated = true) (he : g.entryAt = clock) :
    g.rouse entry clock = Gating.abort { g with gated := false, entries := g.entries - 1 } clock := by
  rw [Gating.rouse, if_pos ⟨h, he⟩]

/-- Settles O42. -/
theorem schedulerEventsComplete : Obligations.SchedulerEventsComplete := by
  unfold Obligations.SchedulerEventsComplete
  refine ⟨⟨?_, ?_, ?_, fun s core a n hc ha => swapIn_core n hc ha, fun l b h => bestGroup_spec h⟩, ?_, ?_, ?_, ?_, ?_⟩
  · intro s core a n g hoff hrun hclock hfree hbest
    show execFreeSlotFill core s = _
    rw [execFreeSlotFill, coreEvent_running hoff hrun]
    simp only [hclock, Bool.not_true, Bool.false_eq_true, if_false, hfree, hbest]
  · intro s core a n g hoff hrun hclock hfree hfind hbest
    show execSchedulerSwap core a s = _
    rw [execSchedulerSwap, coreEvent_running hoff hrun]
    simp only [hclock, hfree, hfind, hbest, Bool.not_true, Option.isSome_none, Bool.or_self, bne_self_eq_false, Bool.false_eq_true,
      if_false]
  · intro s core n a v t g hoff hrun hclock hfree hcand hforced hready hsince hdue hvictim
    show execForcedSwap core s = _
    rw [execForcedSwap, coreEvent_running hoff hrun]
    simp only [hclock, hfree, hcand, beq_eq_false_iff_ne.mpr hforced, hready, hvictim, List.filter_cons, List.filter_nil, hsince,
      hdue, decide_true, if_true, List.foldl_cons, List.foldl_nil, Bool.not_true, Option.isSome_none, Bool.or_self,
      Bool.false_eq_true, if_false]
  · intro s core hoff hrun hdue
    have hgated := entryDue_notGated hdue
    refine ⟨fun hidle => ?_, fun hidle hentry => ?_, fun hidle hentry => ?_⟩
    · show execGatingEntry core s = _
      rw [execGatingEntry, coreEvent_running hoff hrun]
      simp only [hdue, hidle, Bool.not_true, Bool.false_eq_true, if_false, if_true]
    · show execGatingEntry core s = _
      rw [execGatingEntry, coreEvent_running hoff hrun]
      simp only [hdue, hidle, Bool.not_true, Bool.false_eq_true, if_false]
      rw [hentry]
      exact congrArg Host.Outcome.next (modCore_congr (congrArg (fun g => { s.core core with gate := g }) (rouse_entry hgated)))
    · show execGatingEntry core s = _
      rw [execGatingEntry, coreEvent_running hoff hrun]
      simp only [hdue, hidle, Bool.not_true, Bool.false_eq_true, if_false]
      exact congrArg Host.Outcome.next (modCore_congr (congrArg (fun g => { s.core core with gate := g })
        (rouse_later hgated hentry)))
  · intro s core hoff hrun hdue
    show execGatingEntry core s = _
    rw [execGatingEntry, coreEvent_running hoff hrun]
    simp only [hdue, Bool.not_false, if_true]
  · intro s core hgated
    unfold State.wakeCore
    refine ⟨fun hentry hexit => modCore_congr ?_, fun hentry => modCore_congr ?_⟩
    · dsimp only
      rw [if_pos ⟨hgated, hentry⟩, if_neg (by rw [hexit]; exact Bool.false_ne_true)]
    · dsimp only
      rw [if_neg fun h => h.2 hentry]
      exact congrArg (fun g => { s.core core with gate := g }) (rouse_gated hgated hentry)
  · intro s core t hoff hrun ht
    refine ⟨fun hdue => ?_, fun hnot => ?_⟩
    · show execGatingHoldoffExpire core s = _
      rw [execGatingHoldoffExpire, coreEvent_running hoff hrun]
      simp only [ht, hdue, if_true]
    · show execGatingHoldoffExpire core s = _
      rw [execGatingHoldoffExpire, coreEvent_running hoff hrun]
      simp only [ht, Nat.not_le.mpr hnot, if_false]
  · intro s core t hoff hrun ht
    refine ⟨fun hdue => ?_, fun hnot => ?_⟩
    · show execGatingExitDone core s = _
      rw [execGatingExitDone, coreEvent_running hoff hrun]
      simp only [ht, hdue, if_true]
    · show execGatingExitDone core s = _
      rw [execGatingExitDone, coreEvent_running hoff hrun]
      simp only [ht, Nat.not_le.mpr hnot, if_false]

end Sys2Proof.Machine

/-! # Pre-emption, its rows and its tiles (R414 to R420, R425, R429) -/

namespace Sys2Proof.Machine

/-! ## Claims -/

theorem mem_insertHalt {x y : Nat × Group} {l : List (Nat × Group)} : y ∈ insertHalt x l ↔ y = x ∨ y ∈ l := by
  induction l with
  | nil => simp [insertHalt]
  | cons z l ih =>
    unfold insertHalt
    split
    · simp
    · simp only [List.mem_cons, ih]
      exact or_left_comm

theorem mem_foldr_insertHalt {y : Nat × Group} {l : List (Nat × Group)} : y ∈ l.foldr insertHalt [] ↔ y ∈ l := by
  induction l with
  | nil => rfl
  | cons x l ih => rw [List.foldr_cons, mem_insertHalt, ih, List.mem_cons]

/-- Rows that are claimed are unclaimed rows of halted groups that may lose them (R417). -/
theorem mem_claims {k : Core} {w : RowWant} {n r : Nat} (h : (n, r) ∈ (k.claims w).1) :
    ∃ g : Group, (n, g) ∈ k.groups ∧ g.gstate = .halted ∧ w.may n g = true ∧ g.claimed.contains r = false := by
  have hmem : (n, r) ∈ k.claimOrder (k.claimable w.may) := List.mem_of_mem_take h
  have hrow : ∀ live : Bool, (n, r) ∈ (k.claimable w.may).flatMap (fun p =>
      ((List.range (k.rowsOf p.2)).filter fun r => !p.2.claimed.contains r && p.2.rowLive r == live).map fun r => (p.1, r)) →
      ∃ g : Group, (n, g) ∈ k.groups ∧ g.gstate = .halted ∧ w.may n g = true ∧ g.claimed.contains r = false := by
    intro live hl
    obtain ⟨p, hp, hl⟩ := List.mem_flatMap.mp hl
    obtain ⟨r', hr, he⟩ := List.mem_map.mp hl
    obtain ⟨hn, rfl⟩ := Prod.ext_iff.mp he
    obtain ⟨-, hr⟩ := List.mem_filter.mp hr
    obtain ⟨hgroup, hmay⟩ := List.mem_filter.mp (mem_foldr_insertHalt.mp hp)
    rw [Bool.and_eq_true] at hr hmay
    obtain ⟨hhalted, hmay⟩ := hmay
    subst hn
    exact ⟨p.2, hgroup, eq_of_beq hhalted, hmay, by simpa using hr.1⟩
  rw [Core.claimOrder, List.mem_append] at hmem
  exact hmem.elim (hrow false) (hrow true)

/-! ## Stops -/

/-- Settles O43. -/
theorem preemptionEventsComplete : Obligations.PreemptionEventsComplete := by
  unfold Obligations.PreemptionEventsComplete
  refine ⟨⟨?_, ?_, ?_, ?_, ?_⟩, ?_, ?_, fun k w n r h => mem_claims h, ?_⟩
  · intro s vf hoff hid
    refine ⟨fun hstate hbound => ?_, fun p hstate hbound => ?_, fun hstate hat => ?_, fun hstate hat => ?_⟩
    · show execPreemptReq vf s = _
      rw [execPreemptReq, hostEvent_running hoff hid, State.stopVf, if_neg (not_not_intro hstate)]
      have hbound' : (s.modVf vf fun v => { v with pstate := .stopping, reqAt := s.clock, bySlicer := false }).bound vf = none := hbound
      simp only [hbound']
    · show execPreemptReq vf s = _
      rw [execPreemptReq, hostEvent_running hoff hid, State.stopVf, if_neg (not_not_intro hstate)]
      have hbound' : (s.modVf vf fun v => { v with pstate := .stopping, reqAt := s.clock, bySlicer := false }).bound vf = some p := hbound
      simp only [hbound']
    · show execPreemptReq vf s = _
      rw [execPreemptReq, hostEvent_running hoff hid, State.stopVf, if_pos hstate]
      simp only [State.modVf, beq_eq_false_iff_ne.mpr hat, Bool.not_false, Bool.and_false, Bool.false_and, Bool.false_eq_true, if_false]
    · have hstate' : (s.vf vf).pstate ≠ .running := by obtain h | h := hstate <;> rw [h] <;> nofun
      have hor : ((s.vf vf).pstate == .stopping || (s.vf vf).pstate == .halted) = true := by
        obtain h | h := hstate <;> rw [h] <;> rfl
      show execPreemptReq vf s = _
      rw [execPreemptReq, hostEvent_running hoff hid, State.stopVf, if_pos hstate']
      simp only [State.modVf, hat, hor, beq_self_eq_true, Bool.not_false, Bool.and_self, if_true]
  · intro s core slot g hoff hrun hg hstate hvf hclock
    refine ⟨fun hparked => ?_, fun e hresume hstop hhandler hslot hentry => ⟨fun hpend => ?_, fun hpend => ?_⟩,
      fun hresume hstop hslot hlate hdue => ?_⟩
    · show execGroupPreemptStop core slot s = _
      rw [execGroupPreemptStop, coreEvent_running hoff hrun]
      have hparked : (g.dstop || g.resume != .none) = true := by
        obtain h | h := hparked
        · rw [h, Bool.true_or]
        · rw [bne_iff_ne.mpr h, Bool.or_true]
      simp only [hg, hstate, hvf, hclock, ne_eq, not_true_eq_false, Bool.not_true, Bool.false_eq_true, or_self, if_false, hparked,
        if_true]
    · show execGroupPreemptStop core slot s = _
      rw [execGroupPreemptStop, coreEvent_running hoff hrun]
      have hdue : g.faultDue = true := by
        rw [Group.faultDue, hresume, hhandler, List.isEmpty_eq_false_iff.mpr hpend]; rfl
      simp only [hg, hstate, hvf, hclock, ne_eq, not_true_eq_false, Bool.not_true, Bool.false_eq_true, or_self, if_false, hstop,
        hresume, hdue, bne_self_eq_false, Bool.or_self, Bool.and_false]
    · show execGroupPreemptStop core slot s = _
      rw [execGroupPreemptStop, coreEvent_running hoff hrun]
      have hdue : g.faultDue = false := by
        rw [Group.faultDue, hresume, hhandler, hpend]; rfl
      have hhere : s.stopsHere g = true := by rw [State.stopsHere, hvf, hhandler, hslot, hentry]; rfl
      simp only [hg, hstate, hvf, hclock, ne_eq, not_true_eq_false, Bool.not_true, Bool.not_false, Bool.false_eq_true, or_self,
        if_false, hstop, hresume, hdue, hhere, hentry, bne_self_eq_false, Bool.or_self, Bool.and_self, if_true, Option.map_some, Option.getD_some]
    · show execPreemptTimeout core slot s = _
      rw [execPreemptTimeout, coreEvent_running hoff hrun]
      have hout : s.timesOut g = true := by rw [State.timesOut, hvf, hslot, decide_eq_true hlate]; rfl
      simp only [hg, hstate, hclock, hstop, hresume, hdue, hout, ne_eq, not_true_eq_false, Bool.not_true, Bool.false_eq_true,
        or_self, if_false]
  · intro s vf hoff hid
    refine ⟨fun hstate => ?_, fun hstate => ?_⟩
    · show execPreemptResume vf s = _
      rw [execPreemptResume, hostEvent_running hoff hid, State.resumeVf, if_neg (not_not_intro hstate)]
    · show execPreemptResume vf s = _
      rw [execPreemptResume, hostEvent_running hoff hid, State.resumeVf, if_pos hstate]
  · intro s p i v hoff hsliced hswitch hdue hnext hv
    have hgo : ¬ ((!s.sliced p) = true ∨ (s.part p).switching = true ∨
        s.ref < (s.part p).turnStart + 1000 * max 1 (fld (s.pr (sliceOfs p 0)) 16 32)) := by
      rw [hsliced, hswitch]
      simpa using hdue
    refine ⟨fun h => ?_, fun h => ?_, fun h => ?_, fun h => ?_⟩
    all_goals
      show execQuantumExpire p s = _
      rw [execQuantumExpire, event_on hoff]
      dsimp only
      rw [if_neg hgo, hnext]
      simp only [hv, h]
  · intro s p hoff hsliced hswitch hdue hnext
    have hgo : ¬ ((!s.sliced p) = true ∨ (s.part p).switching = true ∨
        s.ref < (s.part p).turnStart + 1000 * max 1 (fld (s.pr (sliceOfs p 0)) 16 32)) := by
      rw [hsliced, hswitch]
      simpa using hdue
    show execQuantumExpire p s = _
    rw [execQuantumExpire, event_on hoff]
    dsimp only
    rw [if_neg hgo, hnext]
  · intro s core slot g hoff hrun hg hstate hvf hmiss hclaimed hfits hqueue htiles hbank
    show execGroupResume core slot s = _
    rw [execGroupResume, coreEvent_running hoff hrun]
    have hrows : ((s.core core).needsBack g).1 = 0 := by rw [Core.needsBack, hclaimed]; rfl
    simp only [hg, hstate, hvf, hmiss, hrows, Nat.not_lt_zero, Nat.not_lt.mpr hfits, hqueue, List.any_nil, htiles, hbank, ne_eq,
      not_true_eq_false, Bool.not_true, Bool.false_eq_true, Option.isSome_none, or_self, if_false, hclaimed, List.filter_nil,
      State.rowPages]
  · intro s core w hoff hrun hw hrows hspads
    show execRowClaimComplete core s = _
    rw [execRowClaimComplete, coreEvent_running hoff hrun]
    have hheld : (((s.core core).claims w).1.any fun p => (s.group? core p.1).any fun g =>
        g.rowLive p.2 && s.rowHeld core g p.2) = false := by
      rw [List.any_eq_false]
      intro p hp
      cases hg : s.group? core p.1 with
      | none => simp
      | some g =>
        cases hlive : g.rowLive p.2 with
        | false => simp [hlive]
        | true => simp [(hrows p hp g hg).2.2 hlive]
    have hspad : (((s.core core).claims w).2.any fun p => (nfind (s.core core).wgs p.1).any fun w =>
        s.spadHeld core w p.2) = false := by
      rw [List.any_eq_false]
      intro p hp
      cases hx : nfind (s.core core).wgs p.1 with
      | none => simp
      | some x => simp [((hspads p hp).2 x hx).2]
    have hpending : (((s.core core).claims w).1.any fun p => ((s.group? core p.1).any fun g => !g.pends.isEmpty) ||
        (s.group? core p.1).any fun g => s.logQuiet g.vf) = false := by
      rw [List.any_eq_false]
      intro p hp
      cases hg : s.group? core p.1 with
      | none => simp
      | some g =>
        obtain ⟨hpends, hlog, -⟩ := hrows p hp g hg
        simp [hpends, hlog]
    have hlanding : (((s.core core).claims w).2.any fun p => (s.core core).landing p ||
        (nfind (s.core core).wgs p.1).any fun w => s.logQuiet w.vf) = false := by
      rw [List.any_eq_false]
      intro p hp
      obtain ⟨hland, hx⟩ := hspads p hp
      cases hw : nfind (s.core core).wgs p.1 with
      | none => simp [hland]
      | some x => simp [hland, (hx x hw).1]
    simp only [hw, hheld, hspad, hpending, hlanding, Bool.or_self, Bool.false_eq_true, if_false]
  · intro s core n tile hoff hrun hn hwait hsaved hqueue
    show execTileSpill core tile s = _
    rw [execTileSpill, coreEvent_running hoff hrun]
    have hwanted : (!((s.eng core).tile tile.val).waiters.isEmpty) = true := by simpa using hwait
    have hnone : ((s.eng core).naming tile.val).all (fun c => c.slot != n) = true := by rw [Engine.naming, hqueue]; rfl
    have hroom : (decide (16 ≤ (s.eng core).savedTiles.length) || (((s.eng core).tile tile.val).hasRun &&
        decide (4 ≤ ((s.eng core).savedTiles.filter fun p => p.2.hasRun).length))) = false := by
      rw [hsaved]; simp
    simp only [hn, hwanted, hroom, hnone, Bool.true_or, Bool.not_true, Bool.or_self, Bool.false_eq_true, if_false]

end Sys2Proof.Machine

/-! # Ends of groups, debug commands and samples (R404, R405, R422, R446 to R451) -/

namespace Sys2Proof.Machine

/-! ## Ends of groups -/

theorem maskWait_isOk_false {c : Ctx} {p : Nat × Nat} (hp : p ∈ c.g.spend) (h : 61 ≤ p.1) : c.maskWait.isOk = false := by
  have hsome : (c.g.spend.find? fun p => decide (61 ≤ p.1)).isSome = true :=
    List.find?_isSome.mpr ⟨p, hp, decide_eq_true h⟩
  obtain ⟨q, hq⟩ := Option.isSome_iff_exists.mp hsome
  rw [Ctx.maskWait, hq]
  rfl

/-- Settles O44. -/
theorem groupEndEventsComplete : Obligations.GroupEndEventsComplete := by
  unfold Obligations.GroupEndEventsComplete
  refine ⟨fun s core slot g hoff hrun hg hstate => ⟨fun hterm hdrained => ?_, fun hterm hdrained => ?_, fun hdrained => ⟨?_, ?_⟩⟩,
    fun g => ?_, fun s core slot c r rest hoff hrun hc hmay hbaton hresume hhandler hlanded hpend => ⟨fun hwait => ?_,
      fun p hp hmask => ?_⟩⟩
  · show execGroupRetire core slot s = _
    rw [execGroupRetire, coreEvent_running hoff hrun]
    simp only [hg, hstate, hterm, hdrained, and_self, if_true]
  · show execGroupTerminate core slot s = _
    rw [execGroupTerminate, coreEvent_running hoff hrun]
    simp only [hg, hstate, hterm, hdrained, ne_eq, not_false_eq_true, and_self, if_true]
  · show execGroupRetire core slot s = _
    rw [execGroupRetire, coreEvent_running hoff hrun]
    simp only [hg, hdrained, Bool.false_eq_true, and_false, if_false]
  · show execGroupTerminate core slot s = _
    rw [execGroupTerminate, coreEvent_running hoff hrun]
    simp only [hg, hdrained, Bool.false_eq_true, and_false, if_false]
  · simp [Group.drained, and_assoc]
  · show execEngineFaultDelivery core slot s = _
    rw [execEngineFaultDelivery, coreEvent_running hoff hrun]
    have hdue : c.g.faultDue = true := by rw [Group.faultDue, hresume, hhandler, hpend]; rfl
    have hgo : (!s.mayIssue core slot c.g || s.awaitsBaton core slot c.g || !c.g.faultDue || c.g.landed || !c.maskWait.isOk) =
        false := by rw [hmay, hbaton, hdue, hlanded, hwait]; rfl
    simp only [hc, hgo, hpend, Bool.false_eq_true, if_false]
  · show execEngineFaultDelivery core slot s = _
    rw [execEngineFaultDelivery, coreEvent_running hoff hrun]
    simp only [hc, maskWait_isOk_false hp hmask, Bool.not_false, Bool.or_true, if_true]

/-! ## Debug commands -/

/-- An entry is a reconvergence entry of a depth. -/
def Entry.isRcvOf (n : Nat) : Entry → Bool
  | .rcv _ d .. => d == n
  | .pnd .. => false

theorem any_isRcvOf {l : List Entry} {n : Nat} :
    l.any (Entry.isRcvOf n) = true ↔ ∃ b m a y sd mk, Entry.rcv b n m a y sd mk ∈ l := by
  rw [List.any_eq_true]
  constructor
  · rintro ⟨e, he, h⟩
    cases e with
    | rcv b d m a y sd mk =>
      have hd : d = n := eq_of_beq h
      exact ⟨b, m, a, y, sd, mk, hd ▸ he⟩
    | pnd pc d m k => cases h
  · rintro ⟨b, m, a, y, sd, mk, he⟩
    exact ⟨_, he, beq_self_eq_true _⟩

theorem focusRefusal_eq (g : Group) (lane : Nat) : focusRefusal g lane =
    if !inMask g.mask lane then 4
    else if 32 ≤ g.stack.length then 3
    else if decide (0 < g.depth) && !(g.stack.any (Entry.isRcvOf g.depth)) then 6
    else 0 := rfl

section
variable {g : Group} {lane : Nat}

theorem focusRefusal_outside (h : inMask g.mask lane = false) : focusRefusal g lane = 4 := by
  rw [focusRefusal_eq, h]; rfl

theorem focusRefusal_full (h : inMask g.mask lane = true) (hfull : 32 ≤ g.stack.length) : focusRefusal g lane = 3 := by
  rw [focusRefusal_eq, h, if_neg (by decide), if_pos hfull]

theorem focusRefusal_depth (h : inMask g.mask lane = true) (hroom : g.stack.length < 32) (hdepth : 0 < g.depth)
    (hnone : ∀ b d m a y sd mk, Entry.rcv b d m a y sd mk ∈ g.stack → d ≠ g.depth) : focusRefusal g lane = 6 := by
  rw [focusRefusal_eq, h, if_neg (by decide), if_neg (by omega), if_pos]
  rw [decide_eq_true hdepth, Bool.true_and, Bool.not_eq_true', Bool.eq_false_iff]
  intro hany
  obtain ⟨b, m, a, y, sd, mk, he⟩ := any_isRcvOf.mp hany
  exact hnone _ _ _ _ _ _ _ he rfl

theorem focusRefusal_none (h : inMask g.mask lane = true) (hroom : g.stack.length < 32)
    (hdepth : g.depth = 0 ∨ ∃ b m a y sd mk, Entry.rcv b g.depth m a y sd mk ∈ g.stack) : focusRefusal g lane = 0 := by
  rw [focusRefusal_eq, h, if_neg (by decide), if_neg (by omega), if_neg]
  obtain h0 | hentry := hdepth
  · rw [h0]; simp
  · rw [any_isRcvOf.mpr hentry]; simp

end

/-- A command in its turn. -/
theorem command_eq {s : State} {vf : Nat} (hoff : s.sys.off = false) (hid : s.sys.identityOnly = false)
    (hturn : (s.vf vf).late.any Late.isCommand = false) (value : DWord) (f : State → State) :
    hostEvent (fun s => s.dbgInTurn vf value f) s = .next (f s) := by
  rw [hostEvent_running hoff hid, State.dbgInTurn, hturn]
  rfl

section
variable {s : State} {vf gid core slot : Nat} {g : Group}

theorem onStopped_stopped (ht : s.target vf gid = some (core, slot, g)) (hstop : g.dstop = true)
    (f : State → Nat → Nat → Group → State) : s.onStopped vf gid f = f s core slot g := by
  rw [State.onStopped, ht]
  exact if_pos hstop

theorem onStopped_running (ht : s.target vf gid = some (core, slot, g)) (hstop : g.dstop = false)
    (f : State → Nat → Nat → Group → State) : s.onStopped vf gid f = s.dbgResult vf gid 2 := by
  rw [State.onStopped, ht]
  exact if_neg (by simp [hstop])

theorem onStopped_none (ht : s.target vf gid = none) (f : State → Nat → Nat → Group → State) :
    s.onStopped vf gid f = s.dbgResult vf gid 2 := by rw [State.onStopped, ht]

/-- FOCUS of a stopped group whose mask words are written, by what refuses it. -/
theorem dbgFocus_stopped (ht : s.target vf gid = some (core, slot, g)) (hstop : g.dstop = true)
    (hspend : ∀ p : Nat × Nat, p ∈ g.spend → p.1 < 61) (lane : Nat) : s.dbgFocus vf gid lane =
      if focusRefusal g lane ≠ 0 then s.dbgResult vf gid (focusRefusal g lane)
      else (s.modGroup core slot fun g => g.setFocus lane).dbgResult vf gid 0 := by
  have hnone : (g.spend.any fun p => decide (61 ≤ p.1)) = false := by
    rw [List.any_eq_false]
    exact fun p hp => by simpa using hspend p hp
  rw [State.dbgFocus, onStopped_stopped ht hstop, hnone]
  rfl

end

/-! ## Samples -/

theorem sampleDue_iff (s : State) (core act vf : Nat) : s.sampleDue core act vf = true ↔ bit (s.vr vf 0x8000) 1 = true ∧
    nget 0 (s.core core).sampleTurn vf % 8 = act ∧
    nget 0 (s.core core).sampleAt vf + 2 ^ fld (s.vr vf 0x8000) 16 5 ≤ s.clock := by
  unfold State.sampleDue State.sampling dbgOfs
  simp [and_assoc]

/-- No bank holds a group whose sources' bank is free by the clock. -/
theorem bankFree {g : Group} {clock : Nat} (h : ∀ t : Nat, g.bankAt = some (g.pc, t) → t ≤ clock) :
    (g.bankAt.any fun p => p.1 == g.pc && decide (clock < p.2)) = false := by
  rw [Option.any_eq_false_iff_get]
  intro hsome
  refine Decidable.byContradiction fun hbusy => ?_
  simp only [Bool.not_eq_false, Bool.and_eq_true, beq_iff_eq, decide_eq_true_eq] at hbusy
  obtain ⟨hpc, hlt⟩ := hbusy
  have := h (g.bankAt.get hsome).2 (by rw [← hpc]; exact (Option.some_get hsome).symm)
  omega

/-- Where no function is due no sample is taken. -/
theorem noSample_foldl {s : State} {core act : Nat} (l : List Nat) (h : ∀ vf ∈ l, s.sampleDue core act vf = false) :
    l.foldl (fun s vf => if s.sampleDue core act vf then s.takeSample core act vf else s) s = s := by
  induction l with
  | nil => rfl
  | cons vf l ih =>
    rw [List.foldl_cons, h vf List.mem_cons_self]
    exact ih fun x hx => h x (List.mem_cons_of_mem _ hx)

/-- Settles O45. -/
theorem debugEventsComplete : Obligations.DebugEventsComplete := by
  unfold Obligations.DebugEventsComplete
  refine ⟨fun s vf gid core slot g hoff hid hturn ht => ⟨?_, fun hstop => ⟨?_, ?_, ?_, fun hspend lane => ⟨fun hmask => ?_,
    fun hmask hfull => ?_, fun hmask hroom hdepth hnone => ?_, fun hmask hroom hdepth => ?_⟩,
    fun t u pages r hpages hdump hquiet => ?_⟩, fun hstop => ⟨?_, ?_, ?_, fun lane => ?_, ?_⟩⟩,
    fun s vf gid hoff hid hturn ht => ⟨?_, ?_, ?_, fun lane => ?_, ?_, ?_⟩,
    fun s core act hoff hrun hact => ⟨?_, fun hnone => ?_⟩, sampleDue_iff, fun s u core act vf hu => ⟨fun hshown => ?_,
    fun n g hshown => ⟨fun hother => ?_, fun hsame => ?_⟩⟩,
    fun s core slot g v => ⟨fun hstop => ?_, fun hstop hresume => ?_, fun p ps hstop hresume hprod => ?_,
      fun t hstop hresume hprod hbank hlt => ?_,
      fun hstop hresume hprod hbank => ⟨fun w hw hreq => ?_, fun hnone => ?_⟩⟩⟩
  · refine (command_eq hoff hid hturn _ _).trans ?_
    rw [State.dbgHalt, ht]
  · refine (command_eq hoff hid hturn _ _).trans ?_
    rw [State.dbgGo, onStopped_stopped ht hstop]
  · refine (command_eq hoff hid hturn _ _).trans ?_
    rw [State.dbgGo, onStopped_stopped ht hstop]
  · refine (command_eq hoff hid hturn _ _).trans ?_
    rw [State.dbgUnfocus, onStopped_stopped ht hstop]
  · refine (command_eq hoff hid hturn _ _).trans ?_
    rw [dbgFocus_stopped ht hstop hspend, focusRefusal_outside hmask]
    rfl
  · refine (command_eq hoff hid hturn _ _).trans ?_
    rw [dbgFocus_stopped ht hstop hspend, focusRefusal_full hmask hfull]
    rfl
  · refine (command_eq hoff hid hturn _ _).trans ?_
    rw [dbgFocus_stopped ht hstop hspend, focusRefusal_depth hmask hroom hdepth hnone]
    rfl
  · refine (command_eq hoff hid hturn _ _).trans ?_
    rw [dbgFocus_stopped ht hstop hspend, focusRefusal_none hmask hroom hdepth]
    rfl
  · refine (command_eq hoff hid hturn _ _).trans ?_
    rw [State.dbgDump, onStopped_stopped ht hstop]
    simp only [dbgOfs, hpages, hdump, hquiet, Bool.false_eq_true, if_false]
  · refine (command_eq hoff hid hturn _ _).trans ?_
    rw [State.dbgGo, onStopped_running ht hstop]
  · refine (command_eq hoff hid hturn _ _).trans ?_
    rw [State.dbgGo, onStopped_running ht hstop]
  · refine (command_eq hoff hid hturn _ _).trans ?_
    rw [State.dbgUnfocus, onStopped_running ht hstop]
  · refine (command_eq hoff hid hturn _ _).trans ?_
    rw [State.dbgFocus, onStopped_running ht hstop]
  · refine (command_eq hoff hid hturn _ _).trans ?_
    rw [State.dbgDump, onStopped_running ht hstop]
  · refine (command_eq hoff hid hturn _ _).trans ?_
    rw [State.dbgHalt, ht]
  · refine (command_eq hoff hid hturn _ _).trans ?_
    rw [State.dbgGo, onStopped_none ht]
  · refine (command_eq hoff hid hturn _ _).trans ?_
    rw [State.dbgGo, onStopped_none ht]
  · refine (command_eq hoff hid hturn _ _).trans ?_
    rw [State.dbgFocus, onStopped_none ht]
  · refine (command_eq hoff hid hturn _ _).trans ?_
    rw [State.dbgUnfocus, onStopped_none ht]
  · refine (command_eq hoff hid hturn _ _).trans ?_
    rw [State.dbgDump, onStopped_none ht]
  · show execInstructionSample core act s = _
    rw [execInstructionSample, coreEvent_running hoff hrun, if_neg (by omega)]
  · show execInstructionSample core act s = _
    rw [execInstructionSample, coreEvent_running hoff hrun, if_neg (by omega)]
    exact congrArg Host.Outcome.next (noSample_foldl _ fun vf hvf => hnone vf (List.mem_range.mp hvf))
  · subst hu
    simp only [State.takeSample, hshown]
  · subst hu
    simp only [State.takeSample, hshown, hother, if_false]
  · subst hu hsame
    refine ⟨_, _, _, _, _, rfl, rfl, rfl, ?_⟩
    simp only [State.takeSample, hshown, if_true, State.recordSample]
    rfl
  · simp only [State.sampleKind, hstop, if_true]
  · simp only [State.sampleKind, hstop, hresume, Bool.false_eq_true, if_false, ne_eq, not_false_eq_true, if_true]
  · simp only [State.sampleKind, hstop, hresume, hprod, Bool.false_eq_true, if_false, ne_eq, not_true_eq_false]
  · have hbusy : (g.bankAt.any fun p => p.1 == g.pc && decide (s.clock < p.2)) = true := by rw [hbank]; simpa using hlt
    simp only [State.sampleKind, hstop, hresume, hprod, hbusy, Bool.false_eq_true, if_false, if_true, ne_eq, not_true_eq_false]
  · simp only [State.sampleKind, hstop, hresume, hprod, bankFree hbank, hw, Option.filter_some, hreq, Bool.false_eq_true, if_false,
      if_true, ne_eq, not_true_eq_false]
  · have hfilter : (g.lostTo.filter fun _ => (s.request core slot).isSome) = none := by
      obtain h | h := hnone
      · rw [h]; rfl
      · rw [h]; cases g.lostTo <;> rfl
    simp only [State.sampleKind, hstop, hresume, hprod, bankFree hbank, hfilter, Bool.false_eq_true, if_false, ne_eq,
      not_true_eq_false]

end Sys2Proof.Machine

/-! # Fault service, flips of bias and TLB invalidation (R292, R293, R296, R298, R299) -/

namespace Sys2Proof.Machine

theorem faultResume_old (seq : BitVec 32) (e : FqEntry) : (match e.seq with
    | some q => seqBefore seq q
    | none => false) = e.seq.any fun q => seqBefore seq q := by
  cases e.seq <;> rfl

/-- A write of RESUME, by the records that it takes. -/
theorem faultResume_eq (s : State) (fn : Nat) (seq : BitVec 32) : s.faultResume fn seq =
    ((s.modVf fn fun v => { v with fq := (s.vf fn).fq.filter fun e => !(e.seq.any fun q => seqBefore seq q) }).releaseKeys fn
      (((s.vf fn).fq.filter fun e => e.seq.any fun q => seqBefore seq q).map (·.key))).retryWithheld fn := by
  have hold : (fun e : FqEntry => e.seq.any fun q => seqBefore seq q) = fun e => match e.seq with
      | some q => seqBefore seq q
      | none => false := funext fun e => (faultResume_old seq e).symm
  have hkept : (fun e : FqEntry => !(e.seq.any fun q => seqBefore seq q)) = fun e => !(match e.seq with
      | some q => seqBefore seq q
      | none => false) := funext fun e => congrArg not (faultResume_old seq e).symm
  rw [hold, hkept]
  rfl

/-- A flip starts where none of its function is in progress (R292). -/
theorem startFlip_eq {s : State} {vf : Nat} {page : DWord} {toHost : Bool} (hpf : vf ≠ pfn) (hflip : (s.vf vf).flip = none) :
    s.startFlip vf page toHost = (s.touch2 vf (fld page 12 40 * 4096) false 2).modVf vf fun v =>
      { v with flip := some ((s.flipPage vf (fld page 12 40 * 4096)).2, toHost, (s.flipPage vf (fld page 12 40 * 4096)).1) } := by
  simp only [State.startFlip, hflip, Option.isSome_none, Bool.false_eq_true, if_false, hpf]

theorem startFlip_busy {s : State} {vf : Nat} {page : DWord} {toHost : Bool} (hflip : (s.vf vf).flip.isSome = true) :
    s.startFlip vf page toHost = s := if_pos hflip

/-- The TLB of a core after an invalidation keeps only entries that passed its filter. -/
theorem tlb_dropTlb {s : State} {vf core : Nat} {r : Nat × Nat} {e : TlbEntry} (h : e ∈ ((s.dropTlb vf r).core core).tlb) :
    ¬ (e.ctx = vf ∧ e.va < r.1 + 4096 * r.2 ∧ r.1 < e.va + e.size) := by
  unfold State.core at h
  split at h
  · simp only [State.dropTlb, Vector.getElem_map, List.mem_filter] at h
    rintro ⟨hctx, hbelow, habove⟩
    simp [hctx, hbelow, habove] at h
  · cases h

/-- Settles O46. -/
theorem faultServiceEventsComplete : Obligations.FaultServiceEventsComplete := by
  unfold Obligations.FaultServiceEventsComplete
  refine ⟨fun s fn seq hoff hid => ?_, fun s fn v hoff hid => ?_, fun s vf ipa page hoff hid hpf hflip hipa => ⟨?_, ?_⟩,
    fun s vf page hoff hid hflip => ⟨?_, ?_⟩, fun s vf page toHost hoff hflip hflight => ?_,
    fun s vf va hoff hid => ⟨?_, ?_, ?_⟩, fun s vf hoff hflight => ⟨fun hbusy => ?_, fun hinvs => ?_⟩,
    fun s vf core va n e he => tlb_dropTlb he⟩
  · show execFaultResume fn seq s = _
    rw [execFaultResume, hostEvent_running hoff hid, faultResume_eq]
  · show execFqconsWrite fn v s = _
    rw [execFqconsWrite, hostEvent_running hoff hid]
    rfl
  · subst hipa
    show execBiasFlipToDevice vf page s = _
    rw [execBiasFlipToDevice, hostEvent_running hoff hid, startFlip_eq hpf hflip]
  · subst hipa
    show execBiasFlipToHost vf page s = _
    rw [execBiasFlipToHost, hostEvent_running hoff hid, startFlip_eq hpf hflip]
  · show execBiasFlipToDevice vf page s = _
    rw [execBiasFlipToDevice, hostEvent_running hoff hid, startFlip_busy hflip]
  · show execBiasFlipToHost vf page s = _
    rw [execBiasFlipToHost, hostEvent_running hoff hid, startFlip_busy hflip]
  · show ∃ t, execBiasFlipComplete vf s = .next t ∧ _
    rw [execBiasFlipComplete, event_on hoff, State.endFlip, hflip]
    refine ⟨_, rfl, ?_⟩
    simp only [ne_eq, not_true_eq_false, if_false, hflight, Bool.false_eq_true, State.modVf, State.setVf]
    cases toHost <;> exact ⟨rfl, rfl⟩
  · show execTlbInvalidateRange vf va s = _
    rw [execTlbInvalidateRange, hostEvent_running hoff hid]
    rfl
  · show execTlbInvalidateAll vf s = _
    rw [execTlbInvalidateAll, hostEvent_running hoff hid]
  · show execStage2Invalidate vf s = _
    rw [execStage2Invalidate, hostEvent_running hoff hid]
    rfl
  · show execInvalidationComplete vf true s = _
    rw [execInvalidationComplete, event_on hoff]
    simp only [hbusy, hflight, if_true, Bool.not_true, Bool.or_self, Bool.false_eq_true, if_false]
  · show execInvalidationComplete vf false s = _
    rw [execInvalidationComplete, event_on hoff]
    simp only [List.isEmpty_eq_false_iff.mpr hinvs, hflight, Bool.or_self, Bool.false_eq_true, if_false]

end Sys2Proof.Machine

/-! # Placement, binding, policy and quotes (R133, R134, R442, R443, R463, R464) -/

namespace Sys2Proof.Machine

theorem part_setPart_of_ne {s : State} (p : Nat) {k : Part} (h : k ≠ {}) : (s.setPart p k).part p = k := by
  rw [State.part, State.setPart, nset, if_neg h]
  exact nget_nins_self _ _ _ _

/-- What a store leaves of the system's registers. -/
theorem store_sys (s : State) (core part ctx : Nat) (pa : Nat) (b : List Byte) (hint : Nat) (cached : Bool) :
    (s.store core part ctx (.phys pa) b hint cached).sys = s.sys := by
  have hput : (s.putLoc (.phys pa) b).sys = s.sys := by
    unfold State.putLoc State.clearPoison
    dsimp only
    split <;> rfl
  have hnote : ∀ t : State, t.noteWaits.sys = t.sys := fun t => by
    rw [noteWaits_eq, State.noteFences]
    dsimp only
    split <;> rfl
  rw [State.store, hnote]
  dsimp only
  rw [State.modCore_sys]
  split
  · rw [(l2Accesses_cacheOnly _ _ core part ctx hint).sys, hput]
  · exact hput

/-! ## Bindings (R134) -/

section
variable {s : State} {vf : Nat} {v : DWord}

theorem bindErrors_busy (hbound : bit (s.pr (vfbindOfs vf)) 8 = true) (hbusy : s.hasCard vf = true ∨ s.groupsOf vf ≠ []) :
    (if bit (s.pr (vfbindOfs vf)) 8 && (s.hasCard vf || !(s.groupsOf vf).isEmpty) then 0x20 else 0) = 0x20 := by
  rw [if_pos]
  rw [hbound, Bool.true_and, Bool.or_eq_true]
  exact hbusy.imp_right fun h => by simpa using h

theorem bindErrors_idle (hidle : bit (s.pr (vfbindOfs vf)) 8 = false ∨ (s.hasCard vf = false ∧ s.groupsOf vf = [])) :
    (if bit (s.pr (vfbindOfs vf)) 8 && (s.hasCard vf || !(s.groupsOf vf).isEmpty) then 0x20 else 0) = 0 := by
  rw [if_neg]
  obtain h | ⟨hcard, hgroups⟩ := hidle
  · rw [h, Bool.false_and]; exact Bool.false_ne_true
  · rw [hcard, hgroups]; simp

theorem bindErrors_ninth (h : bit v 8 = true ∧ 8 ≤ s.boundBeside vf (fld v 0 6)) :
    (if bit v 8 && decide (8 ≤ s.boundBeside vf (fld v 0 6)) then 8 else 0) = 8 :=
  if_pos (by rw [h.1, decide_eq_true h.2]; rfl)

theorem bindErrors_room (h : bit v 8 = true → s.boundBeside vf (fld v 0 6) < 8) :
    (if bit v 8 && decide (8 ≤ s.boundBeside vf (fld v 0 6)) then 8 else 0) = 0 :=
  if_neg fun hboth => by
    obtain ⟨hb, hd⟩ := Bool.and_eq_true_iff.mp hboth
    exact absurd (of_decide_eq_true hd) (by have := h hb; omega)

/-- A write that changes a binding, by the errors that it raises. -/
theorem vfBind_changed (hvf : vf < 256) (hnew : v &&& 0x13F ≠ s.pr (vfbindOfs vf)) {n : Nat}
    (hn : s.bindErrors vf (v &&& 0x13F) = n) :
    s.vfBind vf v = if n ≠ 0 then s.plerr n else (s.setPr (vfbindOfs vf) (v &&& 0x13F)).beginTurn vf := by
  rw [State.vfBind]
  rw [if_neg (fun h => h.elim (Nat.not_le.mpr hvf) hnew), hn]

end

/-- Settles O47. -/
theorem operatorEventsComplete : Obligations.OperatorEventsComplete := by
  unfold Obligations.OperatorEventsComplete
  refine ⟨fun s die ofs v m hoff hid hdie hm => ⟨fun herr => ?_, fun hok hout => ?_, fun hok hlow hhigh => ?_⟩,
    fun s vf v hoff hid hvf hnew => ⟨fun hninth => ⟨fun hbound hbusy => ?_, fun hidle => ?_⟩,
      fun hroom => ⟨fun hbound hbusy => ?_, fun hidle => ?_⟩⟩, fun s v hoff hid => ?_,
    fun s p a rest hoff hpending hread => ⟨fun hgood => ?_, fun r hbad => ?_⟩, fun s p hoff hid hfree => ?_, fun s v hoff hid => ?_,
    fun s a hoff hbusy hnonce hout => ⟨fun hused => ?_, fun hleft => ?_⟩⟩
  · show execPlacementWrite die ofs v s = _
    rw [execPlacementWrite, hostEvent_running hoff hid, State.placeWrite]
    simp only [hm, Nat.not_le.mpr hdie, if_false, herr, ne_eq, not_false_eq_true, if_true]
    rfl
  · show execPlacementWrite die ofs v s = _
    rw [execPlacementWrite, hostEvent_running hoff hid, State.placeWrite]
    simp only [hm, Nat.not_le.mpr hdie, if_false, hok, ne_eq, not_true_eq_false]
    rw [if_neg (by omega)]
  · show execPlacementWrite die ofs v s = _
    rw [execPlacementWrite, hostEvent_running hoff hid, State.placeWrite]
    simp only [hm, Nat.not_le.mpr hdie, if_false, hok, ne_eq, not_true_eq_false]
    rw [if_pos ⟨hlow, hhigh⟩]
  · show execVfbindWrite vf v s = _
    rw [execVfbindWrite, hostEvent_running hoff hid, vfBind_changed hvf hnew (n := 0x28)
      (by rw [State.bindErrors, bindErrors_busy hbound hbusy, bindErrors_ninth hninth])]
    rfl
  · show execVfbindWrite vf v s = _
    rw [execVfbindWrite, hostEvent_running hoff hid, vfBind_changed hvf hnew (n := 8)
      (by rw [State.bindErrors, bindErrors_idle hidle, bindErrors_ninth hninth])]
    rfl
  · show execVfbindWrite vf v s = _
    rw [execVfbindWrite, hostEvent_running hoff hid, vfBind_changed hvf hnew (n := 0x20)
      (by rw [State.bindErrors, bindErrors_busy hbound hbusy, bindErrors_room hroom])]
    rfl
  · show execVfbindWrite vf v s = _
    rw [execVfbindWrite, hostEvent_running hoff hid, vfBind_changed hvf hnew (n := 0)
      (by rw [State.bindErrors, bindErrors_idle hidle, bindErrors_room hroom])]
    rfl
  · show execPolicySubmit v s = _
    rw [execPolicySubmit, hostEvent_running hoff hid]
    rfl
  · show execPolicyVerifyDone p s = _
    rw [execPolicyVerifyDone, event_on hoff]
    simp only [hread, if_false, hpending, hgood]
  · show execPolicyVerifyDone p s = _
    rw [execPolicyVerifyDone, event_on hoff]
    simp only [hread, if_false, hpending, hbad]
  · refine ⟨s.policyTeardown p, hostEvent_running (f := fun s => s.policyTeardown p) hoff hid, fun _ => ?_⟩
    have hkept : s.policyTeardown p = s.setPart p
        { s.part p with pstate := 0, reason := 0, classes := [], keyhash := [], nonceGen := (s.part p).nonceGen + 1 } := by
      rw [State.policyTeardown, hfree]; rfl
    rw [hkept, part_setPart_of_ne p fun e => Nat.succ_ne_zero _ (congrArg Part.nonceGen e)]
    exact ⟨rfl, rfl⟩
  · show execQuoteRequest v s = _
    rw [execQuoteRequest, hostEvent_running hoff hid]
    rfl
  · show execQuoteComplete s = _
    rw [execQuoteComplete, event_on hoff]
    simp only [hbusy, hnonce, hout, hused, Bool.not_true, Bool.or_self, Bool.false_eq_true, if_false, if_true]
  · show ∃ t, execQuoteComplete s = .next t ∧ _
    rw [execQuoteComplete, event_on hoff]
    refine ⟨_, rfl, ?_⟩
    simp only [hbusy, hnonce, hout, Nat.not_le.mpr hleft, Bool.not_true, Bool.or_self, Bool.false_eq_true, if_false]
    split
    · exact ⟨rfl, rfl⟩
    · simp only [store_sys, and_self]

end Sys2Proof.Machine

/-! # Links, host accesses, soft errors, starts and power (R292, R300, R458 to R468) -/

namespace Sys2Proof.Machine

/-! ## Soft errors (R300) -/

theorem mem_poisonInsert {x a : Nat} {l : List Nat} : x ∈ poisonInsert a l ↔ x = a ∨ x ∈ l := by
  induction l with
  | nil => simp [poisonInsert]
  | cons b l ih =>
    unfold poisonInsert
    split
    · simp
    · split
      · next h => simp [h]
      · simp only [List.mem_cons, ih]
        exact or_left_comm

theorem mem_poisonWord (s : State) (a x : Nat) : x ∈ (s.poisonWord a).poison ↔ x ∈ s.poison ∨ x / 8 = a / 8 := by
  have hwords : ∀ (is : List Nat) (l : List Nat), x ∈ is.foldl (fun l i => poisonInsert (a / 8 * 8 + i) l) l ↔
      x ∈ l ∨ ∃ i ∈ is, x = a / 8 * 8 + i := by
    intro is
    induction is with
    | nil => simp
    | cons i is ih =>
      intro l
      rw [List.foldl_cons, ih, mem_poisonInsert]
      simp only [List.mem_cons, exists_eq_or_imp]
      rw [or_comm (a := x = _), or_assoc]
  rw [State.poisonWord]
  dsimp only
  rw [hwords]
  refine or_congr_right ⟨?_, fun h => ⟨x % 8, List.mem_range.mpr (Nat.mod_lt _ (by decide)), by omega⟩⟩
  rintro ⟨i, hi, rfl⟩
  have := List.mem_range.mp hi
  omega

/-- The words of a line, poisoned one after another. -/
theorem mem_foldl_poisonWord (l : List Nat) (s : State) (a x : Nat) :
    x ∈ (l.foldl (fun (s : State) i => s.poisonWord (a + 8 * i)) s).poison ↔ x ∈ s.poison ∨ ∃ i ∈ l, x / 8 = (a + 8 * i) / 8 := by
  induction l generalizing s with
  | nil => simp
  | cons i l ih =>
    rw [List.foldl_cons, ih, mem_poisonWord]
    simp [or_assoc]

theorem foldl_poisonWord_eq (l : List Nat) (s : State) (a : Nat) :
    ∃ p, l.foldl (fun (s : State) i => s.poisonWord (a + 8 * i)) s = { s with poison := p } := by
  induction l generalizing s with
  | nil => exact ⟨_, rfl⟩
  | cons i l ih =>
    obtain ⟨p, hp⟩ := ih (s.poisonWord (a + 8 * i))
    exact ⟨p, hp⟩

/-- An uncorrectable error poisons data, and changes no byte. -/
theorem uncorrectable_keeps (s : State) (key : Nat) : (s.uncorrectable key).mem = s.mem ∧
    (s.uncorrectable key).dscr = s.dscr ∧ (s.uncorrectable key).dies = s.dies := by
  unfold State.uncorrectable
  extract_lets line fetchAgain n o
  split
  · simp
  · split
    · obtain ⟨p, hp⟩ := foldl_poisonWord_eq (List.range 16) s (lineOf (key % 2 ^ 57))
      simp only [fetchAgain, line, hp, and_self]
    · split
      · simp
      · exact ⟨rfl, rfl, rfl⟩

/-! ## Starts (R462, R465) -/

/-- A start leaves the reset state with what it keeps, and registers of the system that keep what is counter-protected. -/
theorem startUp_eq (s : State) (warm : Bool) : ∃ y : Sys, s.startUp warm = { s.restart warm with sys := y } ∧
    y.sigIndex = s.sys.sigIndex ∧ s.sys.rollback ≤ y.rollback ∧ y.stopped = (warm && s.sys.stopped) ∧ y.off = false := by
  unfold State.startUp
  dsimp only
  split
  · refine ⟨_, rfl, ?_⟩
    split
    · exact ⟨rfl, Nat.le_max_left _ _, rfl, rfl⟩
    · exact ⟨rfl, Nat.le_refl _, rfl, rfl⟩
  · refine ⟨_, rfl, ?_⟩
    split
    · exact ⟨rfl, Nat.le_max_left _ _, rfl, rfl⟩
    · exact ⟨rfl, Nat.le_refl _, rfl, rfl⟩

/-- A start whose image does not verify ends at step 2 or before, with the identity alone (R462, R466). -/
theorem startUp_unverified {s : State} (h : Config.fwSigned (Config.fwImage (s.sys.starts + 1)) = false ∨
    Config.fwVersion (Config.fwImage (s.sys.starts + 1)) < s.sys.rollback) :
    (s.startUp false).sys.identityOnly = true ∧ (s.startUp false).sys.bstage ≤ 2 ∧ (s.startUp false).sys.verified = none ∧
      (s.startUp false).sys.rollback = s.sys.rollback := by
  have h2 : stepOk (s.sys.starts + 1) s.sys.rollback 2 = false := by
    rw [stepOk, if_pos rfl]
    obtain h | h := h
    · rw [h]; rfl
    · rw [decide_eq_false (Nat.not_le.mpr h), Bool.and_false]
  obtain ⟨k, hk, hle⟩ : ∃ k, ((startSteps false (s.sys.verified.any fun v => measurement v == measurement (s.sys.starts + 1))).find?
      fun k => !stepOk (s.sys.starts + 1) s.sys.rollback k) = some k ∧ k ≤ 2 := by
    cases h1 : stepOk (s.sys.starts + 1) s.sys.rollback 1 with
    | false => exact ⟨1, by simp [startSteps, h1], by decide⟩
    | true => exact ⟨2, by simp [startSteps, h1, h2], Nat.le_refl _⟩
  unfold State.startUp
  simp only [hk, Nat.not_lt.mpr hle, and_false, if_false]
  exact ⟨trivial, hle, rfl, rfl⟩

/-- Settles O49. -/
theorem powerEventsComplete : Obligations.PowerEventsComplete := by
  unfold Obligations.PowerEventsComplete
  refine ⟨fun s => ?_, fun s h => ⟨_, rfl, startUp_unverified h⟩, fun s hoff hid => ?_, fun s => ⟨_, rfl, rfl, rfl, rfl, rfl, rfl⟩,
    fun s core hoff => ⟨?_, fun hsag => ?_, fun hsag hslow hdue => ?_⟩, fun s w hoff hdue => ⟨fun hover => ?_, fun hunder => ?_⟩,
    fun s die t hoff hdue => ⟨fun hhot => ?_, fun hcool => ?_⟩, fun s die t hoff hhot => ?_⟩
  · obtain ⟨y, heq, hsig, hroll, hstop, hoff⟩ := startUp_eq s false
    refine ⟨_, rfl, ?_⟩
    rw [heq]
    exact ⟨rfl, rfl, rfl, rfl, rfl, hsig, hroll, hstop, hoff⟩
  · obtain ⟨y, heq, hsig, hroll, hstop, -⟩ := startUp_eq s true
    refine ⟨s.startUp true, hostEvent_running (f := fun s => s.startUp true) hoff hid, event_on (f := fun s => s.startUp true) hoff, ?_⟩
    rw [heq]
    exact ⟨rfl, rfl, rfl, rfl, rfl, hsig, hroll, hstop⟩
  · show execDroopDetect core s = _
    rw [execDroopDetect, event_on hoff]
  · show execSagEnd core s = _
    rw [execSagEnd, event_on hoff]
    exact congrArg Host.Outcome.next (modCore_congr (if_pos hsag))
  · show execClockReturnStep core s = _
    rw [execClockReturnStep, event_on hoff]
    exact congrArg Host.Outcome.next (modCore_congr (if_pos (by rw [hsag, decide_eq_true hslow, decide_eq_true hdue]; rfl)))
  · show execPowerCapStep w s = _
    rw [execPowerCapStep, event_on hoff]
    have hover : fld (s.pr pcapOfs) 0 12 < w := hover
    dsimp only
    rw [if_neg (by omega), if_pos hover]
    rfl
  · show execPowerCapStep w s = _
    rw [execPowerCapStep, event_on hoff]
    have hunder : w < fld (s.pr pcapOfs) 0 12 := hunder
    dsimp only
    rw [if_neg (by omega), if_neg (Nat.lt_asymm hunder), if_pos hunder]
    rfl
  · show execThermalThrottle die t s = _
    rw [execThermalThrottle, event_on hoff]
    refine congrArg (fun d => Host.Outcome.next (s.setDie die d)) ?_
    dsimp only
    rw [if_neg (by omega), if_pos hhot]
    rfl
  · show execThermalThrottle die t s = _
    rw [execThermalThrottle, event_on hoff]
    refine congrArg (fun d => Host.Outcome.next (s.setDie die d)) ?_
    dsimp only
    rw [if_neg (by omega), if_neg (by omega)]
    rfl
  · show ∃ u, execThermalShutdown die t s = .next u ∧ _
    rw [execThermalShutdown, event_on hoff]
    refine ⟨_, rfl, ?_⟩
    dsimp only
    rw [if_neg (by omega)]
    rw [State.modDie_ref]
    generalize eventFault _ _ = v
    exact ⟨rfl, rfl⟩

/-! ## Frames (R458 to R461) -/

/-- A frame that nothing holds, on a port that is up or on none. -/
theorem frame_ready {s : State} {f : Frame} (hhold : f.hold = none) (hport : ∀ p : Nat, f.port = some p → s.portState p = 2) :
    (f.hold.isSome || f.port.any fun p => s.portState p != 2) = false := by
  rw [hhold]
  cases h : f.port with
  | none => rfl
  | some p => simp [hport p h]

/-- A frame that another device sent, or one of this module for itself. -/
theorem frame_here {s : State} {f : Frame} (hdev : f.mine = true → f.device = s.devId) :
    (f.mine && f.device != s.devId) = false := by
  cases h : f.mine with
  | false => rfl
  | true => simp [hdev h]

/-- Settles O48. -/
theorem linkEventsComplete : Obligations.LinkEventsComplete := by
  unfold Obligations.LinkEventsComplete
  refine ⟨?_, ?_, ?_, ?_, ?_, ?_, ?_, ?_, ?_, ?_⟩
  · intro s u f b hoff hf hhold hport hdev hserve
    show execRemoteFrameReceive (.known f.id) s = _
    rw [execRemoteFrameReceive, event_on hoff]
    simp only [hf, frame_ready hhold hport, frame_here hdev, State.serveFrame, hserve, Bool.false_eq_true, if_false]
  · intro s f sub hoff hf hhold hport hdev hserve
    show execRemoteFrameReceive (.known f.id) s = _
    rw [execRemoteFrameReceive, event_on hoff]
    simp only [hf, frame_ready hhold hport, frame_here hdev, State.serveFrame, hserve, Bool.false_eq_true, if_false]
  · intro s t u a f b hoff hport hofs hf ht hserve
    show execRemoteFrameReceive (.sent a) s = _
    rw [execRemoteFrameReceive, event_on hoff]
    have hgo : (s.portState a.port != 2 || decide (2 ^ 39 ≤ a.ofs)) = false := by
      rw [hport, decide_eq_false (Nat.not_le.mpr hofs)]; rfl
    have hdone : State.serveFrame t f = u.dropFrame s.nextId := by
      have hother : f.mine = false := by rw [hf]; rfl
      have hid : f.id = s.nextId := by rw [hf]; rfl
      simp only [State.serveFrame, hserve, hother, hid, Bool.false_eq_true, if_false]
    subst hf ht
    simp only [hgo, Bool.false_eq_true, if_false]
    exact congrArg Host.Outcome.next hdone
  · intro s a hoff hport
    show execRemoteFrameReceive (.sent a) s = _
    rw [execRemoteFrameReceive, event_on hoff]
    simp only [bne_iff_ne.mpr hport, Bool.true_or, if_true]
  · intro s f hoff hf hmine hport htaken hdue
    show execOsierRetransmit f.id s = _
    rw [execOsierRetransmit, event_on hoff]
    simp only [hf, hmine, hport, htaken, hdue, decide_true, Bool.not_false, Bool.and_self, if_true]
  · intro s port hoff hlt hstate hack hlost
    show execOsierPortFail port s = _
    rw [execOsierPortFail, event_on hoff]
    simp only [Nat.not_le.mpr hlt, hstate, Nat.not_lt.mpr hack, hlost, Bool.not_true, Bool.false_eq_true, or_self, if_false]
  · intro s port hoff hid hlt
    refine ⟨?_, fun hwas => ?_⟩
    · show execOsierPortEnable port false s = _
      rw [execOsierPortEnable, hostEvent_running hoff hid, State.portEnable, if_neg (Nat.not_le.mpr hlt)]
      rfl
    · show execOsierPortEnable port true s = _
      rw [execOsierPortEnable, hostEvent_running hoff hid, State.portEnable, if_neg (Nat.not_le.mpr hlt)]
      simp only [hwas, Bool.not_true, Bool.false_eq_true, if_false, if_true]
  · intro s port hoff hstate
    show execOsierPortUp port s = _
    rw [execOsierPortUp, event_on hoff, if_pos hstate]
  · intro s pa p bytes hoff hid hfirst hlast hp hbar
    have hgo : (!inMap pa || !inMap (pa + bytes.length - 1) ||
        !(List.range 64).any (fun p => (linesIn pa (max 1 bytes.length)).all fun l => s.xbar 64 p l false)) = false := by
      have hany : ((List.range 64).any fun p => (linesIn pa (max 1 bytes.length)).all fun l => s.xbar 64 p l false) = true :=
        List.any_eq_true.mpr ⟨p, List.mem_range.mpr hp, List.all_eq_true.mpr hbar⟩
      rw [hfirst, hlast, hany]; rfl
    refine ⟨?_, ?_⟩
    · show ∃ t, execHostMemAccess false pa bytes s = .next t ∧ _
      rw [execHostMemAccess, hostEvent_running hoff hid]
      refine ⟨_, rfl, ?_⟩
      simp only [hgo, Bool.false_eq_true, if_false]
      exact ⟨rfl, rfl⟩
    · show ∃ t, execHostMemAccess true pa bytes s = .next t ∧ _
      rw [execHostMemAccess, hostEvent_running hoff hid]
      refine ⟨_, rfl, ?_⟩
      simp only [hgo, Bool.false_eq_true, if_false, if_true, noteWaits_mem, putLoc_phys_mem]
      rfl
  · intro s die pa hoff
    refine ⟨?_, ?_⟩
    · show execSoftError die true pa s = _
      rw [execSoftError, event_on hoff, if_pos rfl]
    · show ∃ t, execSoftError die false pa s = .next t ∧ _
      rw [execSoftError, event_on hoff, if_neg Bool.false_ne_true]
      obtain ⟨hmem, hdscr, hdies⟩ := uncorrectable_keeps (s.modDie die fun d => { d with uncorrected := d.uncorrected + 1 }) pa
      refine ⟨_, rfl, by rw [hmem, State.modDie_mem], by rw [hdscr, State.modDie_dscr], fun hdie => ?_, fun hpa x => ?_,
        fun hlow hhigh x => ?_⟩
      · rw [State.die, State.die, dif_pos hdie, dif_pos hdie, getElem_congr_coll hdies]
        simp [State.modDie, State.setDie, State.die, hdie]
      · rw [State.uncorrectable]
        simp only [show ¬ 2 ^ 59 ≤ pa from by omega, show ¬ 2 ^ 57 ≤ pa from by omega, show ¬ 2 ^ 56 ≤ pa from by omega, if_false]
        rw [mem_poisonWord, State.modDie_poison]
      · rw [State.uncorrectable]
        simp only [show ¬ 2 ^ 59 ≤ pa from by omega, hlow, if_false, if_true]
        rw [mem_foldl_poisonWord, State.modDie_poison]
        refine or_congr_right ⟨?_, fun h => ?_⟩
        · rintro ⟨i, hi, h⟩
          have := List.mem_range.mp hi
          rw [lineOf] at h
          omega
        · refine ⟨x / 8 % 16, List.mem_range.mpr (Nat.mod_lt _ (by decide)), ?_⟩
          rw [lineOf]
          omega

end Sys2Proof.Machine

namespace Sys2Proof.Machine

/-! The three forms that the meaning of a row of the opcode table has: an instruction that goes on at the next slot, one that
names its own next place, and an event of a module with power. A cold start and the loss of power have none of them. -/

/-- What a row of the opcode table answers at a state. -/
inductive Runner (s : State) : Host.Outcome State Fault Refusal → Prop
  | instr (i : Form) (body : Ctx → State → Except Trap State) : Runner s (instr i body s)
  | jump (i : Form) (body : Ctx → State → Except Trap State) : Runner s (jumpInstr i body s)
  | event (f : State → State) : Runner s (event f s)

/-- Each form answers a next state wherever the module runs and a group issues. -/
theorem Runner.answers {s : State} {o : Host.Outcome State Fault Refusal} (hr : Runner s o)
    (hrun : s.sys.stopped = false) (hoff : s.sys.off = false) (hctx : s.ctx?.isSome = true) : ∃ t, o = .next t := by
  obtain ⟨c, hc⟩ := Option.isSome_iff_exists.mp hctx
  cases hr with
  | instr i body =>
    obtain ⟨h, -⟩ | ⟨-, h, -⟩ | ⟨_, _, -, -, -, h⟩ | ⟨_, _, -, -, -, -, h⟩ | ⟨_, _, _, -, -, -, -, h⟩ := instr_cases i body s
    · simp [hrun] at h
    · simp [hc] at h
    · exact ⟨_, h⟩
    · exact ⟨_, h⟩
    · exact ⟨_, h⟩
  | jump i body =>
    cases hb : body c s with
    | error t => exact ⟨_, by simp only [jumpInstr, hrun, hc, hb]; rfl⟩
    | ok u => exact ⟨_, by simp only [jumpInstr, hrun, hc, hb]; rfl⟩
  | event f => exact ⟨_, event_on hoff⟩

theorem Runner.local_ {s : State} (i : Form) (body : Ctx → Except Trap Group) : Runner s (localInstr i body s) :=
  .instr _ _

theorem Runner.vec {s : State} (op : Nat) (f : VOps) (fn : VOps → LaneIn → LaneOut) : Runner s (vecInstr op f fn s) :=
  .instr _ _

theorem Runner.exch {s : State} (op : Nat) (f : VOps)
    (fn : Ctx → LaneMask → Vector DWord 96 → Vector DWord 96 → Fin 96 → LaneOut) : Runner s (exchInstr op f fn s) :=
  .instr _ _

theorem Runner.scalar {s : State} (op : Nat) (f : SOps) (fn : Ctx → DWord → DWord → DWord → DWord) :
    Runner s (scalarInstr op f fn s) :=
  .instr _ _

theorem Runner.core {s : State} (f : State → State) : Runner s (coreEvent f s) := .event _

theorem Runner.host {s : State} (f : State → State) : Runner s (hostEvent f s) := .event _

theorem Runner.read {s : State} (path : HostPath) (fn ofs : Nat) (f : HostPath → Nat → Nat → State → State) :
    Runner s (readEvent path fn ofs f s) := .event _

/-- Every row of the opcode table but a cold start and the loss of power has one of the three forms. -/
theorem runner (i : Instr) (s : State) (hcold : i ≠ .coldStart) (hloss : i ≠ .powerLoss) : Runner s (exec i s) := by
  cases i with unfold exec
  | save _ | rjn _ | xsend _ | xrecv _ | wrlane _ | scmp _ | sld _ | sst _ | ld _ | st _ | ldl _ | stl _
  | atom _ | acas _ | fence _ | pref _ | spres _ | invl _ | cpy _ | cpyg _ | cpys _ | cmt _ | waitt _ | tlrd _
  | bar _ | barc _ | arv _ | wph _ | yield _ | btake _ | bpass _ | mms _ | mml _ | aclr _ | ald _ | adrn _
  | adrv _ | talloc _ | tfree _ | mcnt _ | mcntl _ | mmrg _ | cntz _ | bfly _ | bflyp _ | enq _ | enqd _ | deq _
  | dcadd _ | dcrd _ | fres _ | fjoin _ | fget _ | nextch _ | tinfo _ | csrr _ | csrw _ | time _ | ctrrd _
  | ctrcfg _ => exact .instr _ _
  | nop _ | savem _ | frame _ | plop _ | p2v _ | smovi _ | flags _ | flclr _ => exact Runner.local_ _ _
  | pick _ | pick2 _ | setp _ | iadd _ | isub _ | imul _ | imulh _ | imad _ | imadw _ | idivm _ | imin _
  | imax _ | iabs _ | ineg _ | iadds _ | isubs _ | and _ | or _ | xor _ | andn _ | not _ | shl _ | shr _ | sar _
  | funsh _ | bfx _ | bfi _ | popc _ | clz _ | ctz _ | brev _ | prmb _ | icmp _ | isel _ | iaddc _ | agen _
  | iadd64 _ | iext _ | idot4 _ | fadd _ | fsub _ | fmul _ | ffma _ | fmin _ | fmax _ | fcmp _ | fclass _
  | frnd _ | fscale _ | frcp _ | frsq _ | fsqrt _ | fdiv _ | fex2 _ | flg2 _ | fsin _ | fcos _ | ftanh _
  | fcvt _ | fcvti _ | icvtf _ | hadd2 _ | hmul2 _ | hfma2 _ | hmin2 _ | hmax2 _ | qscl _ | fpack _ | funpk _
  | twg _ => exact Runner.vec _ _ _
  | qswp _ | qbc _ | shfl _ | vote _ | redv _ | scan _ | matchLanes _ | rdlane _ => exact Runner.exch _ _ _
  | sadd _ | ssub _ | smul _ | sand _ | sor _ | sxor _ | sshl _ | sshr _ | ssar _ | smin _ | smax _ | ssel _
  | smovk _ | spopc _ | sclz _ | smovs _ | sbfx _ => exact Runner.scalar _ _ _
  | br _ | brc _ | jmpi _ | brk _ | yldp _ | exit _ | call _ | calli _ | ret _ | trap _ | bpt _ | tret _ => exact .jump _ _
  | pageWalk _ _ | cardParse _ _ | fenceConditionMet _ _ | dealChunk _ | jobComplete _ | quantumExpire _
  | biasFlipComplete _ | invalidationComplete _ _ | policyVerifyDone _ | quoteComplete | pcieReset
  | softError _ _ _ | remoteFrameReceive _ | osierRetransmit _ | osierPortFail _ | droopDetect _
  | clockReturnStep _ | powerCapStep _ | thermalThrottle _ _ | thermalShutdown _ _ | sagEnd _ | osierPortUp _ => exact .event _
  | missDataReturn _ _ _ | storeQueueDrain _ _ | accessReplay _ _ | icacheFill _ _ _ | bundleRefetch _ _
  | stealChunk _ | workgroupStart _ | copyPiece _ _ _ _ _ | copyComplete _ _ | engineCommandStart _ _ _
  | engineCommandComplete _ _ | adrvDrain _ _ | schedulerSwap _ _ | forcedSwap _ | freeSlotFill _
  | gatingEntry _ | gatingHoldoffExpire _ | gatingExitDone _ | groupPreemptStop _ _ | preemptTimeout _ _
  | groupResume _ _ | rowClaimComplete _ | tileSpill _ _ | groupRetire _ _ | groupTerminate _ _
  | engineFaultDelivery _ _ | instructionSample _ _ | spilledLineArrival _ _ _ => exact Runner.core _
  | preemptReq _ | preemptResume _ | debugHalt _ _ | debugStep _ _ | debugFocus _ _ _ | debugUnfocus _ _
  | debugRun _ _ | debugDump _ _ | jobQueueDoorbell _ _ _ | queueEnWrite _ _ _ _ | faultResume _ _
  | fqconsWrite _ _ | biasFlipToDevice _ _ | biasFlipToHost _ _ | tlbInvalidateRange _ _ | tlbInvalidateAll _
  | stage2Invalidate _ | placementWrite _ _ _ | vfbindWrite _ _ | policySubmit _ | policyTeardown _
  | quoteRequest _ | latencyMonitorConfig _ _ _ | logOvfClear _ | warmStart | registerWrite _ _ _
  | hostMemAccess _ _ _ | osierPortEnable _ _ => exact Runner.host _
  | halfReadLow _ _ _ | halfReadHigh _ _ _ => exact Runner.read _ _ _ _
  | coldStart => exact absurd rfl hcold
  | powerLoss => exact absurd rfl hloss

/-- Settles O53, by the form of each row. -/
theorem nothingStopsARunningModule : Obligations.NothingStopsARunningModule := by
  intro i s hrun hoff hctx
  by_cases hcold : i = .coldStart
  · subst hcold; exact ⟨_, rfl⟩
  by_cases hloss : i = .powerLoss
  · subst hloss; exact ⟨_, rfl⟩
  exact (runner i s hcold hloss).answers hrun hoff hctx

end Sys2Proof.Machine

namespace Sys2Proof.Machine

/-! What every step keeps (O51, O52). `Kept s t`: where memory, the die scratchpads and the physical function's register table
have their forms in `s` they have them in `t`; where the module of `s` has stopped so has that of `t`; and what is scheduled
is the same. One lemma for each function that makes a state of a state, in the order of the model. -/

/-- What the steps' invariants speak of. -/
structure Kept (s t : State) : Prop where
  mem : s.mem.wf = true → t.mem.wf = true
  dscr : s.dscr.wf = true → t.dscr.wf = true
  preg : nsorted none s.preg = true → nsorted none t.preg = true
  stopped : s.sys.stopped = true → t.sys.stopped = true
  agenda : t.agenda = s.agenda

/-- The parts of a state that `Kept` speaks of. -/
def State.kept (s : State) : Mem × Mem × NMap DWord × Bool × List Turn := (s.mem, s.dscr, s.preg, s.sys.stopped, s.agenda)

section
variable {s t u : State} {core slot vf ctx part pa hint line die cls fn n i : Nat} {loc : Loc} {write : Bool}

theorem Kept.refl (s : State) : Kept s s := ⟨id, id, id, id, rfl⟩

theorem Kept.trans (h : Kept s t) (k : Kept t u) : Kept s u :=
  ⟨k.mem ∘ h.mem, k.dscr ∘ h.dscr, k.preg ∘ h.preg, k.stopped ∘ h.stopped, k.agenda.trans h.agenda⟩

theorem Kept.same (h : Kept s t) (e : u.kept = t.kept) : Kept s u := by
  simp only [State.kept, Prod.mk.injEq] at e
  obtain ⟨hm, hd, hp, hs, ha⟩ := e
  exact ⟨hm ▸ h.mem, hd ▸ h.dscr, hp ▸ h.preg, hs ▸ h.stopped, ha ▸ h.agenda⟩

theorem Kept.ite {p : Prop} [Decidable p] (h : Kept s t) (k : Kept s u) : Kept s (if p then t else u) := by
  split
  · exact h
  · exact k

theorem Kept.foldl {α : Type} {f : State → α → State} {l : List α} (h : Kept s t)
    (hf : ∀ u x, Kept s u → Kept s (f u x)) : Kept s (l.foldl f t) := by
  induction l generalizing t with
  | nil => exact h
  | cons x l ih => exact ih (hf t x h)

/-- The same where something else is carried along. -/
theorem Kept.foldl_fst {α β : Type} {f : State × β → α → State × β} {l : List α} {r : State × β} (h : Kept s r.1)
    (hf : ∀ r x, Kept s r.1 → Kept s (f r x).1) : Kept s (l.foldl f r).1 := by
  induction l generalizing r with
  | nil => exact h
  | cons x l ih => exact ih (hf r x h)

/-- What is kept in an answer is kept in its parts. -/
theorem Kept.of_snd {α : Type} {r : α × State} {a : α} (h : Kept s r.2) (e : r = (a, u)) : Kept s u := by
  subst e
  exact h

theorem Kept.of_fst {α : Type} {r : State × α} {a : α} (h : Kept s r.1) (e : r = (u, a)) : Kept s u := by
  subst e
  exact h

theorem Kept.getD {o : Option State} (h : Kept s t) (ho : ∀ u, o = some u → Kept s u) : Kept s (o.getD t) := by
  cases o with
  | none => exact h
  | some u => exact ho u rfl

/-! Cores, groups, dies and slices. -/

theorem Kept.setJobsCores {k : NMap Job} {l : Vector Core 64} (h : Kept s t) : Kept s { t with jobs := k, cores := l } :=
  h.same rfl

theorem Kept.setCores {k : Vector Core 64} (h : Kept s t) : Kept s { t with cores := k } := h.same rfl

theorem Kept.setClsets {k : NMap ClSet} (h : Kept s t) : Kept s { t with clsets := k } := h.same rfl

theorem Kept.setJobs {k : NMap Job} (h : Kept s t) : Kept s { t with jobs := k } := h.same rfl

theorem Kept.setCore {k : Core} (h : Kept s t) : Kept s (t.setCore core k) := by
  unfold State.setCore
  split
  · exact h.same rfl
  · exact h

theorem Kept.modCore {f : Core → Core} (h : Kept s t) : Kept s (t.modCore core f) := h.setCore

theorem Kept.setGroup {g : Group} (h : Kept s t) : Kept s (t.setGroup core slot g) := h.modCore

theorem Kept.modGroup {f : Group → Group} (h : Kept s t) : Kept s (t.modGroup core slot f) := by
  unfold State.modGroup
  split
  · exact h.setGroup
  · exact h

theorem Kept.count {ev : Nat} (h : Kept s t) : Kept s (t.count core vf ev n) := .ite h.modCore h

theorem Kept.setDie {k : Die} (h : Kept s t) : Kept s (t.setDie die k) := by
  unfold State.setDie
  split
  · exact h.same rfl
  · exact h

theorem Kept.modDie {f : Die → Die} (h : Kept s t) : Kept s (t.modDie die f) := h.setDie

theorem Kept.setSlice {k : Slice} (h : Kept s t) : Kept s (t.setSlice i k) := h.same rfl

theorem Kept.free (h : Kept s t) : Kept s t.free.2 := h.same rfl

theorem Kept.newId (h : Kept s t) : Kept s t.newId.2 := h.same rfl

/-! Caches. -/

theorem Kept.l1Refresh (h : Kept s t) : Kept s (t.l1Refresh core ctx pa) := by
  unfold State.l1Refresh
  dsimp only
  split
  · exact h
  · exact h.setCore

theorem Kept.dropCopies (h : Kept s t) : Kept s (t.dropCopies line) :=
  .ite h (h.modDie.foldl fun _ _ hu => .ite hu.setSlice hu)

theorem Kept.dirAdd (h : Kept s t) : Kept s (t.dirAdd line die) := by
  unfold State.dirAdd
  dsimp only [State.free]
  refine Kept.modDie (.ite h ?_)
  split
  · exact h.free.dropCopies
  · exact h.free

theorem Kept.dropFwd (h : Kept s t) : Kept s (t.dropFwd die line) := h.foldl fun _ _ hu => .ite hu.setSlice hu

theorem Kept.l2Fill {kind : L2Kind} {dirty : Bool} {cluster : Option Nat} (h : Kept s t) :
    Kept s (t.l2Fill i line ctx hint kind dirty cluster) := by
  refine .ite h ?_
  split
  · exact h
  · refine Kept.setSlice ?_
    dsimp only
    split
    · exact h
    · exact .ite h.setSlice.dropFwd h.setSlice

theorem Kept.dropSlice {p : L2Line → Bool} (h : Kept s t) : Kept s (t.dropSlice i p) := h.setSlice

theorem Kept.l2Migrate {home : Nat} {l : L2Line} (h : Kept s t) : Kept s (t.l2Migrate home i l part) := by
  unfold State.l2Migrate
  dsimp only
  split
  · exact .ite h.dropSlice.setSlice.l2Fill h.dropSlice.setSlice.l2Fill.dropFwd
  · exact h.setSlice

theorem Kept.sliceAccess {home : Nat} {cluster : Option Nat} {kind : L2Kind} (h : Kept s t) :
    Kept s (t.sliceAccess home i line ctx part hint cluster kind write) := by
  unfold State.sliceAccess
  dsimp only
  split
  · exact .ite h.setSlice.l2Migrate h.setSlice
  · exact .ite (Kept.l2Fill (.dropFwd (.ite h.setSlice h))) (.l2Fill (.ite h.setSlice h))

theorem Kept.l2Access {owned : Bool} (h : Kept s t) : Kept s (t.l2Access core part ctx pa hint write owned) := by
  unfold State.l2Access
  dsimp only
  split
  · exact h
  · refine .ite h.sliceAccess.dropCopies (.ite h.sliceAccess ?_)
    split
    · exact h.sliceAccess
    · exact .ite h.sliceAccess (.ite h.sliceAccess.sliceAccess.dirAdd h.sliceAccess.sliceAccess)

theorem Kept.l1Fill (h : Kept s t) : Kept s (t.l1Fill core ctx pa hint) := .ite h h.setCore

theorem Kept.loadLine {via : Via} (h : Kept s t) : Kept s (t.loadLine core part ctx via hint loc) := by
  unfold State.loadLine
  split
  · split
    · exact h.modCore
    · exact .l1Fill (.ite h.l2Access h)
  · exact .l1Refresh (.ite h.l2Access h)
  · exact h

theorem Kept.acquire {sc : Scope} (h : Kept s t) : Kept s (t.acquire core ctx sc) := .ite h.modCore h

/-! The bytes of memory, and the registers. -/

/-- Bytes that are put into memory keep its form. -/
theorem Kept.putMem {a : Nat} {b : List Byte} (h : Kept s t) : Kept s { t with mem := t.mem.put a b } :=
  ⟨fun hs => Mem.put_wf _ _ _ (h.mem hs), h.dscr, h.preg, h.stopped, h.agenda⟩

/-- Bytes that are put into a die scratchpad keep their form. -/
theorem Kept.putDscr {a : Nat} {b : List Byte} (h : Kept s t) : Kept s { t with dscr := t.dscr.put a b } :=
  ⟨h.mem, fun hs => Mem.put_wf _ _ _ (h.dscr hs), h.preg, h.stopped, h.agenda⟩

/-- An entry that is written or taken out keeps the keys rising. -/
theorem nsorted_nset_none {α : Type} [DecidableEq α] (d : α) (m : NMap α) (k : Nat) (x : α) (hm : nsorted none m = true) :
    nsorted none (nset d m k x) = true := by
  unfold nset
  split
  · exact nsorted_ndel_none k m hm
  · exact nsorted_nins_none k x m hm

theorem Kept.setPr {ofs : Nat} {v : DWord} (h : Kept s t) : Kept s (t.setPr ofs v) :=
  ⟨h.mem, h.dscr, fun hs => nsorted_nset_none _ _ _ _ (h.preg hs), h.stopped, h.agenda⟩

theorem Kept.setVr {ofs : Nat} {v : DWord} (h : Kept s t) : Kept s (t.setVr fn ofs v) := h.same rfl

theorem Kept.setVf {v : Vf} (h : Kept s t) : Kept s (t.setVf fn v) := h.same rfl

theorem Kept.modVf {f : Vf → Vf} (h : Kept s t) : Kept s (t.modVf fn f) := h.setVf

theorem Kept.setPart {v : Part} (h : Kept s t) : Kept s (t.setPart part v) := h.same rfl

/-! Walks, and what they note. -/

theorem Kept.setEntry {ea bits : Nat} (h : Kept s t) : Kept s (t.setEntry ea bits) := .ite h h.putMem

theorem Kept.setSteps {steps : Steps} (h : Kept s t) : Kept s (t.setSteps steps) := h.foldl fun _ _ hu => hu.setEntry

theorem Kept.dirtyLog {ipa origin : Nat} (h : Kept s t) : Kept s (t.dirtyLog vf ipa origin) :=
  .ite h (.ite h (.ite h.setPr (.modVf (.ite h.putMem h))))

theorem Kept.touch2 {ipa origin : Nat} (h : Kept s t) : Kept s (t.touch2 vf ipa write origin) := by
  unfold State.touch2
  split
  · exact .setEntry (.setSteps (.ite h.dirtyLog h))
  · exact h.setSteps
  · exact h.setSteps

theorem Kept.touch1 {bits origin : Nat} {p : Nat × Nat} (h : Kept s t) : Kept s (t.touch1 vf bits origin p) :=
  .ite (.ite h h.touch2) (.setEntry (.ite (.ite h h.touch2) (.touch2 (.ite h h.touch2))))

theorem Kept.touchWalk {va origin : Nat} (h : Kept s t) : Kept s (t.touchWalk vf va write origin) := by
  have hsteps (l : Steps) : Kept s (l.foldl (fun s p => s.touch1 vf 0x20 origin p) t) := h.foldl fun _ _ hu => hu.touch1
  refine .ite (.ite h h.touch2) ?_
  split
  · exact .ite (hsteps _).touch1 (hsteps _).touch1.touch2
  · exact hsteps _
  · exact (hsteps _).touch2

theorem Kept.tlbFill {e : TlbEntry} (h : Kept s t) : Kept s (t.tlbFill core e) := .ite h h.free.modCore.modDie

theorem Kept.walked {va origin : Nat} (h : Kept s t) : Kept s (t.walked core vf va write origin) := by
  unfold State.walked
  split
  · exact h.touchWalk.tlbFill
  · exact h.touchWalk

theorem Kept.prefetch {va : Nat} (h : Kept s t) : Kept s (t.prefetch core part vf hint va) := by
  unfold State.prefetch
  dsimp only
  split
  · refine .ite h (.ite (.ite h h.walked) ?_)
    split
    · exact .loadLine (.ite h h.walked)
    · exact .ite h h.walked
  · exact .ite h h.walked

theorem Kept.makeWalk {w : Nat × Nat × Nat} (h : Kept s t) : Kept s (t.makeWalk die w) := h.modDie.prefetch

theorem Kept.walkTurn (h : Kept s t) : Kept s (t.walkTurn core) := h.foldl fun _ _ hu => hu.makeWalk

theorem Kept.walkMarks {va : Nat} (h : Kept s t) : Kept s (t.walkMarks core vf va) :=
  .ite (.touchWalk (.ite h.walkTurn h)) h

theorem Kept.touch {va origin : Nat} (h : Kept s t) : Kept s (t.touch core vf va write origin) := by
  unfold State.touch
  split
  · exact .ite h h.modCore
  · exact .walked (.ite h.walkTurn h)

theorem Kept.queueWalk {va : Nat} (h : Kept s t) : Kept s (t.queueWalk core vf hint va) := h.modDie

/-! Flips of bias. -/

theorem Kept.delay {x : Late} (h : Kept s t) : Kept s (t.delay fn x) := h.modVf

theorem Kept.dropWhere {p : Nat → Bool} (h : Kept s t) : Kept s (t.dropWhere p) := h.same rfl

theorem Kept.endFlip (h : Kept s t) : Kept s (t.endFlip vf) := by
  unfold State.endFlip
  split
  · exact h
  · exact .ite h.modVf (.ite h (.modVf (Kept.same (.ite h.dropWhere h) rfl)))

theorem Kept.settleFlip (h : Kept s t) : Kept s (t.settleFlip pa) := .ite (h.foldl fun _ _ hu => hu.endFlip) h

/-! Bytes at a place, and what waits for them. -/

theorem Kept.noteFences (h : Kept s t) : Kept s t.noteFences := .ite h (h.same rfl)

theorem Kept.noteWaits (h : Kept s t) : Kept s t.noteWaits := Kept.noteFences (h.same rfl)

theorem Kept.setWg {w : Nat} {v : Workgroup} (h : Kept s t) : Kept s (t.setWg core w v) := h.modCore

theorem Kept.modWg {w : Nat} {f : Workgroup → Workgroup} (h : Kept s t) : Kept s (t.modWg core w f) := by
  unfold State.modWg
  split
  · exact h.setWg
  · exact h

theorem Kept.clearPoison (h : Kept s t) : Kept s (t.clearPoison loc n) := .ite h (h.same rfl)

theorem Kept.putLoc {b : List Byte} (h : Kept s t) : Kept s (t.putLoc loc b) := by
  unfold State.putLoc
  dsimp only
  split
  · exact h.clearPoison.putMem
  · exact h.clearPoison.modWg
  · exact h.clearPoison.putDscr
  · exact h.clearPoison

theorem Kept.store {b : List Byte} {cached : Bool} (h : Kept s t) : Kept s (t.store core part ctx loc b hint cached) := by
  refine Kept.noteWaits ?_
  dsimp only
  split
  · exact .modCore (.ite (h.putLoc.foldl fun _ _ hu => hu.l2Access) h.putLoc)
  · exact h.putLoc

theorem Kept.fnWrite {va : Nat} {b : List Byte} (h : Kept s t) (hu : t.fnWrite fn va b = some u) : Kept s u := by
  unfold State.fnWrite at hu
  split at hu
  · dsimp only at hu
    split at hu
    · cases hu
    · cases hu
      exact h.settleFlip.touch.store
  · cases hu

end

end Sys2Proof.Machine

namespace Sys2Proof.Machine

/-! What every step keeps, continued: records of faults, the end of a group, traps and what waits. -/

section
variable {s t u : State} {core slot vf ctx part pa cls fn wg n i q : Nat} {loc : Loc} {c : Ctx} {g : Group}

theorem Kept.setPending {b : Bool} (h : Kept s t) : Kept s (t.setPending fn i b) := .ite h.setPr h.setVr

theorem Kept.raise (h : Kept s t) : Kept s (t.raise fn i) := .ite h (.ite h.setPending h.modVf)

theorem Kept.fqRefused (h : Kept s t) : Kept s (t.fqRefused fn) := .ite h.delay h.setVr

theorem Kept.coarseDue (h : Kept s t) (hu : t.coarseDue vf cls = some u) : Kept s u := by
  unfold State.coarseDue at hu
  dsimp only at hu
  split at hu
  · cases hu
  · cases hu
    exact h.setPart

theorem Kept.owe (h : Kept s t) : Kept s (t.owe vf cls) := h.setPart

theorem Kept.fqSeen {e : FqEntry} (h : Kept s t) : Kept s (t.fqSeen fn ctx e).2.2 := by
  unfold State.fqSeen
  split
  · exact h
  · split
    · exact h
    · exact h.owe
    · split
      · next hu => exact h.coarseDue hu
      · exact h
    · exact h

theorem Kept.fqWrite {e : FqEntry} {w : BitVec 32} (h : Kept s t) (hu : t.fqWrite fn e = some (w, u)) : Kept s u := by
  unfold State.fqWrite at hu
  dsimp only at hu
  split at hu
  · cases hu
  · split at hu
    · cases hu
    · next hw =>
      cases hu
      exact (h.fqSeen.fnWrite hw).modVf.raise

theorem Kept.pageFault {m : PageMiss} (h : Kept s t) : Kept s (t.pageFault m) := by
  refine .ite h ?_
  dsimp only
  split
  · next hu => exact (h.fqWrite hu).modVf
  · exact h.fqRefused.modVf

theorem Kept.parkPage {m : PageMiss} {w : DWord} {r : Option Resume} (h : Kept s t) :
    Kept s (t.parkPage core slot m w r) := h.walkMarks.pageFault.modGroup

/-! What a group gives up when it leaves. -/

theorem Kept.resetProgress {gs : List (Nat × Nat)} (h : Kept s t) : Kept s (t.resetProgress gs) :=
  h.foldl fun _ _ hu => hu.modGroup

theorem Kept.settleBarc {b : Nat} (h : Kept s t) : Kept s (t.settleBarc core wg b) := by
  unfold State.settleBarc
  split
  · exact h
  · split
    · exact h
    · exact .ite h (Kept.resetProgress (h.same rfl))

theorem Kept.settleBar {b : Nat} (h : Kept s t) : Kept s (t.settleBar core wg b) := by
  unfold State.settleBar
  split
  · exact h
  · exact .ite h h.setWg.resetProgress

theorem Kept.leaveBarriers (h : Kept s t) : Kept s (t.leaveBarriers core slot wg) := by
  unfold State.leaveBarriers
  refine Kept.foldl (Kept.foldl ?_ fun _ _ hu => hu.settleBar) fun _ _ hu => hu.settleBarc
  dsimp only
  split
  · exact h.modWg
  · split
    · exact h.modWg
    · exact h.modWg.same rfl

theorem Kept.dropBaton (h : Kept s t) : Kept s (t.dropBaton core slot) := h.modCore

theorem Kept.leaveEngine (h : Kept s t) : Kept s (t.leaveEngine core slot) := by
  unfold State.leaveEngine
  exact h.dropBaton.modCore

theorem Kept.beginLeave (h : Kept s t) : Kept s (t.beginLeave core slot) := by
  unfold State.beginLeave
  dsimp only
  split
  · exact h.modGroup.leaveEngine.leaveBarriers
  · exact h.modGroup.leaveEngine

theorem Kept.modDq {f : DQueue → DQueue} (h : Kept s t) : Kept s (t.modDq vf q f) := h.modVf

theorem Kept.publishZero {base : Nat} (h : Kept s t) : Kept s (t.publishZero vf q base n) := by
  refine h.foldl fun u i hu => .ite hu.delay ?_
  split
  · next hw => exact (hu.fnWrite hw).modDq
  · exact hu.modDq

theorem Kept.settleReservation (h : Kept s t) : Kept s (t.settleReservation g) := by
  unfold State.settleReservation
  split
  · exact h.publishZero
  · exact h.modDq
  · exact h

theorem Kept.leaveSlots (h : Kept s t) : Kept s (t.leaveSlots core slot wg) := h.modWg

theorem Kept.setJob {j : Nat} {v : Job} (h : Kept s t) : Kept s (t.setJob j v) := h.same rfl

theorem Kept.modJob {j : Nat} {f : Job → Job} (h : Kept s t) : Kept s (t.modJob j f) := by
  unfold State.modJob
  split
  · exact h.setJob
  · exact h

/-! Events and faults. -/

theorem Kept.eqWrite {words : List DWord} (h : Kept s t) : Kept s (t.eqWrite fn words) := by
  refine .ite h.delay (.ite h.modVf ?_)
  split
  · exact h.modVf
  · next hw => exact (h.fnWrite hw).modVf.raise

theorem Kept.eqKind {kind code : Nat} {w1 w2 : DWord} (h : Kept s t) : Kept s (t.eqKind fn kind code w1 w2) := h.eqWrite

theorem Kept.pfRecord {whole shown : List DWord} {least : Option (List DWord)} (h : Kept s t) :
    Kept s (t.pfRecord vf cls whole shown least) := by
  unfold State.pfRecord
  cases least with
  | none =>
    dsimp only
    split
    · exact h.eqWrite
    · exact h.owe
    · split
      · next hu => exact (h.coarseDue hu).eqWrite
      · exact h
    · exact h
  | some words =>
    dsimp only
    split
    · exact h.eqWrite
    · exact h.owe.eqWrite
    · split
      · next hu => exact (h.coarseDue hu).eqWrite
      · exact h.eqWrite
    · exact h.eqWrite

theorem Kept.eventFault {r : FaultRec} (h : Kept s t) : Kept s (eventFault t r) := .ite h.eqWrite h.eqWrite.pfRecord

theorem Kept.terminate {r : FaultRec} (h : Kept s t) : Kept s (t.terminate core slot r) := by
  unfold State.terminate
  split
  · exact h
  · refine Kept.beginLeave (.modGroup (.leaveSlots (.settleReservation (.modJob ?_))))
    exact h.count.eventFault.foldl fun _ _ hu => hu.eventFault

theorem Kept.icRead {va : DWord} {ws : List DWord} (h : Kept s t) (hu : t.icRead core g va = .words ws u) : Kept s u := by
  unfold State.icRead at hu
  dsimp only at hu
  split at hu
  · cases hu
  · repeat (split at hu; · cases hu)
    cases hu
    exact Kept.modCore (.ite h.settleFlip.touch.l2Access h.settleFlip.touch)

theorem Kept.fetchBundle {va : DWord} {ws : List DWord} (h : Kept s t) (hu : t.fetchBundle core g va = .words ws u) :
    Kept s u := by
  unfold State.fetchBundle at hu
  split at hu
  · cases hu
    exact h
  · exact h.icRead hu

theorem Kept.deliver {r : FaultRec} {resume : PC} (h : Kept s t) : Kept s (t.deliver core slot r resume) := by
  unfold State.deliver
  split
  · exact h
  · dsimp only
    refine .ite (.ite h.setGroup.terminate h.setGroup.terminate) (.ite h.setGroup.terminate (.ite h.setGroup.terminate ?_))
    split
    · exact h.setGroup.parkPage
    · exact h.setGroup.terminate
    · exact h.setGroup.modGroup
    · next hf =>
      have hu := h.setGroup.fetchBundle hf
      exact .ite h.setGroup.terminate (.ite hu.terminate hu.count.modGroup)

/-! The active set and stops for the debugger. -/

theorem Kept.leaveActive (h : Kept s t) : Kept s (t.leaveActive core slot) := h.modCore

theorem Kept.writeBack (h : Kept s t) : Kept s (t.writeBack core slot) := by
  unfold State.writeBack
  split
  · exact h
  · exact h.setGroup.count

theorem Kept.standDown (h : Kept s t) : Kept s (t.standDown core slot) := by
  unfold State.standDown
  exact .leaveActive (.dropBaton (.modCore (.ite h.writeBack.modGroup h.writeBack)))

theorem Kept.debugStop (h : Kept s t) : Kept s (t.debugStop core slot) := by
  unfold State.debugStop
  dsimp only
  split
  · exact h.standDown.modGroup.modCore
  · exact h.standDown.modGroup

theorem Kept.stepDone (h : Kept s t) : Kept s (t.stepDone core slot) := by
  unfold State.stepDone
  split
  · exact .ite h.debugStop.modGroup h
  · exact h

/-! The fault of an instruction, and the ways that it goes on. -/

theorem Kept.precise {code sub : Nat} {addr : DWord} {lanes : LaneMask} (h : Kept s t) :
    Kept s (t.precise c code sub addr lanes) := h.deliver.stepDone

theorem Kept.preciseOpen {code sub : Nat} {lanes : LaneMask} (h : Kept s t) : Kept s (t.preciseOpen c code sub lanes) :=
  Kept.precise (h.same rfl)

theorem Kept.goOn (h : Kept s t) : Kept s (t.goOn c g) := by
  unfold State.goOn
  split
  · exact h.setGroup
  · exact h.setGroup.beginLeave

theorem Kept.arrive {rjt : Bool} (h : Kept s t) : Kept s (t.arrive c rjt) := by
  refine .ite h.precise ?_
  split
  · exact h
  · exact h.goOn

theorem Kept.fetchFault {code sub : Nat} (h : Kept s t) : Kept s (t.fetchFault c code sub) :=
  Kept.stepDone (Kept.deliver (h.same rfl))

theorem Kept.pastEnd (h : Kept s t) : Kept s (t.pastEnd c) := Kept.stepDone (Kept.deliver (h.same rfl))

/-- A trap keeps what the body that left its state by itself kept. -/
theorem Kept.trap {x : Trap} (h : Kept s t) (hx : ∀ u, x = .out u → Kept s u) : Kept s (t.trap c x) := by
  cases x with
  | fault => exact h.precise
  | faultOpen => exact h.preciseOpen
  | hold => exact h.modGroup
  | stall => exact h
  | out u => exact hx u rfl

theorem Kept.saveFault (h : Kept s t) : Kept s (t.saveFault core slot) := by
  unfold State.saveFault
  split
  · exact h
  · exact .ite h (Kept.terminate (h.same rfl))

/-! What a wait ends with. -/

theorem Kept.readFuture {d : Nat} (h : Kept s t) : Kept s (t.readFuture core slot vf loc d) := by
  refine Kept.modGroup (.ite h.acquire ?_)
  split
  · exact h.l1Refresh
  · exact h

theorem Kept.alone {E : LaneMask} (h : Kept s t) (hu : t.alone core slot g n E = some u) : Kept s u := by
  unfold State.alone at hu
  dsimp only at hu
  split at hu
  · cases hu
  · split at hu
    · cases hu
    · cases hu
      exact h.setGroup.leaveSlots.precise

theorem Kept.stampLate (h : Kept s t) : Kept s (t.stampLate core slot g) := by
  unfold State.stampLate
  split
  · exact h
  · exact h.setGroup.count

theorem Kept.takeRecs {base w : Nat} {E : LaneMask} {locs : List (DWord × Loc)} (h : Kept s t) :
    Kept s (t.takeRecs core slot g q base w E locs) :=
  Kept.acquire (.modDq (.modGroup (h.foldl fun _ _ hu => hu.touch)))

theorem Kept.finishDeq {base w : Nat} {E : LaneMask} {next : State → State} (h : Kept s t)
    (hn : ∀ u, Kept s u → Kept s (next u)) (hu : t.finishDeq core slot g q base n w E next = some u) : Kept s u := by
  unfold State.finishDeq at hu
  dsimp only at hu
  split at hu
  · cases hu
  · split at hu
    · split at hu
      · cases hu
      · cases hu
        exact h.modGroup.modDq.precise
    · cases hu
      exact h.parkPage
    · split at hu
      · cases hu
      · cases hu
        exact hn _ h.takeRecs

theorem Kept.publish {base : Nat} {recs : List (List Word)} {locs : List (DWord × Loc)} (h : Kept s t) :
    Kept s (t.publish core g q base recs locs) := by
  unfold State.publish
  exact .modDq (h.foldl fun _ _ hu => hu.touch.store)

theorem Kept.pushLate {f : Group → Group} (h : Kept s t) : Kept s (t.pushLate core slot f) := by
  unfold State.pushLate
  split
  · exact h
  · exact h.setGroup.stampLate

theorem Kept.goNextWith {f : Group → Group} (h : Kept s t) : Kept s (t.goNextWith core slot f) :=
  h.pushLate.modGroup.stepDone

theorem Kept.endWait {f : Group → Group} (h : Kept s t) : Kept s (t.endWait core slot f) := h.goNextWith

theorem Kept.finishPublish {base : Nat} {recs : List (List Word)} (h : Kept s t)
    (hu : t.finishPublish core slot g q base recs = some u) : Kept s u := by
  unfold State.finishPublish at hu
  dsimp only at hu
  split at hu
  · split at hu
    · cases hu
    · cases hu
      exact h.setGroup.publishZero.precise
  · cases hu
    exact h.parkPage
  · split at hu
    · cases hu
    · cases hu
      exact h.publish.endWait

end

end Sys2Proof.Machine

namespace Sys2Proof.Machine

/-! What every step keeps, continued: commands, pre-emption and the host's register writes. -/

section
variable {s t u : State} {core slot vf ctx part pa cls fn wg n i q o p : Nat} {loc : Loc} {c : Ctx} {g : Group} {v value : DWord}
  {write : Bool}

/-- A value that is made of an answer is made of that answer. -/
theorem exists_of_map_eq_ok {ε α β : Type} {x : Except ε α} {f : α → β} {b : β} (h : Except.map f x = .ok b) :
    ∃ a, x = .ok a ∧ f a = b := by
  cases x with
  | error e => cases h
  | ok a => exact ⟨a, rfl, Except.ok.inj h⟩

/-! Copies and frames. -/

theorem Kept.modPort {f : Port → Port} (h : Kept s t) : Kept s (t.modPort p f) := by
  unfold State.modPort
  split
  · exact h.same rfl
  · exact h

theorem Kept.portEnable {enable : Bool} (h : Kept s t) : Kept s (t.portEnable p enable) := .ite h h.setPr.modPort

theorem Kept.engineFault {r : FaultRec} (h : Kept s t) : Kept s (t.engineFault core slot r) := by
  have hf : Kept s { t with fresh := t.fresh + 1 } := h.same rfl
  unfold State.engineFault
  dsimp only
  split
  · exact hf.eventFault
  · exact .ite hf.eventFault (.ite hf.modGroup hf.modGroup.eventFault)

theorem Kept.modCopy {id : Nat} {f : CopyCmd → CopyCmd} (h : Kept s t) : Kept s (t.modCopy core id f) := h.modCore

theorem Kept.dueLine {x : Nat × Nat × Nat} {more : Bool} (h : Kept s t) : Kept s (t.dueLine x more) := h.modWg

theorem Kept.copyFail {k : CopyCmd} {sub : Nat} {lanes : LaneMask} (h : Kept s t) : Kept s (t.copyFail core k sub lanes) := by
  unfold State.copyFail
  split
  · exact h
  · exact .ite h (.engineFault (.modCopy (h.foldl fun _ _ hu => hu.dueLine)))

theorem Kept.dropFrame {id : Nat} (h : Kept s t) : Kept s (t.dropFrame id) := h.same rfl

theorem Kept.modFrame {id : Nat} {f : Frame → Frame} (h : Kept s t) : Kept s (t.modFrame id f) := h.same rfl

theorem Kept.frameRefused {f : Frame} {sub : Nat} (h : Kept s t) : Kept s (t.frameRefused f sub) := by
  unfold State.frameRefused
  dsimp only
  split
  · exact h.dropFrame.modCopy
  · exact h.dropFrame.modCopy.copyFail

theorem Kept.portFor {cmd device : Nat} (h : Kept s t) : Kept s (t.portFor core cmd device).2 := by
  unfold State.portFor
  dsimp only [State.free]
  split
  · exact h
  · split
    · exact h.free.modCopy
    · exact h.free

theorem Kept.reroute {f : Frame} (h : Kept s t) : Kept s (t.reroute f) := by
  unfold State.reroute
  split
  · next e => exact (h.portFor.of_snd e).modFrame
  · next e => exact (h.portFor.of_snd e).frameRefused

theorem Kept.pieceDone {id key : Nat} (h : Kept s t) : Kept s (t.pieceDone core id key) := by
  unfold State.pieceDone
  dsimp only
  split
  · exact h.modCopy
  · exact .modCopy (h.modCopy.foldl fun _ _ hu => hu.dueLine)

theorem Kept.framePerformed {f : Frame} {data : List Byte} (h : Kept s t) : Kept s (t.framePerformed f data) := by
  unfold State.framePerformed
  dsimp only
  split
  · refine .modCopy (.modCopy ?_)
    split
    · exact h.dropFrame.modPort
    · exact h.dropFrame
  · refine .pieceDone (.modCopy ?_)
    split
    · exact h.dropFrame.modPort
    · exact h.dropFrame
  · refine .pieceDone (.modCopy ?_)
    split
    · exact h.dropFrame.modPort
    · exact h.dropFrame
  · refine .modCopy (.modCopy ?_)
    split
    · exact h.dropFrame.modPort
    · exact h.dropFrame

theorem Kept.foreign (h : Kept s t) : Kept s (t.foreign n).2 := by
  induction n generalizing t with
  | zero => exact h
  | succ n ih => exact ih h.free

theorem Kept.elsewhere {f : Frame} (h : Kept s t) : Kept s (t.elsewhere f) := by
  unfold State.elsewhere
  dsimp only [State.free]
  split
  · exact h.free.foreign.framePerformed
  · exact h.free.frameRefused
  · split
    · exact h.free.modPort.modFrame
    · exact h.free

/-- What serving a frame keeps. -/
def Served.Keeps (s : State) : Served → Prop
  | .refused _ => True
  | .waits u => Kept s u
  | .done _ u => Kept s u

theorem Kept.serve {f : Frame} (h : Kept s t) : (t.serve f).Keeps s := by
  unfold State.serve
  split
  · trivial
  · dsimp only
    split
    · trivial
    · exact .ite h h.walkMarks.pageFault.modFrame
    · split
      · exact h
      · split
        · trivial
        · split
          · show Kept s _
            split
            · exact .ite h.touch.l2Access h.touch
            · exact h.touch
          · exact h.touch.store
          · exact h.touch.store
          · exact h.touch.store

theorem Kept.serveFrame {f : Frame} (h : Kept s t) : Kept s (t.serveFrame f) := by
  have hs := h.serve (f := f)
  unfold State.serveFrame
  split
  · next e =>
    rw [e] at hs
    exact hs
  · exact .ite h.frameRefused h.dropFrame
  · next e =>
    rw [e] at hs
    exact .ite (Kept.framePerformed hs) (Kept.dropFrame hs)

/-! Soft errors and starts. -/

theorem Kept.poisonWord {key : Nat} (h : Kept s t) : Kept s (t.poisonWord key) := h.same rfl

theorem Kept.uncorrectable {key : Nat} (h : Kept s t) : Kept s (t.uncorrectable key) := by
  have hline (a : Nat) : Kept s ((List.range 16).foldl (fun (s : State) i => s.poisonWord (lineOf a + 8 * i)) t) :=
    h.foldl fun _ _ hu => hu.poisonWord
  unfold State.uncorrectable
  dsimp only
  exact .ite h.modCore (.ite (hline (key % 2 ^ 57)).setCores
    (.ite (.modGroup (h.same rfl)) (h.poisonWord (key := key)).setCores))

/-- Only a warm start keeps the memory of the die and a stop. -/
theorem Kept.restart (h : Kept s t) : Kept s (t.restart true) :=
  ⟨h.mem, fun _ => rfl, fun _ => rfl, h.stopped, h.agenda⟩

theorem Kept.warmStart (h : Kept s t) : Kept s (t.startUp true) := by
  obtain ⟨y, heq, -, -, hstop, -⟩ := startUp_eq t true
  rw [heq]
  exact ⟨h.mem, h.restart.dscr, h.restart.preg, fun hs => by simpa only [hstop, Bool.true_and] using h.stopped hs, h.agenda⟩

/-! Interrupts, flips and fault service. -/

theorem Kept.msixSettle (h : Kept s t) : Kept s (t.msixSettle fn i) := .ite h.setPending.raise h

theorem Kept.startFlip {page : DWord} {toHost : Bool} (h : Kept s t) : Kept s (t.startFlip vf page toHost) :=
  .ite h (.modVf (.ite h h.touch2))

theorem Kept.releaseKeys {keys : List (Nat × Nat × Nat × Nat)} (h : Kept s t) : Kept s (t.releaseKeys fn keys) := h.same rfl

theorem Kept.showSeq {key : Nat × Nat × Nat × Nat} {r : BitVec 32} (h : Kept s t) : Kept s (t.showSeq fn key r) := h.same rfl

theorem Kept.retryFq {l : List FqEntry} (h : Kept s t) : Kept s (t.retryFq fn l) := by
  induction l generalizing t with
  | nil => exact h
  | cons e r ih =>
    unfold State.retryFq
    split
    · exact h.fqRefused
    · next hu => exact ih (h.fqWrite hu).modVf.showSeq

theorem Kept.retryWithheld (h : Kept s t) : Kept s (t.retryWithheld fn) := h.retryFq

theorem Kept.faultResume {seq : BitVec 32} (h : Kept s t) : Kept s (t.faultResume fn seq) := h.modVf.releaseKeys.retryWithheld

theorem Kept.fqcons {r : BitVec 32} (h : Kept s t) : Kept s (t.fqcons fn r) := h.setVr.retryWithheld

theorem Kept.dropTlb {r : Nat × Nat} (h : Kept s t) : Kept s (t.dropTlb vf r) := h.same rfl

theorem Kept.dropSome {r : Nat × Nat} (h : Kept s t) : Kept s (t.dropSome vf r) := .ite h.free h.free.dropTlb

theorem Kept.invalidate {r : Nat × Nat} (h : Kept s t) : Kept s (t.invalidate vf r) := h.modVf.dropSome

theorem Kept.invalidateRange {va : DWord} (h : Kept s t) : Kept s (t.invalidateRange vf va) := h.invalidate

theorem Kept.serviceWrite (h : Kept s t) : Kept s (t.serviceWrite fn o value) := by
  unfold State.serviceWrite
  split
  · exact h.setVr
  · exact .ite h.setVr h
  · exact h.setVr
  · exact .ite h.invalidate h.invalidateRange
  · exact h.setVr.retryWithheld
  · exact h.fqcons
  · exact h.faultResume
  · exact .ite h.setVr h
  · exact h.startFlip
  · exact .ite h.setVr h
  · exact h.setVr
  · exact h

/-! Save areas and debug commands. -/

theorem Kept.savePage {va r : Nat} {reads : List (Nat × Nat)} {l2 : Bool} (h : Kept s t)
    (hu : t.savePage core vf part va write reads = .at_ r l2 u) : Kept s u := by
  unfold State.savePage at hu
  dsimp only at hu
  split at hu
  · cases hu
  · cases hu
  · split at hu
    · split at hu
      · cases hu
      · split at hu
        · cases hu
        · cases hu
          exact h.settleFlip.touch
    · cases hu

theorem Kept.spadRow {r : Nat} {b : List Byte} (h : Kept s t) (hu : t.spadRow core wg r = .ok (b, u)) : Kept s u := by
  unfold State.spadRow at hu
  split at hu
  · cases hu
    exact h
  · dsimp only at hu
    split at hu
    · obtain ⟨-, rfl⟩ := Prod.mk.inj (Except.ok.inj hu)
      exact h
    · split at hu
      · next e =>
        obtain ⟨-, rfl⟩ := Prod.mk.inj (Except.ok.inj hu)
        exact h.savePage e
      · cases hu

theorem Kept.savePut {l2 : Bool} {b : List Byte} (h : Kept s t) : Kept s (t.savePut core vf part pa l2 b) := h.store

theorem Kept.writeRow {r : Nat} {l2 all : Bool} (h : Kept s t) : Kept s (t.writeRow core g r pa l2 all) := by
  refine .ite h.savePut (h.foldl fun u w hu => .ite ?_ hu)
  split
  · exact hu.savePut
  · exact hu.free.savePut
  · exact hu.savePut.same rfl

theorem Kept.dumpPage {l2 : Bool} {d : DumpPage} (h : Kept s t) (hu : t.dumpPage core g pa l2 d = .ok u) : Kept s u := by
  cases d with
  | row r =>
    cases hu
    exact h.writeRow
  | spad r =>
    unfold State.dumpPage at hu
    obtain ⟨⟨b, v⟩, hv, rfl⟩ := exists_of_map_eq_ok hu
    exact (h.spadRow hv).savePut.same rfl
  | cmds l =>
    cases hu
    exact h.savePut

theorem Kept.dumpTo {va : Nat} {l : List DumpPage} (h : Kept s t) : Kept s (t.dumpTo core g va l).1 := by
  induction l generalizing t va with
  | nil => exact h
  | cons d l ih =>
    unfold State.dumpTo
    split
    · next e =>
      split
      · next hd => exact ih ((h.savePage e).dumpPage hd)
      · exact h
    · exact h

theorem Kept.dbgResult {gid res : Nat} (h : Kept s t) : Kept s (t.dbgResult vf gid res) := h.modVf

theorem Kept.rowPages {rs : List Nat} {x : List (Nat × Nat) × State} (h : Kept s t)
    (hu : t.rowPages core g rs = .ok x) : Kept s x.2 := by
  induction rs generalizing t x with
  | nil =>
    cases hu
    exact h
  | cons r rs ih =>
    unfold State.rowPages at hu
    dsimp only at hu
    split at hu
    · next e =>
      obtain ⟨y, hy, rfl⟩ := exists_of_map_eq_ok hu
      exact ih (x := y) (h.savePage e) hy
    · cases hu

theorem Kept.onStopped {gid : Nat} {f : State → Nat → Nat → Group → State} (h : Kept s t)
    (hf : ∀ c n g, Kept s (f t c n g)) : Kept s (t.onStopped vf gid f) := by
  unfold State.onStopped
  split
  · exact h.dbgResult
  · exact .ite (hf _ _ _) h.dbgResult

theorem Kept.dbgDump {gid : Nat} (h : Kept s t) : Kept s (t.dbgDump vf gid) := by
  refine h.onStopped fun c n g => ?_
  dsimp only
  split
  · exact h.delay
  · exact h.dbgResult
  · next e =>
    split
    · next hd =>
      exact .ite h.delay ((h.rowPages e).dumpTo.of_fst hd).dbgResult
    · exact h.delay

theorem Kept.dbgUnfocus {gid : Nat} (h : Kept s t) : Kept s (t.dbgUnfocus vf gid) :=
  h.onStopped fun _ _ _ => h.modGroup.dbgResult

theorem Kept.dbgFocus {gid lane : Nat} (h : Kept s t) : Kept s (t.dbgFocus vf gid lane) :=
  h.onStopped fun _ _ _ => .ite h.delay (.ite h.dbgResult h.modGroup.dbgResult)

theorem Kept.standUp (h : Kept s t) : Kept s (t.standUp core slot) := by
  unfold State.standUp
  split
  · exact h
  · exact .ite h h.modCore

theorem Kept.dbgGo {gid : Nat} {step : Bool} (h : Kept s t) : Kept s (t.dbgGo vf gid step) :=
  h.onStopped fun _ _ _ => h.modGroup.standUp.dbgResult

theorem Kept.dbgHalt {gid : Nat} (h : Kept s t) : Kept s (t.dbgHalt vf gid) := by
  unfold State.dbgHalt
  split
  · exact h.dbgResult
  · exact .dbgResult (.ite h h.debugStop)

theorem Kept.dbgCommand (h : Kept s t) : Kept s (t.dbgCommand vf value) := by
  refine .ite h.delay ?_
  split
  · exact h.dbgHalt
  · exact h.dbgGo
  · exact h.dbgFocus
  · exact h.dbgUnfocus
  · exact h.dbgGo
  · exact h.dbgDump
  · exact h

theorem Kept.debugWrite {operator : Bool} (h : Kept s t) : Kept s (t.debugWrite vf o value operator) :=
  .ite h.setVr (.ite (.ite h.modVf h.dbgCommand) (.ite h.setVr (.ite h.setVr (.ite h.setVr (.ite h.setVr (.ite h.setVr h))))))

end

end Sys2Proof.Machine

namespace Sys2Proof.Machine

/-! What every step keeps, continued: queues, time slices and the register writes of the host. -/

section
variable {s t u : State} {core slot vf ctx part pa cls fn wg n i q o p die : Nat} {loc : Loc} {c : Ctx} {g : Group}
  {v value : DWord} {write : Bool}

/-! Queues and wakes. -/

theorem Kept.modJq {f : JQueue → JQueue} (h : Kept s t) : Kept s (t.modJq vf q f) := h.modVf

theorem Kept.wakeCore (h : Kept s t) : Kept s (t.wakeCore core) := by
  unfold State.wakeCore
  exact h.modCore

theorem Kept.wakePart (h : Kept s t) : Kept s (t.wakePart part) := h.foldl fun _ _ hu => .ite hu.wakeCore hu

theorem Kept.takeTickets (h : Kept s t) : Kept s (t.takeTickets vf q n).2 := h.same rfl

theorem Kept.doorbell {e : BitVec 32} (h : Kept s t) : Kept s (t.doorbell vf q e) :=
  .ite h (.ite (.ite h h.takeTickets.modJq.wakePart) h.setVr)

theorem Kept.queueEn {data : Bool} (h : Kept s t) : Kept s (t.queueEn vf data q value) :=
  .ite h (.ite h.setVr (.ite h.setVr.modDq h.setVr.modJq))

theorem Kept.queueWrite (h : Kept s t) : Kept s (t.queueWrite fn o value) := by
  refine .ite (.ite h ?_) (.ite (.ite h ?_) (.ite h.setVr h))
  · split
    · exact .ite h h.setVr
    · exact h.queueEn
    · exact h.doorbell
    · exact h
  · split
    · exact .ite h h.setVr
    · exact h.queueEn
    · exact h

theorem Kept.pageWrite (h : Kept s t) : Kept s (t.pageWrite fn o value) :=
  .ite h (.ite h.queueWrite (.ite h.debugWrite (.ite (.ite h h.setVr.msixSettle) h.serviceWrite)))

theorem Kept.osierWrite (h : Kept s t) : Kept s (t.osierWrite o value) :=
  .ite (.ite h h.setPr) (.ite h.portEnable (.ite h.setPr (.ite h.setPr h)))

theorem Kept.latencyConfig (h : Kept s t) : Kept s (t.latencyConfig vf q value) := by
  unfold State.latencyConfig
  exact h.setPr.modVf

theorem Kept.invalidate2 (h : Kept s t) : Kept s (t.invalidate2 vf) := h.modVf.dropSome

theorem Kept.timeWrite (h : Kept s t) : Kept s (t.timeWrite vf o value) := .ite h h.setPr

theorem Kept.logOvfClear (h : Kept s t) : Kept s (t.logOvfClear vf) := h.setPr

theorem Kept.dirtyWrite (h : Kept s t) : Kept s (t.dirtyWrite vf o value) :=
  .ite h.setPr (.ite h.setPr (.ite h.logOvfClear h))

theorem Kept.grantSlots (h : Kept s t) : Kept s (t.grantSlots core n) := by
  induction n generalizing t with
  | zero => exact h
  | succ n ih =>
    unfold State.grantSlots
    split
    · exact h
    · exact ih h.modGroup

theorem Kept.settleSlots (h : Kept s t) : Kept s (t.settleSlots core) := h.grantSlots

/-! Time slices and pre-emption. -/

theorem Kept.beginTurn (h : Kept s t) : Kept s (t.beginTurn vf) := by
  unfold State.beginTurn
  split
  · exact h
  · exact .ite h.setPart h

theorem Kept.sliceWrite (h : Kept s t) : Kept s (t.sliceWrite p o value) := by
  have ht : Kept s (if (t.boundTo p).any t.hasGroup then t
      else if o = 0 then t.setPr (sliceOfs p 0) (BitVec.ofNat 64 (fld value 0 1 + max 1 (fld value 16 32) * 2 ^ 16))
      else if o = 8 then t.setPr (sliceOfs p 8) value
      else if o = 0x10 then t.setPr (sliceOfs p 0x10) (BitVec.ofNat 64 (min 8 (fld value 0 4))) else t) :=
    .ite h (.ite h.setPr (.ite h.setPr (.ite h.setPr h)))
  refine .ite ht (ht.getD fun u hu => ?_)
  obtain ⟨vf, -, rfl⟩ := Option.map_eq_some_iff.mp hu
  exact ht.beginTurn

theorem Kept.resumeTime (h : Kept s t) : Kept s (t.resumeTime vf) := .ite h h.setPr

theorem Kept.settleResume (h : Kept s t) : Kept s (t.settleResume vf) := .ite h.modVf.beginTurn h

theorem Kept.resumeVf (h : Kept s t) : Kept s (t.resumeVf vf) := .ite h h.resumeTime.modVf.settleResume

theorem Kept.switchTurn (h : Kept s t) : Kept s (t.switchTurn p) := by
  unfold State.switchTurn
  split
  · dsimp only
    split
    · exact .ite h.setPart.resumeVf h.setPart
    · exact h.setPart
  · dsimp only
    split
    · exact h.setPart.resumeVf
    · exact h.setPart

theorem Kept.haltGroup {live : LiveSet} (h : Kept s t) : Kept s (t.haltGroup core slot live) := h.standDown.newId.modGroup

theorem Kept.settleHalt (h : Kept s t) : Kept s (t.settleHalt vf) := by
  refine .ite h ?_
  have hg : Kept s ((t.groupsOf vf).foldl
      (fun s p => if p.2.2.gstate = .halted then s else s.haltGroup p.1 p.2.1 {}) t) :=
    h.foldl fun _ _ hu => .ite hu hu.haltGroup
  dsimp only
  split
  · exact .raise (.modVf (.ite hg hg.setPr))
  · exact .ite (.switchTurn (.raise (.modVf (.ite hg hg.setPr)))) (.raise (.modVf (.ite hg hg.setPr)))

theorem Kept.stopVf {bySlicer : Bool} (h : Kept s t) : Kept s (t.stopVf vf bySlicer) := by
  refine .ite h.modVf ?_
  dsimp only
  split
  · exact h.modVf.wakePart.settleHalt
  · exact h.modVf.settleHalt

/-! Placement, policy and the physical function's registers. -/

theorem Kept.policyTeardown (h : Kept s t) : Kept s (t.policyTeardown p) := .ite h h.setPart

theorem Kept.policySubmit (h : Kept s t) : Kept s (t.policySubmit value) := h.setPart

theorem Kept.plerr {bits : Nat} (h : Kept s t) : Kept s (t.plerr bits) := h.setPr

theorem Kept.vfBind (h : Kept s t) : Kept s (t.vfBind vf value) := .ite h (.ite h.plerr h.setPr.beginTurn)

theorem Kept.settleSplit (h : Kept s t) : Kept s (t.settleSplit core) := .ite h.setCore h

theorem Kept.placeWrite (h : Kept s t) : Kept s (t.placeWrite die o value) := by
  unfold State.placeWrite
  split
  · exact h
  · exact .ite h (.ite h.plerr (.ite h.setPr.settleSplit h.setPr))

theorem Kept.tableWrite (h : Kept s t) : Kept s (t.tableWrite o value) :=
  .ite h.placeWrite <| .ite h.vfBind <| .ite h.setPr <| .ite h.policySubmit <| .ite (.ite h.policyTeardown h) <|
  .ite h.setPr <| .ite (.ite h.stopVf (.ite h.resumeVf h)) <| .ite h.sliceWrite <| .ite h.setPr.settleSlots <|
  .ite h.dirtyWrite <| .ite h.timeWrite <| .ite h.debugWrite <| .ite h.setPr <|
  .ite (.ite h.setPr (.ite h.invalidate2 h)) <| .ite h.latencyConfig <| .ite h.osierWrite h

theorem Kept.vectorWrite (h : Kept s t) : Kept s (t.vectorWrite fn value) := .ite h h.setPr

theorem Kept.quoteRequest (h : Kept s t) : Kept s (t.quoteRequest value) := .ite h (h.same rfl)

theorem Kept.pfWrite (h : Kept s t) : Kept s (t.pfWrite o value) :=
  .ite h <| .ite h.quoteRequest <| .ite h.setPr <| .ite (.ite h.warmStart h) <| .ite h.vectorWrite <| .ite h.tableWrite <|
  .ite h.setPr <| .ite h.pageWrite <| .ite h.setPr.msixSettle h

theorem Kept.noteRead (h : Kept s t) : Kept s t.noteRead := h.same rfl

theorem Kept.latchHigh {path : HostPath} (h : Kept s t) : Kept s (t.latchHigh path vf v) := h.setPr

/-! Samples. -/

theorem Kept.putSample {words : List DWord} (h : Kept s t) : Kept s (t.putSample vf words) := by
  refine .ite h.delay (.ite h ?_)
  split
  · exact h
  · next hu => exact (h.fnWrite hu).setVr

theorem Kept.copySample {whole shown : List DWord} (h : Kept s t) : Kept s (t.copySample vf cls whole shown) := by
  refine .ite h ?_
  split
  · exact h.putSample
  · exact h.owe
  · split
    · next hu => exact (h.coarseDue hu).putSample
    · exact h
  · exact h

theorem Kept.recordSample (h : Kept s t) : Kept s (t.recordSample core slot g) := by
  unfold State.recordSample
  dsimp only [State.free]
  exact h.free.putSample.copySample

theorem Kept.takeSample {act : Nat} (h : Kept s t) : Kept s (t.takeSample core act vf) := by
  unfold State.takeSample
  dsimp only
  split
  · exact .ite h.modCore.recordSample h.modCore
  · exact h.modCore

end

end Sys2Proof.Machine

namespace Sys2Proof.Machine

/-! What every step keeps, continued: workgroups, the matrix engine, cards and copies. -/

section
variable {s t u : State} {core slot vf ctx part pa cls fn wg n i q o p die id act row st len : Nat} {loc : Loc} {c : Ctx}
  {g : Group} {a v value : DWord} {write : Bool}

/-! Workgroups and what a group leaves. -/

theorem Kept.settleSet {set : Nat} (h : Kept s t) : Kept s (t.settleSet set) := by
  unfold State.settleSet
  split
  · exact h
  · exact .ite h (Kept.same (h.foldl fun _ _ hu => hu.modCore.settleSplit) rfl)

theorem Kept.forgetSpad (h : Kept s t) : Kept s (t.forgetSpad core n) := h.clearPoison

theorem Kept.settleWg (h : Kept s t) : Kept s (t.settleWg core n) := by
  unfold State.settleWg
  split
  · exact h
  · refine .ite h (Kept.settleSet ?_)
    split
    · exact h.forgetSpad.modCore
    · exact h.forgetSpad.modCore.same rfl

theorem Kept.modEng {f : Engine → Engine} (h : Kept s t) : Kept s (t.modEng core f) := h.modCore

theorem Kept.releaseGroup (h : Kept s t) : Kept s (t.releaseGroup core slot g) := by
  unfold State.releaseGroup
  refine .settleResume (.settleHalt (.settleSplit (.settleWg (.modCore (.leaveActive (Kept.foldl ?_ ?_))))))
  · exact h.foldl fun _ _ hu => hu.eventFault
  · exact fun _ _ hu => .ite hu.modEng hu

/-! Save areas. -/

theorem Kept.claimSpadRow (h : Kept s t) : Kept s (t.claimSpadRow core n i) := by
  unfold State.claimSpadRow
  split
  · exact h
  · have hf : Kept s ((t.core core).groups.foldl (fun s p => if p.2.wg = n then s.saveFault core p.1 else s) t) :=
      h.foldl fun _ _ hu => .ite hu.saveFault hu
    refine .ite h (.ite hf ?_)
    split
    · next e => exact (h.savePage e).savePut.setWg
    · exact hf
    · exact hf
    · exact h

theorem Kept.claimRow (h : Kept s t) : Kept s (t.claimRow core slot i) := by
  unfold State.claimRow
  split
  · exact h
  · refine .ite h (.ite h.modGroup (.ite h.saveFault ?_))
    dsimp only
    split
    · next e => exact (h.savePage e).writeRow.modGroup
    · exact h.saveFault
    · exact h.saveFault
    · exact h

theorem Kept.restoreTiles (h : Kept s t) : Kept s (t.restoreTiles core slot) := h.modEng

theorem Kept.backFault {va addr level : Nat} {stage2 : Bool} (h : Kept s t) :
    Kept s (t.backFault core slot g va stage2 addr level) := by
  unfold State.backFault
  exact h.walkMarks.pageFault.modGroup

/-! The active set. -/

theorem Kept.enterActive (h : Kept s t) : Kept s (t.enterActive core act slot) := h.modCore.modGroup

theorem Kept.withdraw (h : Kept s t) : Kept s (t.withdraw core slot) := by
  unfold State.withdraw
  split
  · exact h
  · exact h.modGroup

theorem Kept.swapIn (h : Kept s t) : Kept s (t.swapIn core act slot) := by
  unfold State.swapIn
  refine Kept.enterActive (.modCore ?_)
  split
  · exact h
  · exact h.writeBack.modGroup

/-! The matrix engine. -/

theorem Kept.modTile {f : Tile → Tile} (h : Kept s t) : Kept s (t.modTile core n f) := h.modEng

theorem Kept.adrvRun {k : ECmd} {sat : Bool} (h : Kept s t) : Kept s (t.adrvRun core k sat) := by
  unfold State.adrvRun
  dsimp only
  split
  · exact h
  · exact .ite h h.count.setGroup

theorem Kept.engRetire {k : ECmd} {fl : Flags} (h : Kept s t) : Kept s (t.engRetire core k fl) := h.modEng.modGroup

theorem Kept.runMerge {k : ECmd} {run : Run} (h : Kept s t) : Kept s (t.runMerge core k run) := .ite h h.modTile

theorem Kept.drainLand {out : List ByteAt} {ls : List (Nat × Nat × Nat)} (h : Kept s t) :
    Kept s (t.drainLand core id out ls) :=
  Kept.noteWaits (.modEng (Kept.foldl (h.foldl fun _ _ hu => hu.putLoc) fun _ _ hu => hu.dueLine))

theorem Kept.runLoad {k : ECmd} {fb rw : DWord} (h : Kept s t) : Kept s (t.runLoad core k fb rw a) := by
  unfold State.runLoad
  exact h.modTile

theorem Kept.stepOne {k : ECmd} {count : Bool} {fb : DWord} {kappa : Nat} {x : StepIn} (h : Kept s t) :
    Kept s (t.stepOne core k count fb kappa x) := h.modTile

theorem Kept.runSteps {k : ECmd} {count : Bool} {fb b : DWord} {kappa cnt : Nat} {ai bi : Int} (h : Kept s t) :
    Kept s (t.runSteps core k count fb kappa cnt a b ai bi) := h.foldl fun _ _ hu => hu.stepOne

theorem Kept.runStep {k : ECmd} {count : Bool} {l : List Word} {fb b : DWord} {kappa : Nat} (h : Kept s t) :
    Kept s (t.runStep core k count l fb kappa b) := h.stepOne

theorem Kept.engRun {k : ECmd} (h : Kept s t) : Kept s (t.engRun core k).1 := by
  unfold State.engRun
  split
  · exact h.runStep
  · exact h.runSteps
  · exact h.modTile
  · exact h.runLoad
  · exact .ite h.drainLand.modTile h.drainLand
  · exact h
  · exact h.runMerge
  · exact h.modTile
  · exact h.modTile

theorem Kept.modEcmd {f : ECmd → ECmd} (h : Kept s t) : Kept s (t.modEcmd core id f) := h.modEng

theorem Kept.engRead {k : ECmd} {x : Nat × Nat × Nat} (h : Kept s t) : Kept s (t.engRead core k x) := .ite h h.modEcmd

/-! Cards, joins and futures. -/

theorem Kept.holdCard {j : Job} (h : Kept s t) : Kept s (t.holdCard j) := h.newId.setJob

theorem Kept.enterConts (h : Kept s t) : Kept s (t.enterConts vf) := by
  unfold State.enterConts
  dsimp only
  refine .modVf (Kept.foldl_fst (r := (t, [])) h fun r j hr => ?_)
  split
  · exact hr.holdCard
  · exact hr

theorem Kept.refusal {seq code : Nat} (h : Kept s t) : Kept s (t.refusal vf q seq code a) := h.eqKind

theorem Kept.fnRead {b : List Byte} (h : Kept s t) (hu : t.fnRead fn a n = some (b, u)) : Kept s u := by
  unfold State.fnRead at hu
  dsimp only at hu
  split at hu
  · split at hu
    · cases hu
    · obtain ⟨-, rfl⟩ := Prod.mk.inj (Option.some.inj hu)
      exact .ite h.settleFlip.touch.l2Access h.settleFlip.touch
  · cases hu

theorem Kept.readCard {k : Ticket} {held : List Nat} (h : Kept s t) : Kept s (t.readCard vf part q a k held).2 := by
  unfold State.readCard
  split
  · next hu => exact h.fnRead hu
  · exact h.modJq.refusal.noteFences

theorem Kept.readCont {k : Ticket} {held : List Nat} (h : Kept s t) : Kept s (t.readCont vf part q a k held) := by
  refine .ite h.delay ?_
  split
  · next e => exact (h.readCard.of_snd e).modVf.enterConts
  · next e => exact h.readCard.of_snd e

theorem Kept.continuation (h : Kept s t) : Kept s (t.continuation vf part q a) := by
  unfold State.continuation
  exact h.takeTickets.readCont

theorem Kept.joinPut {r : JoinRec} (h : Kept s t) : Kept s (t.joinPut vf n r) :=
  .ite h.modVf.delay (h.modVf.getD fun _ hu => h.modVf.fnWrite hu)

theorem Kept.joinReport (h : Kept s t) : Kept s (t.joinReport vf n i) := by
  unfold State.joinReport
  split
  · exact h
  · exact .ite (.continuation (.ite h.joinPut.modVf h.joinPut)) (.ite h.joinPut.modVf h.joinPut)

theorem Kept.walkJoins {place head : Nat} (h : Kept s t) : Kept s (t.walkJoins vf place n head) := by
  induction n generalizing t head with
  | zero => exact h
  | succ n ih =>
    cases head with
    | zero => exact h
    | succ head =>
      unfold State.walkJoins
      split
      · exact h
      · split
        · exact h.joinReport
        · exact ih h.joinReport

theorem Kept.resolve (h : Kept s t) (hu : t.resolve core part vf a loc v = some u) : Kept s u := by
  unfold State.resolve at hu
  dsimp only at hu
  split at hu
  · cases hu
  · cases hu
    exact .ite h.store.walkJoins h.store

/-! Copies. -/

theorem Kept.copyHold {k : CopyCmd} {st : Bool} {x l : Nat} (h : Kept s t) : Kept s (t.copyHold core k a write st x l) := by
  unfold State.copyHold
  exact h.walkMarks.pageFault.modCopy

theorem Kept.copyRetire {k : CopyCmd} (h : Kept s t) : Kept s (t.copyRetire core k) := by
  unfold State.copyRetire
  exact .ite h.modCore.modGroup h.modCore.modGroup.modCore.modGroup

theorem Kept.copyResolve {k : CopyCmd} (h : Kept s t) : Kept s (t.copyResolve core k) := by
  refine .ite h.copyRetire ?_
  split
  · exact h.copyHold
  · exact h.engineFault.copyRetire
  · refine .ite h (.ite h.engineFault.copyRetire ?_)
    dsimp only
    split
    · next hu => exact (h.touch.resolve hu).copyRetire
    · exact h.touch.engineFault.copyRetire

theorem Kept.sendFrame {k : CopyCmd} {kind : FKind} {key : Nat} {data : List Byte} {lanes : LaneMask} (h : Kept s t) :
    Kept s (t.sendFrame core k kind key a data len lanes) := by
  unfold State.sendFrame
  dsimp only
  split
  · exact h.copyFail
  · have hp : Kept s (if fld a 39 17 = t.devId then (none, t) else t.portFor core k.id (fld a 39 17)).2 := by
      split
      · exact h
      · exact h.portFor
    exact .ite hp.copyFail (.modCopy (hp.newId.same rfl))

/-- What a copy's piece keeps of the state that it is read or written in. -/
def Piece.Keeps (s : State) : Piece → Prop
  | .at _ _ u => Kept s u
  | .wait => True
  | .done u => Kept s u

theorem Kept.pieceAt {k : CopyCmd} (h : Kept s t) : (t.pieceAt core k write row a).Keeps s := by
  unfold State.pieceAt
  split
  · exact h.copyFail
  · exact h.copyHold
  · split
    · trivial
    · split
      · split
        · exact h.copyFail
        · exact h.touch
      · exact h

theorem Kept.readPiece {k : CopyCmd} (h : Kept s t) : Kept s (t.readPiece core k row st len a) := by
  have hp := h.pieceAt (core := core) (k := k) (write := false) (row := row) (a := a)
  refine .ite h (.ite (.ite h h.sendFrame) ?_)
  split
  · exact h
  · next e =>
    rw [e] at hp
    exact hp
  · next e =>
    rw [e] at hp
    have hp : Kept s _ := hp
    refine .ite hp (.ite hp.copyFail (Kept.modCopy ?_))
    split
    · exact .ite hp.l2Access hp
    · exact hp

theorem Kept.writePiece {k : CopyCmd} (h : Kept s t) : Kept s (t.writePiece core k row st len a) := by
  have hp := h.pieceAt (core := core) (k := k) (write := true) (row := row) (a := a)
  refine .ite h ?_
  split
  · exact h
  · refine .ite h (.ite (.ite h h.sendFrame) ?_)
    split
    · exact h
    · next e =>
      rw [e] at hp
      exact hp
    · next e =>
      rw [e] at hp
      have hp : Kept s _ := hp
      exact .ite hp (.ite hp.copyFail hp.store.count.pieceDone)

end

end Sys2Proof.Machine

namespace Sys2Proof.Machine

/-! What every step keeps, continued: the dealer, fetch, landing and draining, and what issue counts. -/

section
variable {s t u : State} {core slot vf ctx part pa cls fn wg n i q o p die id act row st len : Nat} {loc : Loc} {c : Ctx}
  {g : Group} {a v value : DWord} {write : Bool}

/-! The end of a card. -/

theorem Kept.closeWindow {l : Latency} (h : Kept s t) : Kept s (t.closeWindow vf q l) := by
  unfold State.closeWindow
  exact .ite h.modVf h.modVf.eqWrite.pfRecord.raise

theorem Kept.latency {j : Job} (h : Kept s t) : Kept s (t.latency j) := by
  unfold State.latency
  exact .ite h.modVf.closeWindow h.modVf

theorem Kept.dcSet {x : Nat} (h : Kept s t) : Kept s (t.dcSet vf n x) := by
  unfold State.dcSet
  exact .ite h.modVf (.noteFences (.modVf h.modVf.setJobs))

theorem Kept.completeCounter {j : Job} (h : Kept s t) : Kept s (t.completeCounter j) := .ite h (.ite h.eqKind h.dcSet)

theorem Kept.completeFuture {j : Job} (h : Kept s t) : Kept s (t.completeFuture j v) := by
  refine .ite h ?_
  dsimp only
  split
  · exact h.eqKind
  · exact h.eqKind
  · refine .ite h.eqKind ?_
    split
    · next hu => exact h.settleFlip.touch.resolve hu
    · exact h.eqKind
  · exact h

theorem Kept.complete (h : Kept s t) : Kept s (t.complete id) := by
  unfold State.complete
  split
  · exact h
  · next j _ =>
    have hf := (h.completeCounter (j := j)).completeFuture (j := j) (v := j.outcome)
    refine .ite h (.enterConts (.noteFences ?_))
    split
    · exact hf.modJq.setJobsCores
    · exact hf.modJq.latency.setJobsCores

/-! Dealing. -/

theorem Kept.bringSplit {l : List DWord} (h : Kept s t) : Kept s (t.bringSplit core l) := by
  refine .ite h.settleSplit ?_
  split
  · exact h
  · exact h.setPr.settleSplit

theorem Kept.startWg {j : Job} {ch : Chunk} (h : Kept s t) : Kept s (t.startWg core j ch) := by
  unfold State.startWg
  refine .acquire (Kept.foldl (.modJob (Kept.setClsets ?_)) fun _ _ hu => hu.setCore)
  exact h.bringSplit.setWg.clearPoison

theorem Kept.pushChunk {ch : Chunk} (h : Kept s t) : Kept s (t.pushChunk core ch) := h.modCore

theorem Kept.dealTo {set C size : Nat} {l : List Nat} {j : Job} (h : Kept s t) : Kept s (t.dealTo id set C size l j) := by
  induction l generalizing t j with
  | nil => exact h.setJob
  | cons x l ih => exact ih h.pushChunk

theorem Kept.refuse {j : Job} {code : Nat} (h : Kept s t) : Kept s (t.refuse id j code) := h.refusal.setJob.complete

theorem Kept.fnPieces {k : Nat} {b : List Byte} (h : Kept s t) (hu : t.fnPieces fn n k a = some (b, u)) : Kept s u := by
  induction k generalizing t a b with
  | zero =>
    cases hu
    exact h
  | succ k ih =>
    unfold State.fnPieces at hu
    split at hu
    · cases hu
    · next hr =>
      obtain ⟨⟨b', u'⟩, hp, he⟩ := Option.map_eq_some_iff.mp hu
      cases he
      exact ih (h.fnRead hr) hp

theorem Kept.fnReads {k : Nat} {b : List Byte} (h : Kept s t) (hu : t.fnReads fn k a = some (b, u)) : Kept s u := by
  unfold State.fnReads at hu
  split at hu
  · exact h.fnPieces hu
  · exact h.fnPieces hu

theorem Kept.launch {j j' : Job} (h : Kept s t) (hu : t.launch j = .ok (j', u)) : Kept s u := by
  unfold State.launch at hu
  dsimp only at hu
  split at hu
  · cases hu
  · split at hu
    · cases hu
    · next hb =>
      split at hu
      · cases hu
      · split at hu
        · cases hu
        · split at hu
          · cases hu
          · next hk =>
            split at hu
            · cases hu
            · next hp =>
              split at hu
              · cases hu
                exact ((h.fnReads hb).fnReads hk).fnReads hp
              · cases hu

theorem Kept.tryDeal {j : Job} (h : Kept s t) (hu : t.tryDeal id j = some u) : Kept s u := by
  unfold State.tryDeal at hu
  dsimp only at hu
  split at hu
  · cases hu
  · cases hu
    exact h.refuse
  · next j' t' e =>
    have hr : Kept s t' := by
      split at e
      · exact h.launch e
      · cases e
        exact h
    split at hu
    · cases hu
    · cases hu
      exact hr.newId.dealTo

theorem Kept.copyCard {r : RingCards} (h : Kept s t) : Kept s (t.copyCard vf q r) := by
  unfold State.copyCard
  dsimp only
  split
  · next e => exact (h.modJq.readCard.of_snd e).holdCard
  · next e => exact h.modJq.readCard.of_snd e

theorem Kept.parse {j : Job} (h : Kept s t) : Kept s (t.parse id j) := by
  unfold State.parse
  split
  · exact h.refuse
  · refine .ite h.setJob ?_
    split
    · exact h.refuse
    · next hu =>
      have hb := h.fnReads hu
      exact .ite hb.setJob (.ite hb.setJob.noteFences hb.refuse)

/-! Fetch. -/

theorem Kept.demandFetch {good : List DWord → State → State} (h : Kept s t)
    (hg : ∀ ws u, Kept s u → Kept s (good ws u)) : Kept s (t.demandFetch c good) := by
  unfold State.demandFetch
  split
  · next hu => exact hg _ _ (h.icRead hu)
  · exact h.parkPage
  · exact h.fetchFault
  · exact h

theorem Kept.bundleRefetch (h : Kept s t) : Kept s (t.bundleRefetch core slot) := by
  unfold State.bundleRefetch
  split
  · exact h
  · split
    · exact h
    · refine .ite h (h.modCore.demandFetch fun ws u hu => ?_)
      split
      · exact hu
      · exact hu.fetchFault

theorem Kept.icacheFill (h : Kept s t) : Kept s (t.icacheFill core slot v) := by
  unfold State.icacheFill
  split
  · exact h.demandFetch fun _ _ hu => hu
  · split
    · exact h
    · refine .ite ?_ h
      split
      · next hu => exact .ite h (h.icRead hu)
      · exact h
      · exact h
      · exact h

/-! Landing and draining. -/

theorem Kept.landIn {f : Nat → Val} (h : Kept s t) : Kept s (t.landIn core slot id f) := by
  unfold State.landIn
  split
  · exact h
  · exact .setGroup (.ite h h.count)

theorem Kept.atomElem {op : BeatOp} {e : SqElem} (h : Kept s t) : Kept s (t.atomElem op e).1 := by
  unfold State.atomElem
  dsimp only
  split
  · exact h
  · dsimp only
    split
    · exact h.putLoc
    · exact h

theorem Kept.l1Refreshes {l : List Nat} (h : Kept s t) : Kept s (l.foldl (fun s a => s.l1Refresh core ctx a) t) :=
  h.foldl fun _ _ hu => hu.l1Refresh

theorem Kept.performAtomic {b : Beat} (h : Kept s t) : Kept s (t.performAtomic core slot g b id) := by
  have he : Kept s (b.elems.foldl (fun (r : State × List (Nat × Option Nat)) e =>
      ((r.1.atomElem b.op e).1, r.2 ++ [(e.lane, (r.1.atomElem b.op e).2)])) (t, [])).1 :=
    Kept.foldl_fst (r := (t, [])) h fun r e hr => hr.atomElem
  unfold State.performAtomic
  dsimp only
  split
  · exact .acquire (.landIn (.noteWaits (.l1Refreshes (he.foldl fun _ _ hu => hu.l2Access))))
  · exact .landIn (.noteWaits (.l1Refreshes (he.foldl fun _ _ hu => hu.l2Access)))

theorem Kept.storeElems {es : List SqElem} {hint : Nat} (h : Kept s t) : Kept s (t.storeElems core part ctx hint es) := by
  unfold State.storeElems
  refine .noteWaits (Kept.foldl (h.foldl fun u e hu => ?_) fun _ _ hu => hu.l2Access)
  dsimp only
  split
  · exact hu.putLoc.modCore
  · exact hu.putLoc

theorem Kept.drainBeat {b : Beat} (h : Kept s t) : Kept s (t.drainBeat core slot g b) := by
  unfold State.drainBeat
  refine .settleSlots ?_
  split
  · exact h.modGroup.storeElems
  · exact h.modGroup.performAtomic
  · exact h.modGroup.performAtomic

/-- A scalar's write never leaves its state by itself. -/
theorem writeS_ne_out (g : Group) (d : Nat) (x : DWord) (w : State) : writeS g d x ≠ .error (.out w) := by
  unfold writeS
  dsimp only
  split
  · nofun
  · split
    · nofun
    · unfold raise
      nofun

theorem Kept.landScalar {r : PendReq} {x : Option DWord} (h : Kept s t) : Kept s (t.landScalar core slot r n x) := by
  unfold State.landScalar
  dsimp only
  split
  · exact h
  · split
    · exact h.setGroup
    · next e => exact h.setGroup.trap fun u hu => absurd (hu ▸ e) (writeS_ne_out _ _ _ _)

theorem Kept.landLoad {r : PendReq} (h : Kept s t) : Kept s (t.landLoad core slot g r) := by
  have hv (x : State) (hx : Kept s x) : Kept s (match r.acq with
      | some sc => x.acquire core g.vf sc
      | none => x) := by
    split
    · exact hx.acquire
    · exact hx
  unfold State.landLoad
  refine hv _ (.settleSlots ?_)
  split
  · refine .landIn ?_
    split
    · exact h.loadLine
    · exact h
  · refine .landScalar ?_
    split
    · exact h.loadLine
    · exact h
  · split
    · exact h.loadLine
    · exact h

/-! Issue. -/

theorem Kept.countWrites {f : Form} (h : Kept s t) : Kept s (t.countWrites c f g) := .ite h h.count

theorem Kept.askBanks {f : Form} (h : Kept s t) : Kept s (t.askBanks c f) := .ite h h.modGroup.modCore

theorem Kept.countIssue {f : Form} (h : Kept s t) : Kept s (t.countIssue c f) := .ite h h.count.count.count.count.count

theorem Kept.takePipe {f : Form} (h : Kept s t) : Kept s (t.takePipe c f) := by
  unfold State.takePipe
  dsimp only
  split
  · exact h.modCore
  · exact h.modCore
  · exact h

theorem Kept.issues {f : Form} (h : Kept s t) : Kept s (t.issues c f) := .ite h h.askBanks.countIssue.takePipe.modGroup

theorem Kept.issued {f : Form} (h : Kept s t) : Kept s (t.issued c f) := by
  unfold State.issued
  split
  · exact h
  · exact h.setGroup.countWrites.issues.modGroup.stepDone

theorem Kept.heldIssue {f : Form} (h : Kept s t) : Kept s (t.heldIssue c f) := .ite h.issues.modGroup h

end

end Sys2Proof.Machine

namespace Sys2Proof.Machine

/-! What every step keeps, continued: the checks and the reads of an instruction's body. A check that fails leaves the state as
it was, but for the table walks and records that a failing access notes. -/

/-- An answer has P, and a body that ends by itself keeps what s holds. -/
def Ends {α : Type} (s : State) (P : α → Prop) : Except Trap α → Prop
  | .ok a => P a
  | .error t => ∀ u, t = .out u → Kept s u

/-- A check, or a read whose value does not matter here. -/
abbrev Checks {α : Type} (s : State) (x : Except Trap α) : Prop := Ends s (fun _ => True) x

section
variable {α β : Type} {s t u : State} {P Q : α → Prop} {R : β → Prop} {x : Except Trap α} {c : Ctx} {E : LaneMask} {g : Group}

theorem Ends.ok {a : α} (h : P a) : Ends s P (.ok a) := h

theorem Ends.pure {a : α} (h : P a) : Ends s P (Pure.pure a) := h

theorem Ends.out (h : Kept s u) : Ends s P (.error (.out u)) := by
  rintro v ⟨⟩
  exact h

theorem Ends.stall : Ends s P (.error .stall) := nofun

theorem Ends.hold {w : WaitRec} {r : Resume} : Ends s P (.error (.hold w r)) := nofun

theorem Ends.fault {code sub : Nat} {a : DWord} : Ends s P (.error (.fault code sub a E)) := nofun

theorem Ends.faultOpen {code sub : Nat} : Ends s P (.error (.faultOpen code sub E)) := nofun

theorem Ends.raise {code sub : Nat} {a : DWord} : Ends s P (Sys2Proof.Machine.raise code sub a E) := fault

theorem Ends.raiseOpen {code sub : Nat} : Ends s P (Sys2Proof.Machine.raiseOpen code sub E) := faultOpen

/-- What follows a fault does not matter. -/
theorem Ends.raised {code sub : Nat} {a : DWord} {f : β → Except Trap α} :
    Ends s P (Sys2Proof.Machine.raise code sub a E >>= f) := fault

theorem Ends.raisedOpen {code sub : Nat} {f : β → Except Trap α} : Ends s P (Sys2Proof.Machine.raiseOpen code sub E >>= f) :=
  faultOpen

theorem Ends.holdOn {id : Nat} : Ends s P (.error (c.holdOn id)) := by
  unfold Ctx.holdOn
  split
  · split
    · exact stall
    · exact hold
  · exact hold

theorem Ends.ite {p : Prop} [Decidable p] {y : Except Trap α} (hx : Ends s P x) (hy : Ends s P y) :
    Ends s P (if p then x else y) := by
  split
  · exact hx
  · exact hy

theorem Ends.bind {f : α → Except Trap β} (hx : Ends s P x) (hf : ∀ a, P a → Ends s R (f a)) : Ends s R (x >>= f) := by
  cases x with
  | error e => exact hx
  | ok a => exact hf a hx

/-- A check, and what follows it whatever it answers. -/
theorem Ends.seq {f : α → Except Trap β} (hx : Checks s x) (hf : ∀ a, Ends s R (f a)) : Ends s R (x >>= f) :=
  hx.bind fun a _ => hf a

theorem Ends.map {f : α → β} (hx : Ends s P x) (hf : ∀ a, P a → R (f a)) : Ends s R (x.map f) := by
  cases x with
  | error e => exact hx
  | ok a => exact hf a hx

theorem Ends.forM {l : List α} {f : α → Except Trap Unit} (h : ∀ a, Checks s (f a)) : Checks s (l.forM f) := by
  induction l with
  | nil => trivial
  | cons a l ih => exact (h a).seq fun _ => ih

theorem Ends.mapM {l : List α} {f : α → Except Trap β} (h : ∀ a, Checks s (f a)) : Checks s (l.mapM f) := by
  induction l with
  | nil => trivial
  | cons a l ih =>
    rw [List.mapM_cons]
    exact (h a).seq fun _ => ih.seq fun _ => trivial

/-! Checks of the instruction alone. -/

theorem Ends.maskWait : Checks s c.maskWait := by
  unfold Ctx.maskWait
  split
  · exact holdOn
  · trivial

theorem Ends.maskSound : Checks s c.maskSound := by
  unfold Ctx.maskSound
  split
  · exact raise
  · trivial

theorem Ends.maskReady : Checks s c.maskReady := maskWait.seq fun _ => maskSound

theorem Ends.allDone : Checks s c.allDone := .ite trivial stall

theorem Ends.nextPc : Checks s c.nextPc := by
  unfold Ctx.nextPc
  split
  · trivial
  · exact faultOpen

theorem Ends.need {o : Opnd} : Checks s (c.need E o) := by
  cases o with
  | val => trivial
  | wait => exact holdOn
  | bad => exact raise

theorem Ends.readS {n : Nat} : Checks s (c.readS n) := need

theorem Ends.freeS {n : Nat} : Checks s (c.freeS n) := by
  unfold Ctx.freeS
  split
  · exact holdOn
  · trivial

theorem Ends.noQueued {loc : Loc} {n : Nat} : Checks s (c.noQueued loc n) := .ite stall trivial

theorem Ends.loadsDone : Checks s c.loadsDone := .ite trivial stall

theorem Ends.quiet : Checks s c.quiet := .ite trivial stall

theorem Ends.readLanes {f : Fin 96 → Opnd} : Checks s (c.readLanes E f) := by
  unfold Ctx.readLanes
  split
  · exact holdOn
  · dsimp only
    split
    · exact raise
    · trivial

theorem Ends.nameFloor {v : VName} {n : Nat} : Checks s (c.nameFloor E v n) := by
  unfold Ctx.nameFloor
  split
  · exact .ite trivial raise
  · trivial

theorem Ends.nameRange {v : VName} {n : Nat} : Checks s (c.nameRange E v n) := by
  unfold Ctx.nameRange
  split
  · exact .ite raise trivial
  · exact .ite raise trivial
  · trivial

theorem Ends.checkNames {l : List (VName × Nat)} : Checks s (c.checkNames E l) :=
  (forM fun _ => nameRange).seq fun _ => maskSound.seq fun _ => forM fun _ => nameFloor

theorem Ends.sources {wgid : Nat} {f : VOps} {r : Use × Use × Use} : Checks s (c.sources wgid E f r) :=
  checkNames.seq fun _ => (Ends.ite readLanes (ok trivial)).seq fun _ => (Ends.ite readLanes (ok trivial)).seq fun _ =>
    (Ends.ite readLanes (ok trivial)).seq fun _ => trivial

theorem Ends.ssources {wgid op : Nat} {f : SOps} : Checks s (c.ssources wgid op f) :=
  (Ends.ite need (ok trivial)).seq fun _ => (Ends.ite need (ok trivial)).seq fun _ => (Ends.ite need (ok trivial)).seq fun _ => trivial

theorem Ends.writeS {d : Nat} {v : DWord} : Checks s (writeS g d v) := .ite trivial (.ite trivial raise)

theorem Ends.notInHandler {w : DWord} : Checks s (c.notInHandler E w) := .ite raise trivial

theorem Ends.framePending {n : Nat} : Checks s (c.framePending E n) := by
  unfold Ctx.framePending
  split
  · exact holdOn
  · trivial

theorem Ends.flagsIn : Checks s c.flagsIn := .ite stall trivial

theorem Ends.target {a : DWord} : Checks s (Ctx.target E a) := .ite trivial raiseOpen

theorem Ends.readAges {n : Nat} : Checks s (c.readAges E n) := mapM fun _ => readLanes

theorem Ends.floorN {n : Nat} : Checks s (c.floorN E n) := .ite trivial raise

theorem Ends.callChecks : Checks s (c.callChecks E) := .ite raisedOpen (.ite raiseOpen trivial)

theorem Ends.room {n : Nat} : Checks s (g.room n) := .ite stall trivial

theorem Ends.closed {n : Nat} : Checks s (c.closed E n) := .ite faultOpen trivial

theorem Ends.fragment {v : VName} : Checks s (c.fragment E v) := (mapM fun _ => readLanes).seq fun _ => trivial

theorem Ends.addresses {wgid scale size nd : Nat} {f : MOps} : Checks s (c.addresses wgid E f scale size nd) := by
  refine checkNames.seq fun _ => ?_
  dsimp only
  split
  · exact readLanes.seq fun _ => trivial
  · exact readS.seq fun _ => readLanes.seq fun _ => trivial

theorem Ends.casData {wgid : Nat} {f : MOps} {wide : Bool} : Checks s (c.casData wgid E f wide) :=
  .ite (readLanes.seq fun _ => readLanes.seq fun _ => readLanes.seq fun _ => readLanes.seq fun _ => trivial)
    (readLanes.seq fun _ => trivial)

/-! Checks against the state. -/

theorem Ends.addrForm {w : Want} {a : DWord} {other : Nat × Nat → Nat × Nat} : Checks s (t.addrForm c E w a other) := by
  unfold State.addrForm
  split
  · exact .ite fault trivial
  · trivial

theorem Ends.pageTrap {acc addr level : Nat} {va : DWord} {st : Bool} (h : Kept s t) :
    Ends s P (.error (c.pageTrap t acc va st addr level)) := out h.parkPage

theorem Ends.failAt {rk code sub : Nat} {a : DWord} (h : Kept s t) : Ends s P (.error (t.failAt c rk code sub a E)) := by
  unfold State.failAt
  split
  · exact out h.walkMarks.precise
  · exact fault

theorem Ends.judge {write : Bool} {l : List (Nat × DWord × Chk)} (h : Kept s t) : Checks s (t.judge c write l) := by
  unfold State.judge
  dsimp only
  split
  · trivial
  · split
    · trivial
    · exact failAt (.ite (h.foldl fun _ _ hu => hu.walkMarks) h)
    · refine pageTrap (Kept.foldl (.ite (h.foldl fun _ _ hu => hu.walkMarks) h) fun u p hu => ?_)
      split
      · exact hu.pageFault
      · exact hu

theorem Ends.noFlip {l : List LaneAt} : Checks s (t.noFlip l) := .ite stall trivial

theorem Ends.place {w : Want} {a : DWord} {other : Nat × Nat → Nat × Nat} {reads : Bool} (h : Kept s t) :
    Ends s (fun p => Kept s p.2) (t.place c E w a other reads) := by
  unfold State.place
  split
  · exact failAt h
  · exact pageTrap h
  · refine .ite stall (.ite fault ?_)
    split
    · exact ok (.ite h.touch.loadLine h.touch)
    · exact ok h

theorem Ends.placeAll {w : Want} {other : Nat × Nat → Nat × Nat} {l : List DWord} (h : Kept s t) :
    Ends s (fun p => Kept s p.2) (t.placeAll c E w other l) := by
  induction l generalizing t with
  | nil => exact h
  | cons a l ih => exact (place h).bind fun p hp => (ih hp).bind fun q hq => hq

theorem Ends.presence {loc : Loc} {a : DWord} : Checks s (t.presence loc a) := .ite hold trivial

theorem Ends.landing {a : DWord} (h : Kept s t) : Ends s (Kept s) (c.landing t E a) := by
  refine target.seq fun _ => .ite raise ?_
  split
  · exact pageTrap h
  · exact raise
  · exact stall
  · next hf => exact .ite (ok (h.fetchBundle hf)) (out (h.fetchBundle hf).precise)

/-! Checks of the matrix engine and of copies. -/

theorem Ends.engRoom : Checks s (t.engRoom c) := .ite trivial stall

theorem Ends.inMode {n : Nat} {l : List TMode} : Checks s (t.inMode c E n l) := .ite trivial faultOpen

theorem Ends.owned {n : Nat} : Checks s (t.owned c E n) := by
  unfold State.owned
  split
  · exact faultOpen
  · exact .ite trivial faultOpen

theorem Ends.hasBaton : Checks s (t.hasBaton c E) := .ite trivial faultOpen

theorem Ends.countTile {n : Nat} : Checks s (t.countTile c E n) := owned.seq fun _ => inMode.seq fun _ => .ite raiseOpen trivial

theorem Ends.engRange {a : DWord} {d : Int} {n : Nat} : Checks s (t.engRange c E a d n) := by
  unfold State.engRange
  dsimp only
  split
  · exact faultOpen
  · exact .ite faultOpen trivial

theorem Ends.engRanges {l : List Stretch} : Checks s (t.engRanges c E l) := forM fun _ => engRange

theorem Ends.engAlign {a : DWord} {n : Nat} {l : List Int} : Checks s (engAlign E a n l) := .ite raiseOpen trivial

theorem Ends.regionAlign {mode : TMode} {el : Elem} {a : DWord} {r : Region} : Checks s (regionAlign E mode el a r) := engAlign

theorem Ends.engSpace {a : DWord} : Checks s (engSpace E a) := .ite raiseOpen (.ite raiseOpen trivial)

theorem Ends.stepSpaces {a b : DWord} {ai bi : Int} {n : Nat} : Checks s (stepSpaces E a b ai bi n) :=
  forM fun _ => engSpace.seq fun _ => engSpace

theorem Ends.settleTile {n : Nat} {fb : DWord} {fs : List Elem} : Checks s (t.settleTile c E n fb fs) := by
  unfold State.settleTile
  dsimp only
  split
  · exact faultOpen
  · trivial

theorem Ends.countChecks {n k : Nat} {fb : DWord} : Checks s (t.countChecks c E n fb k) := by
  refine hasBaton.seq fun _ => owned.seq fun _ => inMode.seq fun _ => .ite raisedOpen ?_
  dsimp only
  split
  · exact raisedOpen
  · refine Ends.seq (ok trivial) fun _ => settleTile.seq fun r => ?_
    split
    · exact raised
    · refine Ends.seq (ok trivial) fun _ => ?_
      split
      · exact raiseOpen
      · trivial

theorem Ends.latchCheck {f : EOps} : Checks s (t.latchCheck c E f) := by
  refine .ite trivial ?_
  split
  · exact faultOpen
  · trivial
  · exact .ite trivial faultOpen
  · exact faultOpen

theorem Ends.copyChecks {kind cnt n : Nat} {src dst k0 k1 k2 : DWord} :
    Checks s (t.copyChecks c E kind cnt n src dst k0 k1 k2) := by
  unfold State.copyChecks
  dsimp only
  split
  · exact raisedOpen
  · refine Ends.seq (ok trivial) fun _ => ?_
    split
    · exact raisedOpen
    · refine Ends.seq (ok trivial) fun _ => .ite raisedOpen (.ite raisedOpen (.ite raisedOpen (.ite raisedOpen (.ite raisedOpen ?_))))
      split
      · refine .ite raisedOpen ?_
        split
        · exact .ite raisedOpen (.ite raisedOpen (.ite raiseOpen trivial))
        · exact Ends.seq (ok trivial) fun _ => .ite raisedOpen (.ite raiseOpen trivial)
      · refine Ends.seq (ok trivial) fun _ => ?_
        split
        · exact .ite raisedOpen (.ite raisedOpen (.ite raiseOpen trivial))
        · exact Ends.seq (ok trivial) fun _ => .ite raisedOpen (.ite raiseOpen trivial)

end

end Sys2Proof.Machine

namespace Sys2Proof.Machine

/-! What every step keeps, continued: the instructions that stay in their group, and how a body's end is the instruction's. -/

/-- A next state keeps what s holds. -/
def Leads (s : State) (o : Host.Outcome State Fault Refusal) : Prop := ∀ t, o = .next t → Kept s t

section
variable {s t u : State} {c : Ctx} {E : LaneMask} {g : Group} {wgid op : Nat}

theorem Leads.next (h : Kept s t) : Leads s (.next t) := by
  rintro u ⟨⟩
  exact h

theorem Leads.instr {i : Form} {body : Ctx → State → Except Trap State} (h : ∀ c, Ends s (Kept s) (body c s)) :
    Leads s (instr i body s) := by
  intro t ht
  obtain ⟨-, e⟩ | ⟨-, -, e⟩ | ⟨c, x, -, -, hb, e⟩ | ⟨c, u, -, -, -, -, e⟩ | ⟨c, u, pc, -, -, hb, -, e⟩ := instr_cases i body s
  · rw [e] at ht
    cases ht
  · rw [e] at ht
    cases ht
  · rw [e] at ht
    cases ht
    have hx := h c
    rw [hb] at hx
    exact ((Kept.refl s).trap hx).heldIssue
  · rw [e] at ht
    cases ht
    exact (Kept.refl s).preciseOpen
  · rw [e] at ht
    cases ht
    have hu := h c
    rw [hb] at hu
    exact (Kept.modGroup hu).issued

theorem Leads.jumpInstr {i : Form} {body : Ctx → State → Except Trap State} (h : ∀ c, Ends s (Kept s) (body c s)) :
    Leads s (jumpInstr i body s) := by
  intro t ht
  unfold Machine.jumpInstr at ht
  split at ht
  · cases ht
  · split at ht
    · cases ht
    · next c _ =>
      have hb := h c
      split at ht
      · next e =>
        cases ht
        rw [e] at hb
        exact ((Kept.refl s).trap hb).heldIssue
      · next e =>
        cases ht
        rw [e] at hb
        exact Kept.issued hb

/-- An instruction that changes its own group alone. -/
theorem Leads.group {i : Form} {body : Ctx → State → Except Trap Group} (h : ∀ c, Checks s (body c s)) :
    Leads s (Machine.instr i (fun c s => (body c s).map fun g => s.setGroup c.core c.slot g) s) :=
  .instr fun c => (h c).map fun _ _ => (Kept.refl s).setGroup

theorem Leads.local_ {i : Form} {body : Ctx → Except Trap Group} (h : ∀ c, Checks s (body c)) :
    Leads s (localInstr i body s) := .group (body := fun c _ => body c) h

theorem Ends.vecBody {f : VOps} {fn : VOps → LaneIn → LaneOut} : Checks s (vecBody op f fn wgid c) :=
  maskWait.seq fun _ => sources.seq fun _ => trivial

theorem Ends.exchBody {f : VOps} {fn : Ctx → LaneMask → Vector DWord 96 → Vector DWord 96 → Fin 96 → LaneOut} :
    Checks s (exchBody op f wgid fn c) := maskWait.seq fun _ => sources.seq fun _ => trivial

theorem Ends.scalarBody {f : SOps} {fn : Ctx → DWord → DWord → DWord → DWord} : Checks s (scalarBody op f fn wgid c) :=
  maskReady.seq fun _ => .ite trivial (ssources.seq fun _ => freeS.seq fun _ => writeS)

theorem Ends.smoviBody {f : SmoviOps} : Checks s (smoviBody f c) :=
  maskReady.seq fun _ => .ite trivial (freeS.seq fun _ => writeS.seq fun _ => trivial)

theorem Ends.scmpBody {f : SOps} : Checks s (scmpBody f wgid c) :=
  maskReady.seq fun _ => .ite trivial (ssources.seq fun _ => freeS.seq fun _ => writeS)

theorem Ends.wrlaneBody {f : VOps} : Checks s (wrlaneBody f wgid c) :=
  maskWait.seq fun _ => sources.seq fun _ => framePending.seq fun _ => trivial

theorem Ends.p2vBody {f : VOps} : Checks s (p2vBody f c) := maskReady.seq fun _ => trivial

theorem Ends.plopBody {f : PlopOps} : Checks s (plopBody f c) := maskReady.seq fun _ => trivial

theorem Ends.frameBody {f : VOps} : Checks s (frameBody f c) :=
  maskReady.seq fun _ => .ite trivial (need.seq fun _ => .ite raisedOpen (.ite raisedOpen (.ite raisedOpen trivial)))

theorem Ends.savemBody {f : VOps} : Checks s (savemBody f c) := by
  refine maskWait.seq fun _ => checkNames.seq fun _ => ?_
  split
  · exact (mapM fun _ => framePending).seq fun _ => (mapM fun _ => readLanes).seq fun _ => trivial
  · trivial

theorem Ends.saveBody {f : VOps} : Checks s (saveBody f wgid c) :=
  maskWait.seq fun _ => sources.seq fun _ => (mapM fun _ => framePending).seq fun _ => trivial

theorem Leads.vec (f : VOps) (fn : VOps → LaneIn → LaneOut) : Leads s (vecInstr op f fn s) := .group fun _ => .vecBody

theorem Leads.exch (f : VOps) (fn : Ctx → LaneMask → Vector DWord 96 → Vector DWord 96 → Fin 96 → LaneOut) :
    Leads s (exchInstr op f fn s) := .group fun _ => .exchBody

theorem Leads.scalar (f : SOps) (fn : Ctx → DWord → DWord → DWord → DWord) : Leads s (scalarInstr op f fn s) :=
  .group fun _ => .scalarBody

theorem execNop_keeps (f : BOps) (s : State) : Leads s (execNop f s) := .local_ fun _ => Ends.ok trivial

theorem execSavem_keeps (f : VOps) (s : State) : Leads s (execSavem f s) := .local_ fun _ => .savemBody

theorem execFrame_keeps (f : VOps) (s : State) : Leads s (execFrame f s) := .local_ fun _ => .frameBody

theorem execPlop_keeps (f : PlopOps) (s : State) : Leads s (execPlop f s) := .local_ fun _ => .plopBody

theorem execP2v_keeps (f : VOps) (s : State) : Leads s (execP2v f s) := .local_ fun _ => .p2vBody

theorem execSmovi_keeps (f : SmoviOps) (s : State) : Leads s (execSmovi f s) :=
  .local_ fun _ => .smoviBody

theorem execFlags_keeps (f : VOps) (s : State) : Leads s (execFlags f s) :=
  .local_ fun _ => Ends.maskReady.seq fun _ => .ite trivial (Ends.allDone.seq fun _ => trivial)

theorem execFlclr_keeps (f : VOps) (s : State) : Leads s (execFlclr f s) :=
  .local_ fun _ => Ends.maskReady.seq fun _ => .ite trivial (Ends.allDone.seq fun _ => trivial)

theorem execSave_keeps (f : VOps) (s : State) : Leads s (execSave f s) := .group fun _ => .saveBody

theorem execWrlane_keeps (f : VOps) (s : State) : Leads s (execWrlane f s) := .group fun _ => .wrlaneBody

theorem execScmp_keeps (f : SOps) (s : State) : Leads s (execScmp f s) := .group fun _ => .scmpBody

/-! Instructions that name their own next place. -/

theorem Ends.step (h : Kept s t) : Ends s (Kept s) (c.step t g) := nextPc.seq fun _ => ok h.setGroup

theorem execBr_keeps (f : BOps) (s : State) : Leads s (execBr f s) :=
  have h := Kept.refl s
  .jumpInstr fun _ => Ends.maskReady.seq fun _ => .ite (.step h) (.ite (.step h) (.ite .raiseOpen
    (Ends.target.seq fun _ => .pure h.setGroup)))

theorem execBrc_keeps (f : BOps) (s : State) : Leads s (execBrc f s) := by
  have h := Kept.refl s
  refine .jumpInstr fun _ => Ends.maskReady.seq fun _ => .ite (.step h) (.ite .raiseOpen ?_)
  dsimp only
  split
  · refine Ends.nextPc.seq fun _ => ?_
    split
    · exact .pure h.setGroup
    · exact .pure h.setGroup
  · refine Ends.target.seq fun _ => .ite (.pure h.setGroup) (Ends.nextPc.seq fun _ => ?_)
    split
    · exact .pure h.setGroup
    · exact .pure h.setGroup

theorem execJmpi_keeps (f : BIOps) (s : State) : Leads s (execJmpi f s) :=
  have h := Kept.refl s
  .jumpInstr fun _ => Ends.maskReady.seq fun _ => .ite (.step h) (Ends.readS.seq fun _ => (Ends.landing h).bind fun _ hu =>
    .pure hu.modGroup)

theorem execBrk_keeps (f : BOps) (s : State) : Leads s (execBrk f s) := by
  have h := Kept.refl s
  refine .jumpInstr fun _ => Ends.maskReady.seq fun _ => .ite (.step h) ?_
  split
  · exact .raiseOpen
  · exact .ite (.pure h.goOn) (.step h)

theorem execYldp_keeps (f : BOps) (s : State) : Leads s (execYldp f s) := by
  have h := Kept.refl s
  refine .jumpInstr fun _ => Ends.maskReady.seq fun _ => ?_
  dsimp only
  split
  · exact .step h
  · refine .ite (.step h) (Ends.nextPc.seq fun _ => ?_)
    split
    · exact .pure h.setGroup
    · exact .step h

theorem Kept.arith (h : Kept s t) (hu : c.arith E t = some u) : Kept s u := by
  unfold Ctx.arith at hu
  dsimp only at hu
  split at hu
  · cases hu
  · cases hu
    exact h.setGroup.precise

theorem execExit_keeps (f : BOps) (s : State) : Leads s (execExit f s) := by
  have h := Kept.refl s
  refine .jumpInstr fun _ => Ends.maskReady.seq fun _ => .ite (.step h) (Ends.notInHandler.seq fun _ => Ends.flagsIn.seq fun _ => ?_)
  split
  · next hu => exact .out (h.arith hu)
  · exact .ite (.pure h.goOn) (.step h)

theorem execCall_keeps (f : BOps) (s : State) : Leads s (execCall f s) :=
  have h := Kept.refl s
  .jumpInstr fun _ => Ends.maskReady.seq fun _ => .ite (.step h) (Ends.floorN.seq fun _ => Ends.readAges.seq fun _ =>
    Ends.callChecks.seq fun _ => Ends.target.seq fun _ => .pure h.setGroup)

theorem execCalli_keeps (f : BIOps) (s : State) : Leads s (execCalli f s) := by
  have h := Kept.refl s
  refine .jumpInstr fun c => Ends.maskReady.seq fun _ => .ite (.step h) (Ends.floorN.seq fun _ => Ends.readAges.seq fun _ =>
    Ends.readS.seq fun _ => (Ends.landing h).bind fun v hv => ?_)
  have hc := Ends.callChecks (s := s) (c := c) (E := c.g.exec f.g1 f.g2)
  split
  · next e =>
    rw [e] at hc
    exact .out (hv.trap hc)
  · exact .pure hv.setGroup

theorem execRet_keeps (f : BOps) (s : State) : Leads s (execRet f s) := by
  have h := Kept.refl s
  refine .jumpInstr fun _ => Ends.maskReady.seq fun _ => Ends.floorN.seq fun _ => Ends.readAges.seq fun _ => ?_
  split
  · exact .raiseOpen
  · exact .raiseOpen
  · exact .ite .raiseOpen (Ends.target.seq fun _ => .pure h.setGroup)

theorem execTrap_keeps (f : TOps) (s : State) : Leads s (execTrap f s) :=
  have h := Kept.refl s
  .jumpInstr fun _ => Ends.maskReady.seq fun _ => .ite (.step h) (.pure h.deliver)

theorem execBpt_keeps (f : TOps) (s : State) : Leads s (execBpt f s) :=
  have h := Kept.refl s
  .jumpInstr fun _ => Ends.maskReady.seq fun _ => .ite (.step h) (.ite ((Ends.step h).bind fun _ hu => .pure hu.debugStop)
    (.pure h.deliver))

theorem execTret_keeps (f : TOps) (s : State) : Leads s (execTret f s) :=
  have h := Kept.refl s
  .jumpInstr fun _ => Ends.maskReady.seq fun _ => .ite .raised (.ite .raised (.ite .raised (.ite (.pure h.terminate)
    (.pure h.modGroup))))

end

end Sys2Proof.Machine

namespace Sys2Proof.Machine

/-! What every step keeps, continued: the instructions of memory, of exchange and of synchronisation. -/

section
variable {s t u : State} {c : Ctx} {E : LaneMask} {g : Group} {core slot part vf wg n h j : Nat} {va v : DWord} {loc : Loc}
  {i : Form}

theorem Kept.withGroup {f : Group → Group} (k : Kept s t) : Kept s (t.withGroup c f) := k.modGroup

theorem Kept.putS {d : Nat} (k : Kept s t) : Kept s (t.putS c d v) := k.withGroup

theorem Kept.park {w : WaitRec} {r : Resume} (k : Kept s t) : Kept s (t.park c i w r) := k.modGroup.issued

theorem Kept.pushVals {f : Fin 96 → List Val} (k : Kept s t) : Kept s (t.pushVals c E f) := k.modGroup

theorem Kept.touchAll {write : Bool} {l : List LaneAt} (k : Kept s t) : Kept s (t.touchAll c write l) := by
  refine k.foldl fun u p hu => ?_
  split
  · exact hu.touch
  · exact hu

theorem Kept.enqueue {l : List Beat} (k : Kept s t) : Kept s (t.enqueue c l) := k.modGroup

theorem Kept.sendReq {q : PendReq} (k : Kept s t) : Kept s (t.sendReq core slot q) := k.modGroup.settleSlots

theorem Kept.lookup {via : Via} {hit : Bool} (k : Kept s t) : Kept s (t.lookup c via loc hit) := by
  unfold State.lookup
  split
  · exact k.count
  · exact k

theorem Kept.queueAtomic {mk : Nat → BeatOp} {order : BitVec 2} {sc : Scope} {es : List SqElem} {vas : Nat → DWord}
    (k : Kept s t) : Kept s (t.queueAtomic c mk order sc es vas).1 := by
  unfold State.queueAtomic
  exact Kept.foldl_fst (r := (t, _)) k fun r b hr => hr.newId.modGroup

theorem Kept.issueLoad {size hint : Nat} {sext line : Bool} {acq : Option Scope} {l : List LaneAt} (k : Kept s t) :
    Kept s (t.issueLoad c size sext line acq hint l).1 := by
  unfold State.issueLoad
  dsimp only
  generalize hq : List.foldl _ _ _ = q
  have hk : Kept s q.1 := by
    rw [← hq]
    refine Kept.foldl_fst k.touchAll fun r mine hr => ?_
    split
    · exact hr
    · split
      · exact hr.lookup.loadLine
      · exact hr.lookup.newId.sendReq
  split
  · exact hk.acquire
  · exact hk

/-! Exchange of two groups. -/

theorem Kept.setXslot {x : XSlot} (k : Kept s t) : Kept s (t.setXslot core wg n x) := k.modWg

theorem Kept.waitSlot {kind : Nat} {x : XSlot} {r : Resume} (k : Kept s t) : Kept s (t.waitSlot c i n kind x r) :=
  k.setXslot.modGroup.issued

theorem Kept.stopParked (k : Kept s t) : Kept s (t.stopParked core slot g) := .ite k.haltGroup k

theorem Ends.meet {partner : Nat} {vs : Option (List Word)} (k : Kept s t) : Ends s (Kept s) (t.meet c n partner E vs) := by
  unfold State.meet
  split
  · exact stall
  · split
    · exact stall
    · dsimp only
      refine .ite ?_ ?_
      · refine out (Kept.precise ?_)
        split
        · exact k.setXslot.stopParked.precise
        · exact k.setXslot.stopParked
      · split
        · exact ok k.setXslot.stopParked.goNextWith
        · exact ok k.setXslot.stopParked.goNextWith.modGroup

theorem execRjn_keeps (f : VOps) (s : State) : Leads s (execRjn f s) := by
  refine .instr fun c => Ends.maskWait.seq fun _ => .ite .raised (Ends.maskSound.seq fun _ => .ite .raisedOpen ?_)
  dsimp only
  split
  · split
    · exact .raise
    · exact (Ends.mapM fun _ => Ends.readLanes).seq fun _ => .pure (Kept.refl s).setGroup
  · exact .raiseOpen

theorem execXsend_keeps (f : VOps) (s : State) : Leads s (execXsend f s) := by
  have h := Kept.refl s
  refine .instr fun c => Ends.maskWait.seq fun _ => Ends.sources.seq fun _ => Ends.notInHandler.seq fun _ =>
    .ite .raised (Ends.nextPc.seq fun _ => ?_)
  dsimp only
  split
  · exact .raise
  · exact Ends.quiet.seq fun _ => .meet h
  · exact Ends.quiet.seq fun _ => .out h.waitSlot

theorem execXrecv_keeps (f : VOps) (s : State) : Leads s (execXrecv f s) := by
  have h := Kept.refl s
  refine .instr fun c => Ends.maskReady.seq fun _ => Ends.notInHandler.seq fun _ =>
    .ite .raised (Ends.nextPc.seq fun _ => ?_)
  split
  · exact .raise
  · exact .meet h
  · exact .out h.waitSlot

/-! Memory. -/

theorem execSld_keeps (f : SOps) (s : State) : Leads s (execSld f s) := by
  have h := Kept.refl s
  refine .instr fun c => Ends.maskReady.seq fun _ => .ite (.pure h) (Ends.ssources.seq fun _ => Ends.freeS.seq fun _ => ?_)
  dsimp only
  split
  · exact .failAt h
  · exact .pageTrap h
  · refine Ends.noFlip.seq fun _ => .ite .stall (.ite (Ends.writeS.seq fun _ => .pure ?_)
      (.pure h.touchAll.lookup.newId.sendReq.modGroup))
    split
    · exact h.touchAll.lookup.loadLine.setGroup.acquire
    · exact h.touchAll.lookup.loadLine.setGroup

theorem execSst_keeps (f : SOps) (s : State) : Leads s (execSst f s) := by
  have h := Kept.refl s
  refine .instr fun c => Ends.maskReady.seq fun _ => .ite (.pure h) (Ends.ssources.seq fun _ => ?_)
  dsimp only
  split
  · exact .failAt h
  · exact .pageTrap h
  · exact Ends.noFlip.seq fun _ => Ends.room.seq fun _ => .pure h.newId.touchAll.enqueue

theorem execLd_keeps (f : MOps) (s : State) : Leads s (execLd f s) := by
  have h := Kept.refl s
  exact .instr fun c => Ends.maskWait.seq fun _ => Ends.addresses.seq fun _ => (Ends.judge h).seq fun _ =>
    Ends.noFlip.seq fun _ => .ite .stall (Ends.readLanes.seq fun _ => .pure h.count.issueLoad.pushVals)

theorem execSt_keeps (f : MOps) (s : State) : Leads s (execSt f s) := by
  have h := Kept.refl s
  refine .instr fun c => Ends.maskWait.seq fun _ => Ends.addresses.seq fun _ => Ends.readLanes.seq fun _ =>
    (Ends.judge h).seq fun _ => Ends.noFlip.seq fun _ => Ends.room.seq fun _ => ?_
  dsimp only
  split
  · exact .holdOn
  · exact .pure h.newId.touchAll.enqueue.modGroup.count

theorem execLdl_keeps (f : MOps) (s : State) : Leads s (execLdl f s) := by
  have h := Kept.refl s
  exact .instr fun c => Ends.maskWait.seq fun _ => Ends.addresses.seq fun _ => (Ends.judge h).seq fun _ =>
    Ends.noFlip.seq fun _ => .ite .stall (.pure h.issueLoad.pushVals)

theorem execStl_keeps (f : MOps) (s : State) : Leads s (execStl f s) := by
  have h := Kept.refl s
  exact .instr fun c => Ends.maskWait.seq fun _ => Ends.addresses.seq fun _ => Ends.readLanes.seq fun _ =>
    (Ends.judge h).seq fun _ => Ends.noFlip.seq fun _ => Ends.room.seq fun _ => .pure h.newId.touchAll.enqueue

theorem execAtom_keeps (f : MOps) (s : State) : Leads s (execAtom f s) := by
  have h := Kept.refl s
  refine .instr fun c => Ends.maskWait.seq fun _ => Ends.addresses.seq fun _ => Ends.readLanes.seq fun _ =>
    (Ends.judge h).seq fun _ => Ends.noFlip.seq fun _ => Ends.room.seq fun _ => ?_
  dsimp only
  exact .pure (Kept.pushVals (Kept.queueAtomic h.touchAll))

theorem execAcas_keeps (f : MOps) (s : State) : Leads s (execAcas f s) := by
  have h := Kept.refl s
  refine .instr fun c => Ends.maskWait.seq fun _ => Ends.addresses.seq fun _ => Ends.casData.seq fun _ =>
    (Ends.judge h).seq fun _ => Ends.noFlip.seq fun _ => Ends.room.seq fun _ => ?_
  dsimp only
  exact .pure (Kept.pushVals (Kept.queueAtomic h.touchAll.touchAll))

theorem execFence_keeps (f : MOps) (s : State) : Leads s (execFence f s) := by
  have h := Kept.refl s
  exact .instr fun c => Ends.maskReady.seq fun _ => .ite (.pure h) (.ite .stall (.pure (.ite h.acquire h)))

theorem execPref_keeps (f : MOps) (s : State) : Leads s (execPref f s) := by
  have h := Kept.refl s
  exact .instr fun c => Ends.maskWait.seq fun _ => Ends.addresses.seq fun _ =>
    .pure (h.foldl fun _ _ hu => .ite hu.prefetch hu.queueWalk)

theorem execSpres_keeps (f : MOps) (s : State) : Leads s (execSpres f s) := by
  have h := Kept.refl s
  exact .instr fun c => Ends.maskWait.seq fun _ => Ends.addresses.seq fun _ => (Ends.judge h).seq fun _ => .pure h.pushVals

theorem execInvl_keeps (f : MOps) (s : State) : Leads s (execInvl f s) := by
  have h := Kept.refl s
  exact .instr fun c => Ends.maskWait.seq fun _ => Ends.addresses.seq fun _ => .ite (.pure h) (.pure h.modCore)

/-! Copies, timelines, barriers and phases. -/

theorem Ends.copyBody {op kind : Nat} {f : EOps} : Ends s (Kept s) (copyBody op kind f c s) := by
  have h := Kept.refl s
  unfold Machine.copyBody
  refine maskWait.seq fun _ => ?_
  extract_lets E k0 k1 k2 jp
  have hj : ∀ v, Ends s (Kept s) (jp v) := by
    intro v
    refine .ite (.pure h) (readS.seq fun _ => readS.seq fun _ => .ite .raised (copyChecks.seq fun _ => quiet.seq fun _ => ?_))
    dsimp only
    split
    · exact stall
    · exact pure (.withGroup (.modCore (h.newId.foldl fun _ _ hu => hu.dueLine)))
  exact .ite ((maskSound.map fun _ _ => trivial).seq hj) (checkNames.seq fun _ => readLanes.seq hj)

theorem execCmt_keeps (f : TOps) (s : State) : Leads s (execCmt f s) :=
  have h := Kept.refl s
  .instr fun _ => Ends.maskReady.seq fun _ => .ite (.pure h) (Ends.freeS.seq fun _ => .pure h.setGroup)

theorem execWaitt_keeps (f : TOps) (s : State) : Leads s (execWaitt f s) := by
  have h := Kept.refl s
  refine .instr fun c => Ends.maskReady.seq fun _ => .ite (.pure h) (Ends.nextPc.seq fun _ => .ite ?_ ?_)
  · refine Ends.readS.seq fun _ => Ends.readS.seq fun _ => (Ends.place h).bind fun p hp => Ends.loadsDone.seq fun _ =>
      Ends.noQueued.seq fun _ => .ite (.pure hp.acquire) (.out hp.park)
  · dsimp only
    split
    · exact Ends.seq (.ok trivial) fun _ => .ite (.pure h.acquire) (.out h.park)
    · exact Ends.readS.seq fun _ => .ite (.pure h.acquire) (.out h.park)

theorem execTlrd_keeps (f : TOps) (s : State) : Leads s (execTlrd f s) :=
  have h := Kept.refl s
  .instr fun _ => Ends.maskReady.seq fun _ => .ite (.pure h) (Ends.freeS.seq fun _ => .ite (.pure h.putS)
    (.pure h.acquire.putS))

theorem Kept.arriveBar {b : Nat} {cluster : Bool} (k : Kept s t) : Kept s (t.arriveBar core slot wg cluster b) := by
  unfold State.arriveBar
  dsimp only
  split
  · exact k
  · refine .ite ?_ k.setWg
    split
    · exact k
    · exact k.setClsets

theorem Ends.barrierBody {cluster : Bool} {b op : Nat} {f : TOps} : Ends s (Kept s) (barrierBody cluster b op f c s) := by
  have h := Kept.refl s
  refine maskReady.seq fun _ => notInHandler.seq fun _ => flagsIn.seq fun _ => ?_
  split
  · next hu => exact .out (h.arith hu)
  · refine quiet.seq fun _ => nextPc.seq fun _ => ?_
    have hs (ph : Nat) (w : WaitRec) : Kept s (if cluster then
        ((s.arriveBar c.core c.slot c.g.wg cluster b).park c (.t op f) w (.barrier cluster b ph)).settleBarc c.core c.g.wg b
      else ((s.arriveBar c.core c.slot c.g.wg cluster b).park c (.t op f) w (.barrier cluster b ph)).settleBar c.core c.g.wg b) :=
      .ite h.arriveBar.park.settleBarc h.arriveBar.park.settleBar
    exact .ite (.out (hs _ _)) (.out (.withGroup (.ite (hs _ _).acquire (hs _ _))))

theorem execArv_keeps (f : TOps) (s : State) : Leads s (execArv f s) := by
  have h := Kept.refl s
  exact .instr fun c => Ends.maskReady.seq fun _ => .ite (.pure h) (Ends.freeS.seq fun _ => Ends.readS.seq fun _ =>
    (Ends.place h).bind fun p hp => Ends.presence.seq fun _ => .ite .fault (Ends.quiet.seq fun _ => .ite .fault
      (Ends.writeS.seq fun _ => .pure hp.store.putS)))

theorem execWph_keeps (f : TOps) (s : State) : Leads s (execWph f s) := by
  have h := Kept.refl s
  exact .instr fun c => Ends.maskReady.seq fun _ => .ite (.pure h) (Ends.nextPc.seq fun _ => Ends.readS.seq fun _ =>
    Ends.readS.seq fun _ => (Ends.place h).bind fun p hp => Ends.presence.seq fun _ => Ends.loadsDone.seq fun _ =>
      Ends.noQueued.seq fun _ => .ite (.pure hp.acquire) (.out hp.park))

theorem execYield_keeps (f : TOps) (s : State) : Leads s (execYield f s) :=
  have h := Kept.refl s
  .instr fun _ => Ends.maskReady.seq fun _ => .ite (.pure h) (.pure h.withGroup)

end

end Sys2Proof.Machine

namespace Sys2Proof.Machine

/-! What every step keeps, continued: the matrix engine, the queues, futures and the control registers. -/

section
variable {s t u : State} {c : Ctx} {E : LaneMask} {g : Group} {core slot part vf wg n i h : Nat} {va v : DWord} {loc : Loc}

theorem Kept.engIssue {f : EOps} {path : Bool} {due : List (Nat × Nat × Nat)} {op : EOp} (k : Kept s t) :
    Kept s (t.engIssue c E f path due op) := by
  unfold State.engIssue
  exact .withGroup (.modEng (k.newId.foldl fun _ _ hu => hu.dueLine))

theorem Kept.issueCount {f : EOps} {r : ARule × Option Int} {fb : DWord} {op : EOp} (k : Kept s t) :
    Kept s (t.issueCount c E f r fb n op) := k.modTile.engIssue.modTile

theorem Ends.stagesBody {f : EOps} {word : DWord} {plan : Bool} : Ends s (Kept s) (stagesBody f word plan c s) := by
  have h := Kept.refl s
  refine maskReady.seq fun _ => .ite (pure h) (.ite raised (hasBaton.seq fun _ => owned.seq fun _ => inMode.seq fun _ => ?_))
  dsimp only
  split
  · exact raisedOpen
  · exact Ends.seq (ok trivial) fun _ => loadsDone.seq fun _ => engRoom.seq fun _ => pure h.engIssue

theorem execBtake_keeps (f : TOps) (s : State) : Leads s (execBtake f s) :=
  have h := Kept.refl s
  .instr fun _ => Ends.maskReady.seq fun _ => .ite (.pure h) (Ends.notInHandler.seq fun _ => Ends.nextPc.seq fun _ =>
    .ite (.pure h) (.ite (.pure h.modEng) (.out h.modEng.park)))

theorem execBpass_keeps (f : TOps) (s : State) : Leads s (execBpass f s) :=
  have h := Kept.refl s
  .instr fun _ => Ends.maskReady.seq fun _ => .ite (.pure h) (.ite (.pure h.modEng) .raiseOpen)

theorem execMms_keeps (f : EOps) (s : State) : Leads s (execMms f s) := by
  have h := Kept.refl s
  refine .instr fun c => Ends.maskWait.seq fun _ => ?_
  extract_lets E hit fb tile d kappa jp
  have hj : ∀ l, Ends s (Kept s) (jp l) := by
    intro l
    refine .ite (.pure h) (Ends.readS.seq fun _ => Ends.hasBaton.seq fun _ => Ends.owned.seq fun _ => Ends.inMode.seq fun _ => ?_)
    dsimp only
    split
    · exact .raisedOpen
    · exact Ends.seq (.ok trivial) fun _ => Ends.settleTile.seq fun _ => Ends.latchCheck.seq fun _ => Ends.engSpace.seq fun _ =>
        Ends.engAlign.seq fun _ => Ends.engRanges.seq fun _ => Ends.quiet.seq fun _ => Ends.engRoom.seq fun _ =>
          .pure h.modEng.modTile.engIssue.modTile
  clear_value hit
  split
  · exact Ends.nameRange.seq fun _ => Ends.maskSound.seq fun _ => Ends.seq (.ok trivial) hj
  · exact Ends.checkNames.seq fun _ => Ends.fragment.seq hj

theorem execMml_keeps (f : EOps) (s : State) : Leads s (execMml f s) := by
  have h := Kept.refl s
  refine .instr fun c => Ends.maskReady.seq fun _ => .ite (.pure h) (Ends.readS.seq fun _ => Ends.readS.seq fun _ =>
    Ends.hasBaton.seq fun _ => Ends.owned.seq fun _ => Ends.inMode.seq fun _ => ?_)
  dsimp only
  split
  · exact .raisedOpen
  · exact Ends.seq (.ok trivial) fun _ => Ends.settleTile.seq fun _ => Ends.stepSpaces.seq fun _ => Ends.engAlign.seq fun _ =>
      Ends.engAlign.seq fun _ => Ends.engRanges.seq fun _ => Ends.quiet.seq fun _ => Ends.engRoom.seq fun _ =>
        .pure h.modTile.engIssue.modTile

theorem execAclr_keeps (f : EOps) (s : State) : Leads s (execAclr f s) := by
  have h := Kept.refl s
  refine .instr fun c => Ends.maskReady.seq fun _ => .ite (.pure h) ?_
  extract_lets fix tile mode other displaced s' jp
  have hj : ∀ a, Ends s (Kept s) (jp a) := fun a => Ends.owned.seq fun _ => .ite .raisedOpen
    (Ends.loadsDone.seq fun _ => Ends.engRoom.seq fun _ => .pure h.modEng.modTile.engIssue)
  exact .ite (Ends.readS.seq hj) (Ends.seq (.ok trivial) hj)

theorem execAld_keeps (f : EOps) (s : State) : Leads s (execAld f s) := by
  have h := Kept.refl s
  refine .instr fun c => Ends.maskReady.seq fun _ => .ite (.pure h) (Ends.readS.seq fun _ => Ends.owned.seq fun _ =>
    .ite .raisedOpen (.ite .raisedOpen ?_))
  dsimp only
  split
  · exact .raisedOpen
  · refine Ends.seq (.ok trivial) fun _ => .ite ?_ ?_
    · split
      · exact .raisedOpen
      · exact Ends.seq (.ok trivial) fun _ => Ends.engSpace.seq fun _ => Ends.regionAlign.seq fun _ =>
          Ends.engRanges.seq fun _ => Ends.quiet.seq fun _ => Ends.engRoom.seq fun _ => .pure h.modEng.modTile.engIssue
    · exact Ends.seq (.ok trivial) fun _ => Ends.engSpace.seq fun _ => Ends.regionAlign.seq fun _ =>
        Ends.engRanges.seq fun _ => Ends.quiet.seq fun _ => Ends.engRoom.seq fun _ => .pure h.modEng.modTile.engIssue

theorem execAdrn_keeps (f : EOps) (s : State) : Leads s (execAdrn f s) := by
  have h := Kept.refl s
  refine .instr fun c => Ends.maskReady.seq fun _ => .ite (.pure h) (Ends.readS.seq fun _ => Ends.owned.seq fun _ =>
    .ite .raisedOpen (.ite .raisedOpen (.ite .raised ?_)))
  dsimp only
  split
  · exact .raisedOpen
  · exact Ends.seq (.ok trivial) fun _ => Ends.engSpace.seq fun _ => Ends.regionAlign.seq fun _ => Ends.engRanges.seq fun _ =>
      Ends.quiet.seq fun _ => Ends.engRoom.seq fun _ => .pure (.ite h.engIssue.modTile h.engIssue)

theorem execAdrv_keeps (f : EOps) (s : State) : Leads s (execAdrv f s) :=
  have h := Kept.refl s
  .instr fun _ => Ends.maskReady.seq fun _ => Ends.nameRange.seq fun _ => .ite (.pure h) (Ends.owned.seq fun _ =>
    Ends.inMode.seq fun _ => Ends.closed.seq fun _ => (Ends.forM fun _ => Ends.framePending).seq fun _ =>
      .pure h.newId.modEng.withGroup)

theorem execTalloc_keeps (f : EOps) (s : State) : Leads s (execTalloc f s) :=
  have h := Kept.refl s
  .instr fun _ => Ends.maskReady.seq fun _ => .ite (.pure h) (Ends.notInHandler.seq fun _ => Ends.nextPc.seq fun _ =>
    .ite (.pure h) (.ite (.pure h.modTile) (.out h.modTile.park)))

theorem execTfree_keeps (f : EOps) (s : State) : Leads s (execTfree f s) :=
  have h := Kept.refl s
  .instr fun _ => Ends.maskReady.seq fun _ => .ite (.pure h) (Ends.owned.seq fun _ => Ends.closed.seq fun _ => .pure h.modEng)

theorem execMcnt_keeps (f : EOps) (s : State) : Leads s (execMcnt f s) :=
  have h := Kept.refl s
  .instr fun _ => Ends.maskWait.seq fun _ => Ends.checkNames.seq fun _ => Ends.fragment.seq fun _ => .ite (.pure h)
    (Ends.readS.seq fun _ => Ends.countChecks.seq fun _ => Ends.engSpace.seq fun _ => Ends.engAlign.seq fun _ =>
      Ends.engRanges.seq fun _ => Ends.quiet.seq fun _ => Ends.engRoom.seq fun _ => .pure h.issueCount)

theorem execMcntl_keeps (f : EOps) (s : State) : Leads s (execMcntl f s) :=
  have h := Kept.refl s
  .instr fun _ => Ends.maskReady.seq fun _ => .ite (.pure h) (Ends.readS.seq fun _ => Ends.readS.seq fun _ =>
    Ends.countChecks.seq fun _ => Ends.stepSpaces.seq fun _ => Ends.engAlign.seq fun _ => Ends.engAlign.seq fun _ =>
      Ends.engRanges.seq fun _ => Ends.quiet.seq fun _ => Ends.engRoom.seq fun _ => .pure h.issueCount)

theorem execMmrg_keeps (f : EOps) (s : State) : Leads s (execMmrg f s) :=
  have h := Kept.refl s
  .instr fun _ => Ends.maskReady.seq fun _ => .ite (.pure h) (Ends.hasBaton.seq fun _ => Ends.countTile.seq fun _ =>
    Ends.engRanges.seq fun _ => Ends.quiet.seq fun _ => Ends.engRoom.seq fun _ => .pure h.engIssue.modTile)

theorem execCntz_keeps (f : EOps) (s : State) : Leads s (execCntz f s) :=
  have h := Kept.refl s
  .instr fun _ => Ends.maskReady.seq fun _ => .ite (.pure h) (Ends.countTile.seq fun _ => Ends.loadsDone.seq fun _ =>
    Ends.engRoom.seq fun _ => .pure h.engIssue.modTile)

/-! Queues, counters and futures. -/

theorem Kept.enterCard {q : Nat} {ws : List DWord} (k : Kept s t) : Kept s (t.enterCard vf part q ws va).2 := by
  unfold State.enterCard
  exact k.takeTickets.holdCard

theorem Kept.register {j : Nat} (k : Kept s t) : Kept s (t.register core part vf va loc h j) := by
  refine .ite k.joinReport (.store ?_)
  split
  · exact k.joinPut
  · exact k

theorem Kept.resetFuture (k : Kept s t) (hu : t.resetFuture core part vf va loc = some u) : Kept s u := by
  unfold State.resetFuture at hu
  dsimp only at hu
  split at hu
  · cases hu
  · cases hu
    exact k.store

theorem execEnq_keeps (f : TOps) (s : State) : Leads s (execEnq f s) :=
  have h := Kept.refl s
  .instr fun _ => Ends.maskReady.seq fun _ => .ite (.pure h) (Ends.freeS.seq fun _ => Ends.readS.seq fun _ =>
    Ends.readS.seq fun _ => .ite .raisedOpen ((Ends.place h).bind fun _ hp => Ends.quiet.seq fun _ => .ite .hold
      (.pure hp.enterCard.putS)))

theorem execEnqd_keeps (f : TOps) (s : State) : Leads s (execEnqd f s) := by
  have h := Kept.refl s
  refine .instr fun c => Ends.maskReady.seq fun _ => .ite (.pure h) (Ends.readS.seq fun _ => .ite .raisedOpen
    (.ite .raised (.ite .raised (.ite (.pure h) ((Ends.mapM fun _ => Ends.readLanes).seq fun _ => ?_)))))
  extract_lets recs d base cs s'
  split
  · exact .failAt h
  · extract_lets jp
    have hj : ∀ x, Ends s (Kept s) (jp x) := by
      refine fun x => Ends.quiet.seq fun _ => .ite .hold (.ite .stall ?_)
      split
      · exact Ends.nextPc.seq fun _ => .out h.modDq.parkPage.issued
      · exact .pure h.modDq.publish
    split
    · exact .ite (Ends.bind (P := fun _ => True) (.pageTrap h) fun x _ => hj x) (Ends.seq (.ok trivial) hj)
    · exact Ends.seq (.ok trivial) hj

theorem execDeq_keeps (f : TOps) (s : State) : Leads s (execDeq f s) := by
  have h := Kept.refl s
  refine .instr fun c => Ends.maskReady.seq fun _ => .ite (.pure h) (Ends.readS.seq fun _ => .ite .raisedOpen
    (Ends.nextPc.seq fun _ => ?_))
  dsimp only
  split
  · exact .failAt h
  · exact Ends.loadsDone.seq fun _ => .out h.modDq.parkPage.issued
  · refine Ends.loadsDone.seq fun _ => ?_
    split
    · next hu => exact .pure (h.modDq.finishDeq (fun _ k => k) hu)
    · exact .out h.modDq.park

theorem execDcadd_keeps (f : TOps) (s : State) : Leads s (execDcadd f s) := by
  have h := Kept.refl s
  refine .instr fun c => Ends.maskReady.seq fun _ => .ite (.pure h) (Ends.freeS.seq fun _ => Ends.readS.seq fun _ => ?_)
  extract_lets jp
  have hj : ∀ a, Ends s (Kept s) (jp a) := fun a => .ite .raisedOpen (Ends.quiet.seq fun _ => .ite .raised (.ite .raisedOpen
    (.pure h.dcSet.putS)))
  exact .ite (Ends.seq (.ok trivial) hj) (Ends.readS.seq hj)

theorem execDcrd_keeps (f : TOps) (s : State) : Leads s (execDcrd f s) :=
  have h := Kept.refl s
  .instr fun _ => Ends.maskReady.seq fun _ => .ite (.pure h) (Ends.freeS.seq fun _ => Ends.readS.seq fun _ =>
    .ite .raisedOpen (.pure (.putS (.ite h.acquire h))))

theorem execFres_keeps (f : TOps) (s : State) : Leads s (execFres f s) := by
  have h := Kept.refl s
  refine .instr fun c => Ends.maskReady.seq fun _ => .ite (.pure h) (Ends.readS.seq fun _ => ?_)
  extract_lets reset jp
  have hj : ∀ a, Ends s (Kept s) (jp a) := by
    refine fun a => (Ends.place h).bind fun p hp => .ite .raised (Ends.quiet.seq fun _ => .ite ?_ ?_)
    · split
      · next hu => exact .pure (hp.resetFuture hu)
      · exact .raise
    · split
      · next hu => exact .pure (hp.resolve hu)
      · exact .raise
  exact .ite (Ends.seq (.ok trivial) hj) (Ends.readS.seq hj)

theorem execFjoin_keeps (f : TOps) (s : State) : Leads s (execFjoin f s) := by
  have h := Kept.refl s
  refine .instr fun c => Ends.maskReady.seq fun _ => .ite (.pure h) (Ends.freeS.seq fun _ => Ends.readS.seq fun _ =>
    Ends.readS.seq fun _ => .ite .raisedOpen (Ends.addrForm.seq fun _ => (Ends.forM fun _ => Ends.addrForm).seq fun _ =>
      (Ends.placeAll h).bind fun p hp => Ends.quiet.seq fun _ => (Ends.forM fun _ => Ends.addrForm).seq fun _ =>
        (Ends.place hp).bind fun q hq => (Ends.placeAll hq).bind fun r hr => ?_))
  dsimp only
  split
  · exact .raise
  · split
    · exact .raiseOpen
    · exact .pure (.putS (hr.joinPut.foldl fun _ _ hu => hu.register))

theorem execFget_keeps (f : TOps) (s : State) : Leads s (execFget f s) := by
  have h := Kept.refl s
  refine .instr fun c => Ends.maskReady.seq fun _ => .ite (.pure h) (Ends.freeS.seq fun _ => Ends.freeS.seq fun _ =>
    Ends.readS.seq fun _ => ?_)
  extract_lets wait jp
  have hj : ∀ a, Ends s (Kept s) (jp a) := fun a => (Ends.place h).bind fun p hp => Ends.loadsDone.seq fun _ =>
    Ends.noQueued.seq fun _ => .ite (.out hp.park) (.pure hp.readFuture)
  exact .ite ((Ends.nextPc.map fun _ _ => trivial).seq hj) (Ends.seq (.ok trivial) hj)

theorem execNextch_keeps (f : TOps) (s : State) : Leads s (execNextch f s) := by
  have h := Kept.refl s
  refine .instr fun c => Ends.maskReady.seq fun _ => .ite (.pure h) (Ends.freeS.seq fun _ => Ends.freeS.seq fun _ => ?_)
  dsimp only
  split
  · exact .pure h.putS.putS
  · exact .ite (.pure h.putS.putS) (.pure h.setJob.withGroup.putS.putS)

/-! Control registers. -/

theorem execTinfo_keeps (f : TOps) (s : State) : Leads s (execTinfo f s) :=
  have h := Kept.refl s
  .instr fun _ => Ends.maskReady.seq fun _ => .ite (.pure h) (Ends.freeS.seq fun _ => .pure h.putS)

theorem execCsrr_keeps (f : TOps) (s : State) : Leads s (execCsrr f s) :=
  have h := Kept.refl s
  .instr fun _ => Ends.maskReady.seq fun _ => .ite (.pure h) (Ends.freeS.seq fun _ => Ends.allDone.seq fun _ => .pure h.putS)

theorem execCsrw_keeps (f : TOps) (s : State) : Leads s (execCsrw f s) :=
  have h := Kept.refl s
  .instr fun _ => Ends.maskWait.seq fun _ => .ite .raised (Ends.maskSound.seq fun _ => .ite (.pure h)
    (Ends.readS.seq fun _ => Ends.allDone.seq fun _ => .pure h.withGroup))

theorem execTime_keeps (f : TOps) (s : State) : Leads s (execTime f s) :=
  have h := Kept.refl s
  .instr fun _ => Ends.maskReady.seq fun _ => .ite (.pure h) (Ends.freeS.seq fun _ => .pure h.putS)

theorem execCtrrd_keeps (f : TOps) (s : State) : Leads s (execCtrrd f s) := by
  have h := Kept.refl s
  refine .instr fun c => Ends.maskReady.seq fun _ => .ite (.pure h) (Ends.freeS.seq fun _ => Ends.readS.seq fun _ => ?_)
  split
  · exact .raise
  · exact .ite (.pure h.putS) (.pure h.noteRead.putS)

theorem execCtrcfg_keeps (f : TOps) (s : State) : Leads s (execCtrcfg f s) :=
  have h := Kept.refl s
  .instr fun _ => Ends.maskReady.seq fun _ => .ite (.pure h) (Ends.readS.seq fun _ => Ends.readS.seq fun _ =>
    .ite .raised (Ends.nextPc.seq fun _ => .out h.withGroup.issued.modCore))

end

end Sys2Proof.Machine

namespace Sys2Proof.Machine

/-! What every step keeps, continued: the events of the opcode table. -/

section
variable {s t u : State} {f : State → State}

theorem Leads.event (h : Kept s (f s)) : Leads s (event f s) := by
  intro t ht
  unfold Machine.event at ht
  split at ht
  · cases ht
  · cases ht
    exact h

theorem Leads.core (h : Kept s (f s)) : Leads s (coreEvent f s) := .event (.ite (.refl s) h)

theorem Leads.host (h : Kept s (f s)) : Leads s (hostEvent f s) := .event (.ite (.refl s) h)

theorem Leads.read {path : HostPath} {fn ofs : Nat} {f : HostPath → Nat → Nat → State → State}
    (h : ∀ p v o t, Kept s t → Kept s (f p v o t)) : Leads s (readEvent path fn ofs f s) :=
  .event (.ite (.refl s) (h _ _ _ _ (.ite (Kept.refl s).noteRead (.refl s))))

/-! Events of groups, fetch and memory. -/

theorem Kept.finishWait {core slot : Nat} {g : Group} (h : Kept s t) (hu : t.finishWait core slot g = some u) : Kept s u := by
  unfold State.finishWait at hu
  extract_lets again done at hu
  have ha {b : Bool} (e : again b = some u) : Kept s u := by
    dsimp only [again] at e
    split at e
    · cases e
      exact h.setGroup
    · cases e
  have hd {b : Bool} {f : State → State} (hf : ∀ t, Kept s t → Kept s (f t)) (e : done b f = some u) : Kept s u := by
    dsimp only [done] at e
    split at e
    · cases e
      exact hf _ h.endWait
    · cases e
  split at hu
  · cases hu
  · exact ha hu
  · exact ha hu
  · exact ha hu
  · split at hu
    · cases hu
      exact h.setGroup.deliver.stepDone
    · cases hu
  · exact ha hu
  · exact hd (fun _ ht => ht.acquire) hu
  · exact hd (fun _ ht => ht.acquire) hu
  · exact hd (fun _ ht => .ite ht.acquire ht) hu
  · exact hd (fun _ ht => ht.acquire) hu
  · exact hd (fun _ ht => ht) hu
  · exact hd (fun _ ht => ht) hu
  · split at hu
    · exact h.finishPublish hu
    · cases hu
  · split at hu
    · cases hu
    · obtain ⟨v, hv, rfl⟩ := Option.map_eq_some_iff.mp hu
      exact (h.finishDeq (fun _ ht => ht.stampLate.modGroup) hv).stepDone
  · exact h.alone hu
  · exact h.alone hu
  · split at hu
    · cases hu
      exact h.readFuture.endWait
    · cases hu
  · cases hu

theorem execSpilledLineArrival_keeps (core wg line : Nat) (s : State) : Leads s (execSpilledLineArrival core wg line s) := by
  have h := Kept.refl s
  refine .core ?_
  split
  · exact h
  · refine .ite h ?_
    dsimp only
    split
    · next e => exact (h.savePage e).modWg
    · exact h.walkMarks.pageFault.modWg
    · exact h
    · exact h.modWg.foldl fun _ _ hu => hu.saveFault

theorem execMissDataReturn_keeps (core slot id : Nat) (s : State) : Leads s (execMissDataReturn core slot id s) := by
  have h := Kept.refl s
  refine .core ?_
  split
  · exact h
  · split
    · exact .ite h.landLoad h
    · exact h

theorem execStoreQueueDrain_keeps (core slot : Nat) (s : State) : Leads s (execStoreQueueDrain core slot s) := by
  have h := Kept.refl s
  refine .core ?_
  split
  · exact h
  · split
    · exact h.drainBeat
    · exact h

theorem execPageWalk_keeps (part die : Nat) (s : State) : Leads s (execPageWalk part die s) := by
  have h := Kept.refl s
  refine .event ?_
  split
  · exact h
  · exact h.makeWalk

theorem execAccessReplay_keeps (core slot : Nat) (s : State) : Leads s (execAccessReplay core slot s) := by
  have h := Kept.refl s
  refine .core ?_
  split
  · exact h
  · exact .ite (h.getD fun _ hu => h.finishWait hu) h

theorem execIcacheFill_keeps (core slot : Nat) (bundle : DWord) (s : State) : Leads s (execIcacheFill core slot bundle s) :=
  .core (Kept.refl s).icacheFill

theorem execBundleRefetch_keeps (core slot : Nat) (s : State) : Leads s (execBundleRefetch core slot s) :=
  .core (Kept.refl s).bundleRefetch

theorem execEngineFaultDelivery_keeps (core slot : Nat) (s : State) : Leads s (execEngineFaultDelivery core slot s) := by
  have h := Kept.refl s
  refine .core ?_
  split
  · exact h
  · refine .ite h ?_
    split
    · exact h
    · exact h.setGroup.deliver

theorem execGroupTerminate_keeps (core slot : Nat) (s : State) : Leads s (execGroupTerminate core slot s) := by
  have h := Kept.refl s
  refine .core ?_
  split
  · exact h
  · exact .ite h.releaseGroup h

theorem execGroupRetire_keeps (core slot : Nat) (s : State) : Leads s (execGroupRetire core slot s) := by
  have h := Kept.refl s
  refine .core ?_
  split
  · exact h
  · exact .ite h.releaseGroup h

/-! Cards and dealing. -/

theorem execCardParse_keeps (vf q : Nat) (s : State) : Leads s (execCardParse vf q s) := by
  refine .event (.ite (.refl s) ?_)
  extract_lets s' parse cont
  have h : Kept s s' := (Kept.refl s).enterConts
  have hp (t : State) (b : Nat → Bool) (ht : Kept s t) : Kept s (parse t b) := by
    dsimp only [parse]
    split
    · exact .ite ht.parse ht
    · exact ht
  split
  · exact hp _ _ h
  · next r _ => exact .ite (hp _ _ h) (.ite h (hp (s'.copyCard vf q r) (fun seq => seq == r.seq) h.copyCard))

theorem execFenceConditionMet_keeps (vf q : Nat) (s : State) : Leads s (execFenceConditionMet vf q s) := by
  have h := (Kept.refl s).noteFences
  refine .event (.ite h ?_)
  split
  · exact h
  · exact .ite h.setJob.complete h

/-- Of the candidates one is dealt, and the cores that got work are woken. -/
theorem execDealChunk_keeps (part : Nat) (s : State) : Leads s (execDealChunk part s) := by
  have h := Kept.refl s
  refine .event ?_
  split
  · exact h
  · next s' e =>
    obtain ⟨p, -, hp⟩ := List.exists_of_findSome?_eq_some e
    exact (h.tryDeal hp).foldl fun _ _ hu => .ite hu.wakeCore hu

theorem execStealChunk_keeps (core : Nat) (s : State) : Leads s (execStealChunk core s) := by
  have h := Kept.refl s
  refine .core (.ite h ?_)
  split
  · exact h
  · refine .ite h.modCore.pushChunk ?_
    split
    · exact h
    · exact h.newId.setJob.modCore.pushChunk

theorem execWorkgroupStart_keeps (core : Nat) (s : State) : Leads s (execWorkgroupStart core s) := by
  have h := Kept.refl s
  refine .core ?_
  split
  · exact h
  · split
    · exact h
    · exact .ite (h.foldl fun _ _ hu => hu.modCore.startWg) h

theorem execJobComplete_keeps (job : Nat) (s : State) : Leads s (execJobComplete job s) := by
  have h := Kept.refl s
  refine .event ?_
  split
  · exact h
  · exact .ite h (.ite h.setJob.complete h.complete)

/-! Copies and the matrix engine. -/

theorem execCopyPiece_keeps (core cmd : Nat) (write : Bool) (row ofs : Nat) (s : State) :
    Leads s (execCopyPiece core cmd write row ofs s) := by
  have h := Kept.refl s
  refine .core ?_
  split
  · exact h
  · refine .ite h (.ite h.copyFail ?_)
    split
    · exact h
    · split
      · exact h
      · exact .ite h.writePiece h.readPiece

theorem execCopyComplete_keeps (core cmd : Nat) (s : State) : Leads s (execCopyComplete core cmd s) := by
  have h := Kept.refl s
  refine .core ?_
  split
  · exact h
  · exact .ite h (.ite h.sendFrame h.copyResolve)

theorem execEngineCommandStart_keeps (core cmd : Nat) (early : List Nat) (s : State) :
    Leads s (execEngineCommandStart core cmd early s) := by
  refine .core ?_
  split
  · exact .refl s
  · next k _ =>
    have h : Kept s (early.foldl (fun s i => match (s.readLines core k)[i]?, s.ecmd? core cmd with
        | some x, some k => s.engRead core k x
        | _, _ => s) s) := (Kept.refl s).foldl fun _ _ hu => by
      split
      · exact hu.engRead
      · exact hu
    refine .ite h ?_
    split
    · exact h.modEcmd.drainLand
    · exact h.modEcmd

theorem execEngineCommandComplete_keeps (core cmd : Nat) (s : State) : Leads s (execEngineCommandComplete core cmd s) := by
  have h := Kept.refl s
  refine .core ?_
  split
  · exact h
  · refine .ite h ?_
    split
    · refine .engRetire ?_
      split
      · exact h.engineFault
      · exact h
    · dsimp only
      refine .engRetire ?_
      split
      · exact h.engRun.count
      · exact h.engRun

theorem execAdrvDrain_keeps (core cmd : Nat) (s : State) : Leads s (execAdrvDrain core cmd s) := by
  have h := Kept.refl s
  refine .core ?_
  split
  · exact h
  · split
    · exact .ite h.adrvRun.engRetire h
    · exact h

/-! The active set, gating and pre-emption. -/

theorem execSchedulerSwap_keeps (core act : Nat) (s : State) : Leads s (execSchedulerSwap core act s) := by
  have h := Kept.refl s
  refine .core (.ite h ?_)
  split
  · exact h
  · exact h.swapIn

theorem execForcedSwap_keeps (core : Nat) (s : State) : Leads s (execForcedSwap core s) := by
  have h := Kept.refl s
  refine .core (.ite h ?_)
  split
  · exact h.withdraw.swapIn.modCore
  · exact h

theorem execFreeSlotFill_keeps (core : Nat) (s : State) : Leads s (execFreeSlotFill core s) := by
  have h := Kept.refl s
  refine .core (.ite h ?_)
  split
  · exact h.enterActive.modGroup
  · exact h

theorem execGatingEntry_keeps (core : Nat) (s : State) : Leads s (execGatingEntry core s) :=
  have h := Kept.refl s
  .core (.ite h (.ite h.modCore h.modCore))

theorem execGatingHoldoffExpire_keeps (core : Nat) (s : State) : Leads s (execGatingHoldoffExpire core s) := by
  have h := Kept.refl s
  refine .core ?_
  split
  · exact h
  · exact .ite h.modCore h

theorem execGatingExitDone_keeps (core : Nat) (s : State) : Leads s (execGatingExitDone core s) := by
  have h := Kept.refl s
  refine .core ?_
  split
  · exact h
  · exact .ite h.modCore h

theorem execGroupPreemptStop_keeps (core slot : Nat) (s : State) : Leads s (execGroupPreemptStop core slot s) := by
  have h := Kept.refl s
  refine .core ?_
  split
  · exact h
  · exact .ite h (.ite h.haltGroup.settleHalt (.ite h.haltGroup.settleHalt h))

theorem execPreemptTimeout_keeps (core slot : Nat) (s : State) : Leads s (execPreemptTimeout core slot s) := by
  have h := Kept.refl s
  refine .core ?_
  split
  · exact h
  · exact .ite h h.modVf.haltGroup.settleHalt

theorem execGroupResume_keeps (core slot : Nat) (s : State) : Leads s (execGroupResume core slot s) := by
  have h := Kept.refl s
  refine .core ?_
  split
  · exact h
  · refine .ite h ?_
    split
    · exact h.backFault
    · exact h
    · exact h.saveFault.settleResume
    · next e => exact ((h.rowPages e).pushLate.modGroup.modWg.restoreTiles.standUp).settleResume

theorem execRowClaimComplete_keeps (core : Nat) (s : State) : Leads s (execRowClaimComplete core s) := by
  have h := Kept.refl s
  refine .core ?_
  split
  · exact h
  · exact .ite h (.settleSplit (Kept.foldl (h.foldl fun _ _ hu => hu.claimRow) fun _ _ hu => hu.claimSpadRow))

theorem execTileSpill_keeps (core : Nat) (tile : Fin 4) (s : State) : Leads s (execTileSpill core tile s) := by
  have h := Kept.refl s
  refine .core ?_
  dsimp only
  split
  · exact h
  · exact .ite h h.modEng

theorem execQuantumExpire_keeps (part : Nat) (s : State) : Leads s (execQuantumExpire part s) := by
  have h := Kept.refl s
  refine .event (.ite h ?_)
  split
  · exact h.setPart
  · split
    · exact h.switchTurn
    · split
      · exact h.setPart.stopVf
      · exact h.setPart
      · exact h.switchTurn
      · exact h

theorem execInstructionSample_keeps (core act : Nat) (s : State) : Leads s (execInstructionSample core act s) :=
  have h := Kept.refl s
  .core (.ite h (h.foldl fun _ _ hu => .ite hu.takeSample hu))

/-! Debug commands. -/

theorem Kept.dbgInTurn {vf : Nat} {v : DWord} (h : Kept s t) (hf : Kept s (f t)) : Kept s (t.dbgInTurn vf v f) := .ite h.delay hf

theorem execDebugHalt_keeps (vf gid : Nat) (s : State) : Leads s (execDebugHalt vf gid s) :=
  have h := Kept.refl s
  .host (h.dbgInTurn h.dbgHalt)

theorem execDebugStep_keeps (vf gid : Nat) (s : State) : Leads s (execDebugStep vf gid s) :=
  have h := Kept.refl s
  .host (h.dbgInTurn h.dbgGo)

theorem execDebugRun_keeps (vf gid : Nat) (s : State) : Leads s (execDebugRun vf gid s) :=
  have h := Kept.refl s
  .host (h.dbgInTurn h.dbgGo)

theorem execDebugFocus_keeps (vf gid lane : Nat) (s : State) : Leads s (execDebugFocus vf gid lane s) :=
  have h := Kept.refl s
  .host (h.dbgInTurn h.dbgFocus)

theorem execDebugUnfocus_keeps (vf gid : Nat) (s : State) : Leads s (execDebugUnfocus vf gid s) :=
  have h := Kept.refl s
  .host (h.dbgInTurn h.dbgUnfocus)

theorem execDebugDump_keeps (vf gid : Nat) (s : State) : Leads s (execDebugDump vf gid s) :=
  have h := Kept.refl s
  .host (h.dbgInTurn h.dbgDump)

/-! Registers, faults and the operator. -/

theorem execRegisterWrite_keeps (fn ofs : Nat) (value : DWord) (s : State) : Leads s (execRegisterWrite fn ofs value s) :=
  have h := Kept.refl s
  .host (.ite h.pageWrite (.ite h.pfWrite (.ite h.setVr h)))

theorem execLatencyMonitorConfig_keeps (vf q : Nat) (value : DWord) (s : State) :
    Leads s (execLatencyMonitorConfig vf q value s) :=
  have h := Kept.refl s
  .host (.ite h.latencyConfig h)

theorem execHalfReadLow_keeps (path : HostPath) (vf ofs : Nat) (s : State) : Leads s (execHalfReadLow path vf ofs s) :=
  .read fun _ _ _ _ h => .ite (h.same rfl) (.ite (Kept.latchHigh (h.same rfl)) (h.same rfl))

theorem execHalfReadHigh_keeps (path : HostPath) (vf ofs : Nat) (s : State) : Leads s (execHalfReadHigh path vf ofs s) :=
  .read fun _ _ _ _ h => h.same rfl

theorem execInvalidationComplete_keeps (vf : Nat) (stage2 : Bool) (s : State) :
    Leads s (execInvalidationComplete vf stage2 s) :=
  have h := Kept.refl s
  .event (.ite h (.ite h.dropTlb.modVf (Kept.modVf (h.foldl fun _ _ hu => hu.dropTlb))))

theorem execPolicyVerifyDone_keeps (part : Nat) (s : State) : Leads s (execPolicyVerifyDone part s) := by
  have h := Kept.refl s
  refine .event (.ite h ?_)
  split
  · exact h
  · split
    · exact h.setPart
    · exact h.setPart

theorem execQuoteComplete_keeps (s : State) : Leads s (execQuoteComplete s) := by
  have h := Kept.refl s
  refine .event ?_
  split
  · exact h
  · extract_lets fin out body sig sys s' q
    have hf (t : State) (r : Nat) (ht : Kept s t) : Kept s (fin t r) := ht.same rfl
    have hs : Kept s s' := h.same rfl
    exact .ite (hf _ _ h) (.ite (hf _ _ h) (.ite (hf _ _ hs) (hf _ _ hs.store)))

/-! Links, power and temperature. -/

theorem execRemoteFrameReceive_keeps (frame : FrameIn) (s : State) : Leads s (execRemoteFrameReceive frame s) := by
  have h := Kept.refl s
  refine .event ?_
  split
  · exact .ite h (Kept.serveFrame (h.newId.same rfl))
  · split
    · exact h
    · exact .ite h (.ite h.elsewhere h.serveFrame)

theorem execOsierRetransmit_keeps (frame : Nat) (s : State) : Leads s (execOsierRetransmit frame s) := by
  have h := Kept.refl s
  refine .event ?_
  split
  · exact h
  · exact .ite h.modFrame h

theorem execOsierPortFail_keeps (port : Nat) (s : State) : Leads s (execOsierPortFail port s) :=
  have h := Kept.refl s
  .event (.ite h (h.modPort.eqKind.foldl fun _ _ hu => hu.reroute))

theorem execOsierPortUp_keeps (port : Nat) (s : State) : Leads s (execOsierPortUp port s) :=
  have h := Kept.refl s
  .event (.ite h.modPort h)

theorem Kept.setHostRead {x : DWord} (h : Kept s t) : Kept s { t with hostRead := x } := h.same rfl

theorem execHostMemAccess_keeps (write : Bool) (pa : Nat) (bytes : List Byte) (s : State) :
    Leads s (execHostMemAccess write pa bytes s) :=
  have h := Kept.refl s
  .host (.ite h (.ite h.dropWhere.putLoc.noteWaits h.dropWhere.setHostRead))

theorem execSoftError_keeps (die : Nat) (correctable : Bool) (pa : Nat) (s : State) :
    Leads s (execSoftError die correctable pa s) :=
  have h := Kept.refl s
  .event (.ite h.modDie h.modDie.uncorrectable)

theorem execPowerCapStep_keeps (watts : Nat) (s : State) : Leads s (execPowerCapStep watts s) :=
  have h := Kept.refl s
  .event (.ite h (h.same rfl))

/-- A shutdown for heat stops the module, and nothing starts it. -/
theorem execThermalShutdown_keeps (die tenths : Nat) (s : State) : Leads s (execThermalShutdown die tenths s) := by
  have h := Kept.refl s
  have he {r : FaultRec} : Kept s (eventFault (s.modDie die fun d => { d with tenths := tenths }) r) := h.modDie.eventFault
  exact .event (.ite h.modDie ⟨he.mem, he.dscr, he.preg, fun _ => rfl, he.agenda⟩)

end

end Sys2Proof.Machine

namespace Sys2Proof.Machine

/-! What every step keeps, completed: each row of the opcode table, a turn, and the passing of time. -/

section
variable {s t u : State} {core slot port clocks ns : Nat}

/-- What a filter leaves of rising keys is rising. -/
theorem nsorted_filter {α : Type} (p : Nat × α → Bool) (m : NMap α) (b : Option Nat) (hm : nsorted b m = true) :
    nsorted b (m.filter p) = true := by
  induction m generalizing b with
  | nil => exact hm
  | cons x r ih =>
    have hr : nsorted (some x.1) (r.filter p) = true := by
      refine ih _ ?_
      cases b with
      | none => exact hm
      | some n =>
        simp only [nsorted, Bool.and_eq_true] at hm
        exact hm.2
    rw [List.filter_cons]
    split
    · cases b with
      | none => exact hr
      | some n =>
        simp only [nsorted, Bool.and_eq_true] at hm ⊢
        exact ⟨hm.1, hr⟩
    · cases b with
      | none => exact nsorted_none hr
      | some n =>
        simp only [nsorted, Bool.and_eq_true, decide_eq_true_eq] at hm
        exact nsorted_weaken (Nat.le_of_lt hm.1) hr

theorem Mem.hostOnly_wf {m : Mem} (hm : m.wf = true) : (hostOnly m).wf = true := by
  simp only [Mem.wf, nwf, Bool.and_eq_true, hostOnly, List.all_eq_true] at hm ⊢
  obtain ⟨hs, ha⟩ := hm
  exact ⟨nsorted_filter _ _ _ hs, fun p hp => ha p (List.mem_filter.mp hp).1⟩

theorem Kept.powerLoss (h : Kept s t) :
    Kept s { t.restart false with sys := { (t.restart false).sys with starts := t.sys.starts, stopped := true, off := true } } :=
  ⟨fun hs => Mem.hostOnly_wf (h.mem hs), fun _ => rfl, fun _ => rfl, fun _ => rfl, h.agenda⟩

/-- Every row of the opcode table but a cold start keeps it all. -/
theorem exec_keeps (i : Instr) (s : State) (hcold : i ≠ .coldStart) : Leads s (exec i s) := by
  have h := Kept.refl s
  cases i with unfold exec
  | pick _ | pick2 _ | setp _ | iadd _ | isub _ | imul _ | imulh _ | imad _ | imadw _ | idivm _
  | imin _ | imax _ | iabs _ | ineg _ | iadds _ | isubs _ | and _ | or _ | xor _ | andn _ | not _
  | shl _ | shr _ | sar _ | funsh _ | bfx _ | bfi _ | popc _ | clz _ | ctz _ | brev _ | prmb _
  | icmp _ | isel _ | iaddc _ | agen _ | iadd64 _ | iext _ | idot4 _ | fadd _ | fsub _ | fmul _
  | ffma _ | fmin _ | fmax _ | fcmp _ | fclass _ | frnd _ | fscale _ | frcp _ | frsq _ | fsqrt _
  | fdiv _ | fex2 _ | flg2 _ | fsin _ | fcos _ | ftanh _ | fcvt _ | fcvti _ | icvtf _ | hadd2 _
  | hmul2 _ | hfma2 _ | hmin2 _ | hmax2 _ | qscl _ | fpack _ | funpk _ | twg _ => exact .vec _ _
  | qswp _ | qbc _ | shfl _ | vote _ | redv _ | scan _ | matchLanes _ | rdlane _ => exact .exch _ _
  | sadd _ | ssub _ | smul _ | sand _ | sor _ | sxor _ | sshl _ | sshr _ | ssar _ | smin _ | smax _
  | ssel _ | smovk _ | spopc _ | sclz _ | smovs _ | sbfx _ => exact .scalar _ _
  | cpy _ | cpyg _ | cpys _ => exact .instr fun _ => .copyBody
  | bar _ | barc _ => exact .instr fun _ => .barrierBody
  | bfly _ | bflyp _ => exact .instr fun _ => .stagesBody
  | biasFlipComplete _ => exact .event h.endFlip
  | pcieReset => exact .event h.warmStart
  | droopDetect _ | clockReturnStep _ | sagEnd _ => exact .event h.modCore
  | thermalThrottle _ _ => exact .event h.modDie
  | preemptReq _ => exact .host h.stopVf
  | preemptResume _ => exact .host h.resumeVf
  | jobQueueDoorbell _ _ _ => exact .host h.doorbell
  | queueEnWrite _ _ _ _ => exact .host h.queueEn
  | faultResume _ _ => exact .host h.faultResume
  | fqconsWrite _ _ => exact .host h.fqcons
  | biasFlipToDevice _ _ | biasFlipToHost _ _ => exact .host h.startFlip
  | tlbInvalidateRange _ _ => exact .host h.invalidateRange
  | tlbInvalidateAll _ => exact .host h.invalidate
  | stage2Invalidate _ => exact .host h.invalidate2
  | placementWrite _ _ _ => exact .host h.placeWrite
  | vfbindWrite _ _ => exact .host h.vfBind
  | policySubmit _ => exact .host h.policySubmit
  | policyTeardown _ => exact .host h.policyTeardown
  | quoteRequest _ => exact .host h.quoteRequest
  | logOvfClear _ => exact .host h.logOvfClear
  | warmStart => exact .host h.warmStart
  | osierPortEnable _ _ => exact .host h.portEnable
  | nop _ => exact execNop_keeps _ s
  | savem _ => exact execSavem_keeps _ s
  | frame _ => exact execFrame_keeps _ s
  | plop _ => exact execPlop_keeps _ s
  | p2v _ => exact execP2v_keeps _ s
  | smovi _ => exact execSmovi_keeps _ s
  | flags _ => exact execFlags_keeps _ s
  | flclr _ => exact execFlclr_keeps _ s
  | br _ => exact execBr_keeps _ s
  | brc _ => exact execBrc_keeps _ s
  | jmpi _ => exact execJmpi_keeps _ s
  | brk _ => exact execBrk_keeps _ s
  | yldp _ => exact execYldp_keeps _ s
  | exit _ => exact execExit_keeps _ s
  | call _ => exact execCall_keeps _ s
  | calli _ => exact execCalli_keeps _ s
  | ret _ => exact execRet_keeps _ s
  | trap _ => exact execTrap_keeps _ s
  | bpt _ => exact execBpt_keeps _ s
  | tret _ => exact execTret_keeps _ s
  | save _ => exact execSave_keeps _ s
  | rjn _ => exact execRjn_keeps _ s
  | xsend _ => exact execXsend_keeps _ s
  | xrecv _ => exact execXrecv_keeps _ s
  | wrlane _ => exact execWrlane_keeps _ s
  | scmp _ => exact execScmp_keeps _ s
  | sld _ => exact execSld_keeps _ s
  | sst _ => exact execSst_keeps _ s
  | ld _ => exact execLd_keeps _ s
  | st _ => exact execSt_keeps _ s
  | ldl _ => exact execLdl_keeps _ s
  | stl _ => exact execStl_keeps _ s
  | atom _ => exact execAtom_keeps _ s
  | acas _ => exact execAcas_keeps _ s
  | fence _ => exact execFence_keeps _ s
  | pref _ => exact execPref_keeps _ s
  | spres _ => exact execSpres_keeps _ s
  | invl _ => exact execInvl_keeps _ s
  | cmt _ => exact execCmt_keeps _ s
  | waitt _ => exact execWaitt_keeps _ s
  | tlrd _ => exact execTlrd_keeps _ s
  | arv _ => exact execArv_keeps _ s
  | wph _ => exact execWph_keeps _ s
  | yield _ => exact execYield_keeps _ s
  | btake _ => exact execBtake_keeps _ s
  | bpass _ => exact execBpass_keeps _ s
  | mms _ => exact execMms_keeps _ s
  | mml _ => exact execMml_keeps _ s
  | aclr _ => exact execAclr_keeps _ s
  | ald _ => exact execAld_keeps _ s
  | adrn _ => exact execAdrn_keeps _ s
  | adrv _ => exact execAdrv_keeps _ s
  | talloc _ => exact execTalloc_keeps _ s
  | tfree _ => exact execTfree_keeps _ s
  | mcnt _ => exact execMcnt_keeps _ s
  | mcntl _ => exact execMcntl_keeps _ s
  | mmrg _ => exact execMmrg_keeps _ s
  | cntz _ => exact execCntz_keeps _ s
  | enq _ => exact execEnq_keeps _ s
  | enqd _ => exact execEnqd_keeps _ s
  | deq _ => exact execDeq_keeps _ s
  | dcadd _ => exact execDcadd_keeps _ s
  | dcrd _ => exact execDcrd_keeps _ s
  | fres _ => exact execFres_keeps _ s
  | fjoin _ => exact execFjoin_keeps _ s
  | fget _ => exact execFget_keeps _ s
  | nextch _ => exact execNextch_keeps _ s
  | tinfo _ => exact execTinfo_keeps _ s
  | csrr _ => exact execCsrr_keeps _ s
  | csrw _ => exact execCsrw_keeps _ s
  | time _ => exact execTime_keeps _ s
  | ctrrd _ => exact execCtrrd_keeps _ s
  | ctrcfg _ => exact execCtrcfg_keeps _ s
  | missDataReturn _ _ _ => exact execMissDataReturn_keeps _ _ _ s
  | storeQueueDrain _ _ => exact execStoreQueueDrain_keeps _ _ s
  | accessReplay _ _ => exact execAccessReplay_keeps _ _ s
  | icacheFill _ _ _ => exact execIcacheFill_keeps _ _ _ s
  | bundleRefetch _ _ => exact execBundleRefetch_keeps _ _ s
  | stealChunk _ => exact execStealChunk_keeps _ s
  | workgroupStart _ => exact execWorkgroupStart_keeps _ s
  | copyPiece _ _ _ _ _ => exact execCopyPiece_keeps _ _ _ _ _ s
  | copyComplete _ _ => exact execCopyComplete_keeps _ _ s
  | engineCommandStart _ _ _ => exact execEngineCommandStart_keeps _ _ _ s
  | engineCommandComplete _ _ => exact execEngineCommandComplete_keeps _ _ s
  | adrvDrain _ _ => exact execAdrvDrain_keeps _ _ s
  | schedulerSwap _ _ => exact execSchedulerSwap_keeps _ _ s
  | forcedSwap _ => exact execForcedSwap_keeps _ s
  | freeSlotFill _ => exact execFreeSlotFill_keeps _ s
  | gatingEntry _ => exact execGatingEntry_keeps _ s
  | gatingHoldoffExpire _ => exact execGatingHoldoffExpire_keeps _ s
  | gatingExitDone _ => exact execGatingExitDone_keeps _ s
  | groupPreemptStop _ _ => exact execGroupPreemptStop_keeps _ _ s
  | preemptTimeout _ _ => exact execPreemptTimeout_keeps _ _ s
  | groupResume _ _ => exact execGroupResume_keeps _ _ s
  | rowClaimComplete _ => exact execRowClaimComplete_keeps _ s
  | tileSpill _ _ => exact execTileSpill_keeps _ _ s
  | groupRetire _ _ => exact execGroupRetire_keeps _ _ s
  | groupTerminate _ _ => exact execGroupTerminate_keeps _ _ s
  | engineFaultDelivery _ _ => exact execEngineFaultDelivery_keeps _ _ s
  | instructionSample _ _ => exact execInstructionSample_keeps _ _ s
  | spilledLineArrival _ _ _ => exact execSpilledLineArrival_keeps _ _ _ s
  | pageWalk _ _ => exact execPageWalk_keeps _ _ s
  | cardParse _ _ => exact execCardParse_keeps _ _ s
  | fenceConditionMet _ _ => exact execFenceConditionMet_keeps _ _ s
  | dealChunk _ => exact execDealChunk_keeps _ s
  | jobComplete _ => exact execJobComplete_keeps _ s
  | quantumExpire _ => exact execQuantumExpire_keeps _ s
  | invalidationComplete _ _ => exact execInvalidationComplete_keeps _ _ s
  | policyVerifyDone _ => exact execPolicyVerifyDone_keeps _ s
  | quoteComplete => exact execQuoteComplete_keeps s
  | softError _ _ _ => exact execSoftError_keeps _ _ _ s
  | remoteFrameReceive _ => exact execRemoteFrameReceive_keeps _ s
  | osierRetransmit _ => exact execOsierRetransmit_keeps _ s
  | osierPortFail _ => exact execOsierPortFail_keeps _ s
  | powerCapStep _ => exact execPowerCapStep_keeps _ s
  | thermalShutdown _ _ => exact execThermalShutdown_keeps _ _ s
  | osierPortUp _ => exact execOsierPortUp_keeps _ s
  | debugHalt _ _ => exact execDebugHalt_keeps _ _ s
  | debugStep _ _ => exact execDebugStep_keeps _ _ s
  | debugFocus _ _ _ => exact execDebugFocus_keeps _ _ _ s
  | debugUnfocus _ _ => exact execDebugUnfocus_keeps _ _ s
  | debugRun _ _ => exact execDebugRun_keeps _ _ s
  | debugDump _ _ => exact execDebugDump_keeps _ _ s
  | latencyMonitorConfig _ _ _ => exact execLatencyMonitorConfig_keeps _ _ _ s
  | registerWrite _ _ _ => exact execRegisterWrite_keeps _ _ _ s
  | hostMemAccess _ _ _ => exact execHostMemAccess_keeps _ _ _ s
  | halfReadLow _ _ _ => exact execHalfReadLow_keeps _ _ _ s
  | halfReadHigh _ _ _ => exact execHalfReadHigh_keeps _ _ _ s
  | powerLoss => exact .next h.powerLoss
  | coldStart => exact absurd rfl hcold

/-! A turn. -/

/-- What a group's next act keeps. -/
def Act.Keeps (s : State) : Act → Prop
  | .idle => True
  | .run _ u => Kept s u
  | .ev _ => True
  | .other u => Kept s u

theorem Kept.issueWord {c : Ctx} {l : IcLine} (h : Kept s t) : (t.issueWord core slot c l).Keeps s := by
  unfold State.issueWord
  dsimp only
  split
  · split
    · exact h.debugStop
    · exact h.precise
  · split
    · exact h.precise
    · exact Kept.same (h.modCore.modGroup) rfl

/-- A trap of the mask words' check keeps it all. -/
theorem Kept.trap_maskWait {c d : Ctx} {x : Trap} (h : Kept s t) (e : c.maskWait = .error x) : Kept s (t.trap d x) := by
  have hx : Checks s c.maskWait := Ends.maskWait
  rw [e] at hx
  exact h.trap hx

theorem Kept.atBundle {c : Ctx} (h : Kept s t) : (t.atBundle core slot c).Keeps s := by
  unfold State.atBundle
  dsimp only
  split
  case h_1 x e => exact h.trap_maskWait e
  case h_2 =>
    split
    · exact h.pastEnd
    · split
      · split <;> trivial
      · split
        · split <;> trivial
        · split
          · split
            · exact h.modGroup
            · exact h.fetchFault
          · split
            · exact h.arrive
            · split
              · split
                · exact h.modGroup
                · exact h.pastEnd
              · split
                · exact h.modGroup
                · exact h.issueWord

theorem Kept.nextAct (h : Kept s t) : (t.nextAct core slot).Keeps s := by
  unfold State.nextAct
  split
  · trivial
  · dsimp only
    split
    · trivial
    · split
      · exact h.modGroup
      · split
        · split
          · trivial
          · split
            case h_1 u hu =>
              split
              · trivial
              · exact h.finishWait hu
            case h_2 => trivial
        · split
          · split
            case h_1 x e => exact h.trap_maskWait e
            case h_2 => trivial
          · split
            · trivial
            · split
              · trivial
              · split
                · trivial
                · exact h.atBundle

theorem Kept.settlePort {win : Nat} {slots : List Nat} (h : Kept s t) : Kept s (t.settlePort core port win slots) := by
  refine h.modCore.foldl fun u x hu => ?_
  dsimp only
  split
  · exact hu
  · exact hu.setGroup

/-! The passing of time. -/

theorem Kept.settleCore (h : Kept s t) : Kept s (t.settleCore core) := by
  unfold State.settleCore
  exact .ite (.ite h.wakeCore h) h.setCore

theorem Kept.settleBanks (h : Kept s t) : Kept s (t.settleBanks core) := by
  refine h.foldl fun u n hu => ?_
  split
  · exact .ite hu hu.askBanks
  · exact hu

theorem Kept.redo {fn : Nat} {x : Late} (h : Kept s t) : Kept s (t.redo fn x) := by
  cases x with
  | event => exact h.eqWrite
  | faults => exact h.retryWithheld
  | zeros => exact h.publishZero
  | pool => exact .ite h.delay (h.getD fun _ hu => h.fnWrite hu)
  | sample => exact h.putSample
  | command => exact h.dbgCommand
  | card => exact h.readCont

theorem Kept.redoAll {fn : Nat} (h : Kept s t) : Kept s (t.redoAll fn) := h.modVf.foldl fun _ _ hu => hu.redo

theorem Kept.settleLate (h : Kept s t) : Kept s t.settleLate := Kept.noteFences (h.foldl fun _ _ hu => hu.redoAll)

theorem Kept.countClocks (h : Kept s t) : Kept s (t.countClocks core clocks) := by
  unfold State.countClocks
  extract_lets k on acts active waiting stalled
  refine .ite h ?_
  have h1 : Kept s active := h.foldl fun _ _ hu => hu.count
  have h2 : Kept s waiting := h1.foldl fun _ _ hu => .ite hu.count hu
  have h3 : Kept s stalled := .ite h2 (h2.foldl fun _ _ hu => .ite hu.count hu)
  exact h3.foldl fun _ _ hu => hu.count

theorem Kept.setClock (h : Kept s t) : Kept s { t with clock := clocks, ref := ns } := h.same rfl

theorem Kept.passTo (h : Kept s t) : Kept s (t.passTo clocks ns) := by
  unfold State.passTo
  exact .setClock (.foldl (h.foldl fun _ _ hu => hu.countClocks) fun _ _ hu => hu.modVf)

theorem Kept.sampleAt (h : Kept s t) : Kept s (t.sampleAt n) := h.same rfl

theorem Kept.tick (h : Kept s t) : Kept s (t.tick clocks ns) := by
  unfold State.tick
  refine .passTo (Kept.foldl (.settleLate (h.foldl fun _ _ hu => hu.settleCore.settleBanks)) fun _ _ hu => hu.passTo.sampleAt)

end

end Sys2Proof.Machine

namespace Sys2Proof.Machine

/-! The forms of memory, the die scratchpads and the physical function's registers along every step. -/

/-- Memory, the die scratchpads and the physical function's register table have their forms. -/
structure Sound (s : State) : Prop where
  mem : s.mem.wf = true
  dscr : s.dscr.wf = true
  preg : nsorted none s.preg = true

section
variable {s t u : State} {core slot port : Nat} {i : Instr}

theorem Sound.kept (h : Sound s) (k : Kept s t) : Sound t := ⟨k.mem h.mem, k.dscr h.dscr, k.preg h.preg⟩

/-- A cold start leaves of memory what is the host's, and nothing of the rest. -/
theorem Sound.coldStart (h : Sound s) : Sound (s.startUp false) := by
  obtain ⟨y, heq, -⟩ := startUp_eq s false
  rw [heq]
  exact ⟨Mem.hostOnly_wf h.mem, rfl, rfl⟩

theorem Sound.exec (h : Sound s) (ht : exec i s = .next t) : Sound t := by
  by_cases hcold : i = .coldStart
  · subst hcold
    cases ht
    exact h.coldStart
  · exact h.kept (exec_keeps i s hcold t ht)

/-- What a group's next act leaves has the forms too. -/
def Act.Sound : Act → Prop
  | .run _ u | .other u => Machine.Sound u
  | .ev _ | .idle => True

theorem Sound.nextAct (h : Sound s) : (s.nextAct core slot).Sound := by
  have k : (s.nextAct core slot).Keeps s := (Kept.refl s).nextAct
  cases e : s.nextAct core slot with
  | idle => trivial
  | ev i => trivial
  | run i u =>
    rw [e] at k
    exact h.kept k
  | other u =>
    rw [e] at k
    exact h.kept k

theorem Sound.decidePort (h : Sound s) (ht : s.decidePort core port = .next t) : Sound t := by
  unfold State.decidePort at ht
  dsimp only at ht
  split at ht
  · cases ht
    exact h
  · rename_i w _
    have ha := (h.kept ((Kept.refl s).settlePort (core := core) (port := port) (win := w)
      (slots := s.requesters core port))).nextAct (core := core) (slot := w)
    split at ht
    case h_1 i u e =>
      rw [e] at ha
      exact Sound.exec ha ht
    case h_2 =>
      cases ht
      exact h

theorem Sound.issueTurn (h : Sound s) (hu : Sound u) (ht : s.issueTurn core slot i u = .next t) : Sound t := by
  unfold State.issueTurn at ht
  dsimp only at ht
  split at ht
  · exact hu.exec ht
  · have ha := h.nextAct (core := core) (slot := s.slotFirst core slot i)
    split at ht
    case h_1 j v e =>
      rw [e] at ha
      exact Sound.exec ha ht
    case h_2 => exact h.exec ht
    case h_3 v e =>
      rw [e] at ha
      cases ht
      exact ha
    case h_4 =>
      cases ht
      exact h

theorem Sound.take (h : Sound s) (ht : s.take core slot = .next t) : Sound t := by
  unfold State.take at ht
  have ha := h.nextAct (core := core) (slot := slot)
  split at ht
  case h_1 u e =>
    rw [e] at ha
    cases ht
    exact ha
  case h_2 => exact h.exec ht
  case h_3 i u c e _ =>
    rw [e] at ha
    replace ha : Sound u := ha
    split at ht
    · exact ha.exec ht
    · split at ht
      · cases ht
        exact h
      · split at ht
        · exact h.decidePort ht
        · exact h.issueTurn ha ht
  case h_4 =>
    cases ht
    exact h

theorem Sound.tick {clocks ns : Nat} (h : Sound s) : Sound (s.tick clocks ns) := h.kept (Kept.refl s).tick

theorem Sound.turn {x : Turn} (h : Sound s) (ht : s.turn x = .next t) : Sound t := by
  cases x with
  | issue core slot => exact h.take ht
  | decide core port => exact h.decidePort ht
  | event i => exact h.exec ht
  | tick clocks ns =>
    cases ht
    exact h.tick

theorem Sound.step (h : Sound s) (ht : step s = .next t) : Sound t := by
  unfold Machine.step State.stepOn at ht
  split at ht
  · rename_i _ rest _
    exact Sound.turn (s := { s with agenda := rest }) ⟨h.mem, h.dscr, h.preg⟩ ht
  · split at ht
    · cases ht
      exact h.tick
    · exact h.take ht

end

/-- Settles O52: what a step leaves has the forms (`Sound.step`), by the kind of turn, from `Kept`, what every row of the
opcode table and the passing of time keep; a cold start is the one row that `Kept` does not cover. -/
theorem memoryStaysCanonical : Obligations.MemoryStaysCanonical := by
  intro s t hmem hdscr hpreg ht
  obtain ⟨hm, hd, hp⟩ := Sound.step ⟨hmem, hdscr, hpreg⟩ ht
  exact ⟨hm, hd, hp⟩

end Sys2Proof.Machine

namespace Sys2Proof.Machine

/-! A module that has stopped. -/

section
variable {s t : State} {core slot port : Nat} {f : State → State}

theorem mayIssue_stopped {g : Group} (hs : s.sys.stopped = true) : s.mayIssue core slot g = false := by
  simp [State.mayIssue, hs]

/-- In a stopped module no group has anything to do. -/
theorem nextAct_stopped (hs : s.sys.stopped = true) : s.nextAct core slot = .idle := by
  unfold State.nextAct
  split
  · rfl
  · simp [mayIssue_stopped hs]

theorem take_stopped (hs : s.sys.stopped = true) : s.take core slot = .next s := by
  simp [State.take, nextAct_stopped hs]

theorem decidePort_stopped (hs : s.sys.stopped = true) : s.decidePort core port = .next s := by
  unfold State.decidePort
  dsimp only
  split
  · rfl
  · rw [nextAct_stopped ((Kept.refl s).settlePort.stopped hs)]

theorem waits_stopped (hs : s.sys.stopped = true) : s.waits core slot = true := by
  simp [State.waits, nextAct_stopped hs]

theorem step_stopped_idle (hs : s.sys.stopped = true) (ha : s.agenda = []) : step s = .next (s.tick 1 1) := by
  simp [step, State.stepOn, ha, waits_stopped hs]

/-- A turn of a stopped module that is no cold start keeps what every step keeps. -/
theorem turn_stopped {x : Turn} (hs : s.sys.stopped = true) (hx : x ≠ .event .coldStart) (ht : s.turn x = .next t) :
    Kept s t := by
  cases x with
  | issue core slot => exact Leads.next (.refl s) t ((take_stopped hs).symm.trans ht)
  | decide core port => exact Leads.next (.refl s) t ((decidePort_stopped hs).symm.trans ht)
  | event i => exact exec_keeps i s (fun e => hx (congrArg Turn.event e)) t ht
  | tick clocks ns => exact Leads.next (Kept.refl s).tick t ht

/-- A step of a stopped module: it stays stopped, and of what is scheduled at most the head is gone. -/
theorem step_stopped (hs : s.sys.stopped = true) (ha : ∀ x ∈ s.agenda, x ≠ .event .coldStart) (ht : step s = .next t) :
    t.sys.stopped = true ∧ t.agenda = s.agenda.tail := by
  cases e : s.agenda with
  | nil =>
    have hk := Leads.next (Kept.refl s).tick t ((step_stopped_idle hs e).symm.trans ht)
    exact ⟨hk.stopped hs, hk.agenda.trans e⟩
  | cons x rest =>
    have ht : State.turn { s with agenda := rest } x = .next t := by simpa only [step, State.stepOn, e] using ht
    have hk := turn_stopped (s := { s with agenda := rest }) hs (ha x (by simp [e])) ht
    exact ⟨hk.stopped hs, hk.agenda⟩

/-- Without power an instruction and an event alike are refused. -/
theorem Runner.off {o : Host.Outcome State Fault Refusal} (hr : Runner s o) (hs : s.sys.stopped = true)
    (hoff : s.sys.off = true) : o = .fault .stopped := by
  cases hr with
  | instr i body => exact instr_stopped hs
  | jump i body => exact jumpInstr_stopped hs
  | event f => exact event_off hoff

theorem exec_off {i : Instr} (hs : s.sys.stopped = true) (hoff : s.sys.off = true) (hcold : i ≠ .coldStart)
    (hloss : i ≠ .powerLoss) : exec i s = .fault .stopped :=
  (runner i s hcold hloss).off hs hoff

end

/-- Settles O51: no group has an act in a stopped module (`nextAct_stopped`), so no turn and no port decision does anything;
its steps keep the stop (`Kept`, by rows of the opcode table), and a core's own events are `coreEvent`s. -/
theorem stoppedModuleStaysStopped : Obligations.StoppedModuleStaysStopped := by
  refine ⟨fun s t hs ha ht => ?_, fun s core slot port hs => ⟨take_stopped hs, decidePort_stopped hs⟩,
    fun s hs ha => step_stopped_idle hs ha, fun s i hs hoff hcold hloss => exec_off hs hoff hcold hloss, fun s hs hoff => ?_⟩
  · obtain ⟨hst, htail⟩ := step_stopped hs ha ht
    exact ⟨hst, fun x hx => ha x (List.mem_of_mem_tail (htail ▸ hx))⟩
  · refine ⟨fun _ _ _ _ _ => ?_, fun _ _ _ => ?_, fun _ _ => ⟨?_, ?_, ?_⟩, fun _ => ⟨?_, ?_, ?_, ?_, ?_, ?_, ?_, ?_⟩,
      fun _ _ => ⟨?_, ?_⟩, fun _ _ => ?_, fun _ _ _ => ?_, fun _ _ => ⟨?_, ?_, ?_, ?_, ?_, ?_, ?_, ?_, ?_, fun _ => ?_⟩,
      fun _ _ _ => ?_⟩ <;> unfold exec <;> exact coreEvent_stopped hoff hs

end Sys2Proof.Machine

/-! # What an access, a future and a join leave of every group (R114 to R116, R124 to R126) -/

namespace Sys2Proof.Machine

/-! ## Walks, translations and flips -/

section
variable {α : Type} (f : Group → α)

theorem Keeps.makeWalk (s : State) (die : Nat) (w : Nat × Nat × Nat) : Keeps f s (s.makeWalk die w) :=
  ((modDie_cacheOnly s _ _).keeps f).trans (Keeps.prefetch f _ _ _ _ _ _)

theorem Keeps.walkTurn (s : State) (core : Nat) : Keeps f s (s.walkTurn core) :=
  .foldl f (fun s w => Keeps.makeWalk f s _ w) _ s

theorem Keeps.touch (s : State) (core vf va : Nat) (write : Bool) (origin : Nat) :
    Keeps f s (s.touch core vf va write origin) := by
  unfold State.touch
  split
  · exact .cond (.refl f s) (Keeps.modCore f s core fun _ => rfl)
  · exact Keeps.trans (.cond (Keeps.walkTurn f s core) (.refl f s)) (Keeps.walked f _ _ _ _ _ _)

theorem Keeps.dropWhere (s : State) (p : Nat → Bool) : Keeps f s (s.dropWhere p) := by
  refine .of_group? f fun d m => ?_
  unfold State.group? State.core State.dropWhere
  dsimp only
  split
  · rw [Vector.getElem_map]
  · rfl

theorem Keeps.endFlip (s : State) (vf : Nat) : Keeps f s (s.endFlip vf) := by
  unfold State.endFlip
  split
  · exact .refl f s
  · refine .cond (.of_cores f rfl) (.cond (.refl f s) ?_)
    exact Keeps.trans (.cond (Keeps.dropWhere f s _) (.refl f s)) (.of_cores f rfl)

theorem Keeps.settleFlip (s : State) (pa : Nat) : Keeps f s (s.settleFlip pa) :=
  .cond (.foldl f (fun s p => Keeps.endFlip f s (Prod.fst p)) _ s) (.refl f s)

theorem Keeps.l2Access (s : State) (core part ctx pa hint : Nat) (write : Bool) :
    Keeps f s (s.l2Access core part ctx pa hint write) := (l2Access_cacheOnly _ _ _ _ _ _ _).keeps f

/-- A bundle's words come with a state whose groups stand as they were. -/
theorem Keeps.icRead {s u : State} {core : Nat} {g : Group} {va : DWord} {ws : List DWord}
    (h : s.icRead core g va = .words ws u) : Keeps f s u := by
  unfold State.icRead at h
  dsimp only at h
  split at h
  · cases h
  · next t _ =>
    have ht := (Keeps.settleFlip f s (Xlat.paOf t (va.toNat % 2 ^ 57))).trans
      (Keeps.touch f _ core g.vf (va.toNat % 2 ^ 57) false 0)
    repeat' split at h
    all_goals cases h
    · exact (ht.trans (Keeps.l2Access f _ _ _ _ _ _ _)).trans (Keeps.modCore f _ core fun _ => rfl)
    · exact ht.trans (Keeps.modCore f _ core fun _ => rfl)

theorem Keeps.fetchBundle {s u : State} {core : Nat} {g : Group} {va : DWord} {ws : List DWord}
    (h : s.fetchBundle core g va = .words ws u) : Keeps f s u := by
  unfold State.fetchBundle at h
  split at h
  · cases h
    exact .refl f s
  · exact Keeps.icRead f h

/-! ## Places of an access -/

/-- An answer's state, where there is one, has every group as it was. -/
def Leaves {β : Type} (s : State) : Except Trap (β × State) → Prop
  | .ok p => Keeps f s p.2
  | .error _ => True

theorem Leaves.ok {β : Type} {s u : State} {x : Except Trap (β × State)} {b : β} (h : Leaves f s x) (e : x = .ok (b, u)) :
    Keeps f s u := by
  rw [e] at h
  exact h

theorem leaves_place (s : State) (c : Ctx) (E : LaneMask) (w : Want) (a : DWord) (other : Nat × Nat → Nat × Nat)
    (reads : Bool) : Leaves f s (s.place c E w a other reads) := by
  unfold State.place
  split
  · trivial
  · trivial
  · split
    · trivial
    · split
      · trivial
      · split
        · have ht := Keeps.touch f s c.core c.g.vf (a.toNat % 2 ^ 57) w.write w.origin
          exact Keeps.cond (ht.trans (Keeps.loadLine f _ _ _ _ _ _ _)) ht
        · exact Keeps.refl f s

theorem leaves_placeAll (s : State) (c : Ctx) (E : LaneMask) (w : Want) (other : Nat × Nat → Nat × Nat) (l : List DWord) :
    Leaves f s (s.placeAll c E w other l) := by
  induction l generalizing s with
  | nil => exact Keeps.refl f s
  | cons a r ih =>
    rw [State.placeAll]
    have hp := leaves_place f s c E w a other (!w.write)
    cases e : s.place c E w a other with
    | error t => trivial
    | ok p =>
      rw [e] at hp
      rw [ok_bind]
      have hr := ih p.2
      dsimp only
      cases e' : p.2.placeAll c E w other r with
      | error t => trivial
      | ok q =>
        rw [e'] at hr
        exact Keeps.trans hp hr

end

/-! ## Stores, and what waits for them -/

theorem setPending_cores (s : State) (fn i : Nat) (b : Bool) : (s.setPending fn i b).cores = s.cores := by
  unfold State.setPending
  dsimp only
  split <;> rfl

theorem raise_cores (s : State) (fn i : Nat) : (s.raise fn i).cores = s.cores :=
  ite_cores rfl (ite_cores (setPending_cores ..) rfl)

theorem Keeps.modVf {α : Type} (f : Group → α) (s : State) (vf : Nat) (g : Vf → Vf) : Keeps f s (s.modVf vf g) := .of_cores f rfl

section
variable {α : Type} {f : Group → α} (hf : ∀ g, f { g with waitDone := true } = f g)
include hf

theorem Keeps.store (s : State) (core part ctx : Nat) (loc : Loc) (b : List Byte) (hint : Nat) (cached : Bool) :
    Keeps f s (s.store core part ctx loc b hint cached) := by
  refine Keeps.trans ?_ (Keeps.noteWaits hf _)
  refine (Keeps.putLoc f s loc b).trans ?_
  split
  · refine Keeps.trans ?_ (Keeps.modCore f _ core fun _ => rfl)
    exact .cond (.foldl f (fun s a => Keeps.l2Access f s _ _ _ a _ _) _ _) (.refl f _)
  · exact .refl f _

theorem Keeps.fnWrite {s u : State} {fn va : Nat} {b : List Byte} (h : s.fnWrite fn va b = some u) : Keeps f s u := by
  unfold State.fnWrite at h
  split at h
  · dsimp only at h
    split at h
    · cases h
    · cases h
      exact ((Keeps.settleFlip f s _).trans (Keeps.touch f _ _ _ _ _ _)).trans (Keeps.store hf _ _ _ _ _ _ _ _)
  · cases h

omit hf in
theorem Keeps.getD {s t : State} {o : Option State} (ht : Keeps f s t) (ho : ∀ u, o = some u → Keeps f s u) :
    Keeps f s (o.getD t) := by
  cases o with
  | none => exact ht
  | some u => exact ho u rfl

theorem Keeps.eqWrite (s : State) (fn : Nat) (words : List DWord) : Keeps f s (s.eqWrite fn words) := by
  unfold State.eqWrite
  extract_lets _ _ _ _ _ lost
  refine .cond (.of_cores f rfl) (.cond (.of_cores f rfl) ?_)
  split
  · exact .of_cores f rfl
  · next u hu =>
    exact (Keeps.fnWrite hf hu).trans ((Keeps.modVf f u _ _).trans (.of_cores f (raise_cores _ _ _)))

/-! ## Cards of joins -/

omit hf in
theorem Keeps.holdCard (s : State) (j : Job) : Keeps f s (s.holdCard j) := .of_cores f rfl

omit hf in
/-- The cards of continuations that enter, one after another. -/
theorem Keeps.enterEach (conts : List Job) (r : State × List Job) :
    Keeps f r.1 (conts.foldl (fun (r : State × List Job) j =>
      if r.1.contFits r.2 j then (r.1.holdCard j, r.2) else (r.1, r.2 ++ [j])) r).1 := by
  induction conts generalizing r with
  | nil => exact .refl f _
  | cons j l ih =>
    rw [List.foldl_cons]
    refine Keeps.trans ?_ (ih _)
    split
    · exact Keeps.holdCard _ j
    · exact .refl f _

omit hf in
theorem Keeps.enterConts (s : State) (vf : Nat) : Keeps f s (s.enterConts vf) :=
  (Keeps.enterEach _ (s, [])).trans (Keeps.modVf f _ _ _)

omit hf in
theorem Keeps.fnRead {s u : State} {fn n : Nat} {a : DWord} {b : List Byte} (h : s.fnRead fn a n = some (b, u)) :
    Keeps f s u := by
  unfold State.fnRead at h
  dsimp only at h
  split at h
  · next t _ =>
    have ht := (Keeps.settleFlip f s (Xlat.paOf t (a.toNat % 2 ^ 57))).trans
      (Keeps.touch f _ 64 fn (a.toNat % 2 ^ 57) false 2)
    split at h
    · cases h
    · obtain ⟨-, rfl⟩ := Prod.mk.inj (Option.some.inj h)
      exact .cond (ht.trans (Keeps.l2Access f _ _ _ _ _ _ _)) ht
  · cases h

theorem Keeps.readCard (s : State) (vf part q : Nat) (a : DWord) (k : Ticket) (held : List Nat) :
    Keeps f s (s.readCard vf part q a k held).2 := by
  unfold State.readCard
  split
  · next hu => exact Keeps.fnRead hu
  · exact ((Keeps.modVf f s _ _).trans (Keeps.eqWrite hf _ _ _)).trans (.of_cores f (noteFences_cores _))

theorem Keeps.readCont (s : State) (vf part q : Nat) (a : DWord) (k : Ticket) (held : List Nat) :
    Keeps f s (s.readCont vf part q a k held) := by
  have hread := Keeps.readCard hf s vf part q a k held
  unfold State.readCont
  refine .cond (Keeps.modVf f s _ _) ?_
  split
  · next e =>
    rw [e] at hread
    exact (hread.trans (Keeps.modVf f _ _ _)).trans (Keeps.enterConts _ _)
  · next e =>
    rw [e] at hread
    exact hread

omit hf in
theorem Keeps.takeTickets (s : State) (vf q n : Nat) : Keeps f s (s.takeTickets vf q n).2 := .of_cores f rfl

theorem Keeps.continuation (s : State) (vf part q : Nat) (a : DWord) : Keeps f s (s.continuation vf part q a) := by
  unfold State.continuation
  exact (Keeps.takeTickets s vf q 1).trans (Keeps.readCont hf _ _ _ _ _ _ _)

theorem Keeps.joinPut (s : State) (vf h : Nat) (r : JoinRec) : Keeps f s (s.joinPut vf h r) := by
  unfold State.joinPut
  extract_lets t va
  have ht : Keeps f s t := Keeps.modVf f s _ _
  exact .cond (ht.trans (Keeps.modVf f t _ _)) (.getD ht fun u hu => ht.trans (Keeps.fnWrite hf hu))

/-- A record that all its futures have reported to is freed, any other is written back. -/
theorem Keeps.putJoin (s : State) (vf h : Nat) (r : JoinRec) :
    Keeps f s (if r.left = 0 then (s.joinPut vf h r).modVf vf fun v => { v with joins := ndel v.joins h }
      else s.joinPut vf h r) := by
  have hput := Keeps.joinPut hf s vf h r
  split
  · exact hput.trans (Keeps.modVf f _ _ _)
  · exact hput

theorem Keeps.joinReport (s : State) (vf h j : Nat) : Keeps f s (s.joinReport vf h j) := by
  unfold State.joinReport
  split
  · exact .refl f s
  · next r _ =>
    have hput := Keeps.putJoin hf s vf h { r with cnt := r.cnt - 1, left := r.left - 1, rep := r.rep ++ [j] }
    dsimp only
    split
    · exact hput.trans (Keeps.continuation hf _ _ _ _ _)
    · exact hput

theorem Keeps.walkJoins (s : State) (vf place n head : Nat) : Keeps f s (s.walkJoins vf place n head) := by
  induction n generalizing s head with
  | zero => exact .refl f s
  | succ n ih =>
    cases head with
    | zero => exact .refl f s
    | succ head =>
      unfold State.walkJoins
      split
      · exact .refl f s
      · split
        · exact Keeps.joinReport hf s _ _ _
        · exact (Keeps.joinReport hf s _ _ _).trans (ih _ _)

theorem Keeps.register (s : State) (core part vf : Nat) (va : DWord) (loc : Loc) (h j : Nat) :
    Keeps f s (s.register core part vf va loc h j) := by
  unfold State.register
  refine .cond (Keeps.joinReport hf s _ _ _) (Keeps.trans ?_ (Keeps.store hf _ _ _ _ _ _ _ _))
  split
  · exact Keeps.joinPut hf s _ _ _
  · exact .refl f s

end

/-! ## Scalars -/

/-- A group that takes scalars is there as it was. -/
theorem Keeps.exists_modGroup (s : State) (core slot : Nat) (f : Group → Group) :
    Keeps (fun _ => ()) s (s.modGroup core slot f) := Keeps.modGroup _ s core slot fun _ => rfl

theorem Keeps.readFuture (s : State) (core slot vf : Nat) (loc : Loc) (d : Nat) :
    Keeps (fun _ => ()) s (s.readFuture core slot vf loc d) := by
  refine Keeps.trans (.cond (Keeps.acquire _ s _ _ _) ?_) (Keeps.exists_modGroup _ _ _ _)
  split
  · exact Keeps.l1Refresh _ s _ _ _
  · exact .refl _ s

end Sys2Proof.Machine

/-! # What a fetch looks at (R42, R144, R292)

The answer of a fetch depends on no more of a core than its translations, its instruction cache and the accesses of its groups
that are in flight: a group that is set apart from these is fetched for alike. -/

namespace Sys2Proof.Machine

/-- An access of the group to such a byte is in flight. -/
def Group.flies (g : Group) (p : Nat → Bool) : Bool :=
  (g.pends.any fun q => q.locs.any fun l => match l with
    | .phys pa => p pa
    | _ => false) ||
  g.sq.any fun b => b.elems.any fun e => match e.loc with
    | .phys pa => p pa
    | _ => false

/-- What a fetch looks at in a core. -/
def Core.looks (k : Core) : List TlbEntry × List IcLine × ((Nat → Bool) → Bool) :=
  (k.tlb, k.icache, fun p => k.groups.any fun q => q.2.flies p)

/-- The states differ in their cores alone, and there in nothing that a fetch looks at. -/
structure LooksSame (s t : State) : Prop where
  rest : t = { s with cores := t.cores }
  looks : ∀ c, (t.core c).looks = (s.core c).looks

section
variable {s t : State}

theorem inFlight_eq (s : State) (p : Nat → Bool) :
    s.inFlight (fun _ => true) p = (List.range 64).any fun c => (s.core c).looks.2.2 p := by
  unfold State.inFlight State.groupList State.coreList
  rw [List.any_flatMap, List.any_map]
  congr 1
  funext c
  dsimp only [Function.comp, Core.looks]
  rw [List.any_map]
  rfl

theorem LooksSame.inFlight (h : LooksSame s t) (p : Nat → Bool) :
    t.inFlight (fun _ => true) p = s.inFlight (fun _ => true) p := by
  simp only [inFlight_eq, h.looks]

theorem LooksSame.vfs (h : LooksSame s t) : t.vfs = s.vfs := by rw [h.rest]

theorem LooksSame.modVf (h : LooksSame s t) (vf : Nat) (f : Vf → Vf) : LooksSame (s.modVf vf f) (t.modVf vf f) :=
  ⟨by rw [h.rest]; rfl, h.looks⟩

theorem LooksSame.dropWhere (h : LooksSame s t) (p : Nat → Bool) : LooksSame (s.dropWhere p) (t.dropWhere p) := by
  have looks (u : State) (c : Nat) : ((u.dropWhere p).core c).looks = (u.core c).looks := by
    unfold State.core State.dropWhere
    split
    · simp only [Vector.getElem_map]
      rfl
    · rfl
  exact ⟨by rw [h.rest]; rfl, fun c => by rw [looks, looks, h.looks]⟩

theorem LooksSame.setBias (h : LooksSame s t) (f : NMap Nat → NMap Nat) :
    LooksSame { s with hostBias := f s.hostBias } { t with hostBias := f t.hostBias } :=
  ⟨by rw [h.rest], h.looks⟩

theorem LooksSame.endFlip (h : LooksSame s t) (vf : Nat) : LooksSame (s.endFlip vf) (t.endFlip vf) := by
  have hv : t.vf vf = s.vf vf := by simp only [State.vf, h.vfs]
  unfold State.endFlip
  rw [hv]
  split
  · exact h
  · next page toHost r _ =>
    simp only [h.inFlight]
    split
    · exact h.modVf _ _
    · split
      · exact h
      · split
        · exact ((h.dropWhere _).setBias fun b => nset 0 b page _).modVf _ _
        · exact (h.setBias fun b => nset 0 b page _).modVf _ _

theorem LooksSame.endFlips (h : LooksSame s t) (l : NMap Vf) :
    LooksSame (l.foldl (fun s p => s.endFlip p.1) s) (l.foldl (fun s p => s.endFlip p.1) t) := by
  induction l generalizing s t with
  | nil => exact h
  | cons p l ih => exact ih (h.endFlip p.1)

theorem LooksSame.flipping (h : LooksSame s t) (l : Loc) : t.flipping l = s.flipping l := by
  unfold State.flipping
  rw [h.vfs]

theorem LooksSame.settleFlip (h : LooksSame s t) (pa : Nat) : LooksSame (s.settleFlip pa) (t.settleFlip pa) := by
  unfold State.settleFlip
  rw [h.flipping, h.vfs]
  by_cases hflip : s.flipping (.phys pa) = true
  · simp only [hflip, if_true]
    exact h.endFlips _
  · simp only [hflip]
    exact h

theorem LooksSame.flipHeld (h : LooksSame s t) (pa : Nat) : t.flipHeld pa = s.flipHeld pa := by
  unfold State.flipHeld
  rw [h.flipping, (h.settleFlip pa).flipping]

theorem LooksSame.tlb (h : LooksSame s t) (c : Nat) : (t.core c).tlb = (s.core c).tlb := congrArg Prod.fst (h.looks c)

theorem LooksSame.icache (h : LooksSame s t) (c : Nat) : (t.core c).icache = (s.core c).icache :=
  congrArg (fun x => x.2.1) (h.looks c)

theorem LooksSame.xlate (h : LooksSame s t) (core vf va : Nat) (write : Bool) :
    t.xlate core vf va write = s.xlate core vf va write := by
  have hwalk : t.walkVa vf va = s.walkVa vf va := by rw [h.rest]; rfl
  have hdie : t.die (core / 16) = s.die (core / 16) := by rw [h.rest]; rfl
  simp only [State.xlate, State.tlbHit, hwalk, hdie, h.tlb]

/-- The words of a fetch that has them. -/
def Fetched.words? : Fetched → Option (List DWord)
  | .words ws _ => some ws
  | _ => none

theorem Fetched.exists_of_words? {x : Fetched} {ws : List DWord} (h : x.words? = some ws) : ∃ u, x = .words ws u := by
  cases x with
  | words ws' u =>
    cases h
    exact ⟨u, rfl⟩
  | _ => cases h

section
variable {core : Nat} {g k : Group} {va : DWord}

/-- A fetch has the same words for another group of its function, at a state that looks the same. -/
theorem LooksSame.icRead (h : LooksSame s t) (hvf : k.vf = g.vf) (hpart : k.part = g.part) :
    (t.icRead core k va).words? = (s.icRead core g va).words? := by
  have hbar (part pa : Nat) : t.xbar core part pa false = s.xbar core part pa false := by rw [h.rest]; rfl
  have hpoison (l : Loc) : t.poisoned l 64 = s.poisoned l 64 := by rw [h.rest]; rfl
  have hmem : t.mem = s.mem := by rw [h.rest]
  unfold State.icRead
  simp only [hvf, hpart, h.xlate, hbar, hpoison, hmem, h.flipHeld]
  split
  · rfl
  · split
    · rfl
    · split
      · rfl
      · split
        · rfl
        · split
          · rfl
          · split <;> rfl

theorem LooksSame.fetchBundle (h : LooksSame s t) {u : State} {ws : List DWord} (hvf : k.vf = g.vf) (hjob : k.job = g.job)
    (hpart : k.part = g.part) (e : s.fetchBundle core g va = .words ws u) : ∃ v, t.fetchBundle core k va = .words ws v := by
  refine Fetched.exists_of_words? (Eq.trans (b := (s.fetchBundle core g va).words?) ?_ (by rw [e]; rfl))
  unfold State.fetchBundle Core.icFind
  rw [h.icache, hvf, hjob]
  split
  · rfl
  · exact h.icRead hvf hpart

end

/-! ## A group put back -/

theorem any_of_nfind {α : Type} {m : NMap α} {n : Nat} {x : α} (q : α → Bool) (h : nfind m n = some x) (hq : q x = true) :
    (m.any fun p => q p.2) = true := by
  induction m with
  | nil => cases h
  | cons p r ih =>
    obtain ⟨k, v⟩ := p
    simp only [nfind] at h
    split at h
    · cases h
      simp [hq]
    · simp [ih h]

/-- A value put in another's place that passes a test alike leaves what the table passes. -/
theorem any_nins {α : Type} {m : NMap α} {n : Nat} {x y : α} (q : α → Bool) (h : nfind m n = some x) (hq : q y = q x) :
    ((nins m n y).any fun p => q p.2) = m.any fun p => q p.2 := by
  induction m with
  | nil => cases h
  | cons p r ih =>
    obtain ⟨k, v⟩ := p
    rw [nins]
    split
    · rw [List.any_cons]
      cases hx : q x with
      | true => rw [any_of_nfind q h hx, Bool.or_true]
      | false => rw [hq, hx, Bool.false_or]
    · simp only [nfind] at h
      split
      · next hk =>
        rw [if_pos hk] at h
        cases h
        simp only [List.any_cons, hq]
      · next hk =>
        rw [if_neg hk] at h
        simp only [List.any_cons, ih h]

/-- A group put back with the same accesses in flight changes nothing that a fetch looks at. -/
theorem looksSame_setGroup {c n : Nat} {g k : Group} (hg : s.group? c n = some g) (hf : k.flies = g.flies) :
    LooksSame s (s.setGroup c n k) := by
  refine ⟨?_, fun d => ?_⟩
  · unfold State.setGroup State.modCore State.setCore
    split <;> rfl
  · unfold State.setGroup State.modCore
    by_cases hd : d = c
    · subst hd
      rw [State.core_setCore_self (State.group?_lt hg)]
      refine congrArg (fun x => ((s.core d).tlb, (s.core d).icache, x)) (funext fun p => ?_)
      exact any_nins (fun g => g.flies p) hg (congrFun hf p)
    · rw [State.core_setCore_ne hd]

end
end Sys2Proof.Machine

namespace Sys2Proof.Machine

/-! # Futures, joins and traps complete (R115, R124 to R126, R402, R408, R409) -/

/-- Of numbers with a free one below `n` there is a lowest free one. -/
theorem exists_lowest_join {v : Vf} {n h : Nat} (hh : h < n) (hfree : nfind v.joins h = none) :
    ∃ k, k < n ∧ (∀ i : Nat, i < k → (nfind v.joins i).isSome = true) ∧ nfind v.joins k = none := by
  have hsome : ((List.range n).find? fun k => (nfind v.joins k).isNone).isSome = true :=
    List.find?_isSome.mpr ⟨h, List.mem_range.mpr hh, by simp [hfree]⟩
  obtain ⟨k, hk⟩ := Option.isSome_iff_exists.mp hsome
  obtain ⟨hnone, hlt, hbelow⟩ := List.find?_range_eq_some.mp hk
  exact ⟨k, List.mem_range.mp hlt, fun i hi => by simpa using hbelow i hi, by simpa using hnone⟩

/-! ## A fault that its handler takes, and the return -/

section
variable {s u : State} {c : Ctx} {g : Group} {core slot b : Nat} {r : FaultRec} {resume : PC} {ws : List DWord}

/-- A fault that an enabled handler takes leaves the group at the handler's first slot (R402). -/
theorem group?_deliver (hg : s.group? core slot = some g) (hin : g.csr.inHandler = false)
    (hbit : handlerBit r.code = some b) (hmask : g.csr.hmask.getLsbD b = true) (hvec : g.csr.hvec ≠ 0)
    (halign : g.csr.hvec.toNat % 64 = 0) (hlow : g.csr.hvec.toNat < 2 ^ 56)
    (hfetch : s.fetchBundle core g g.csr.hvec = .words ws u) (hentry : hdrEntry (ws.headD 0) = true)
    (hroom : g.base + g.coilD + g.frameSize + g.coilD ≤ g.cap) :
    (s.deliver core slot r resume).group? core slot =
      some (({ g with counted := false } : Group).enterHandler r resume g.csr.hvec) := by
  obtain ⟨v, hv⟩ := (looksSame_setGroup (k := { g with counted := false }) hg rfl).fetchBundle (g := g)
    (k := { g with counted := false }) rfl rfl rfl hfetch
  have hkept : v.group? core slot = some { g with counted := false } := by
    have := Keeps.fetchBundle id hv core slot
    rwa [Option.map_id, id, id, State.group?_setGroup_self (State.group?_lt hg)] at this
  unfold State.deliver
  rw [State.group?_modGroup_self hg]
  simp only [hin, hbit, hmask, hvec, halign, hv, hentry, Nat.not_le.mpr hlow, Nat.not_lt.mpr hroom]
  simp only [if_false, Bool.false_eq_true, Bool.not_true, or_self, ne_eq, not_true_eq_false]
  exact State.group?_modGroup_self (by rw [State.group?_count]; exact hkept)

/-- What the issue of an instruction that left the issuing group so leaves of its lasting part. -/
theorem group?_issued {α : Type} (hu : u.group? c.core c.slot = some g) (i : Form) (f : Group → α)
    (hf : ∀ g : Group, f g = f g.lasting) : ((u.issued c i).group? c.core c.slot).map f = some (f g) := by
  have kept := Keeps.issued_lasting u c i c.core c.slot
  rw [hu] at kept
  obtain ⟨h, hh, he⟩ := Option.map_eq_some_iff.mp kept
  rw [hh, Option.map_some, hf h, he, ← hf g]

theorem group?_withGroup (hg : s.group? c.core c.slot = some g) (f : Group → Group) :
    (s.withGroup c f).group? c.core c.slot = some (f g) := State.group?_modGroup_self hg

theorem leaveHandler_of_handler {eb : DWord} {base fs d : Nat} {ms m : LaneMask} {ps : Vector (BitVec 7) 96}
    {acts : Vector LaneAct 96} {cm : Bool} {rest : List RetRec} (pc : PC)
    (h : g.rets = .handler eb base fs d ms m ps acts cm :: rest) :
    ((g.leaveHandler pc).pc, (g.leaveHandler pc).csr.inHandler, (g.leaveHandler pc).depth) = (pc, false, d) := by
  unfold Group.leaveHandler
  rw [h]
  rfl

end

/-- Settles O35: the outcomes are those of `futuresComplete` and `trapsAndReturns`; what a future, a join and their stores do
leaves the group where it is (`Keeps`), and a taken fault leaves it at the handler's first slot (`group?_deliver`). -/
theorem futureAndTrapFormsComplete : Obligations.FutureAndTrapFormsComplete := by
  refine ⟨?_, ?_, ?_, ?_, ?_⟩
  · intro f s u c E pc a v loc h hne ha hv hplace hpoison hsq hloads hstate
    obtain ⟨hreset, -, hfirst, hwaited, -⟩ :=
      futuresComplete.1 f s u c E pc a v loc h hne ha (fun _ => hv) hplace hpoison hsq hloads
    have hu : Keeps (fun _ => ()) s u := (leaves_place _ s c E _ a _ _).ok _ hplace
    have store (b : List Byte) (hint : Nat) (cached : Bool) :=
      hu.trans (Keeps.store (fun _ => rfl) u c.core c.g.part c.g.vf loc b hint cached)
    cases hop : f.op.getLsbD 0 with
    | true =>
      rw [hop, if_pos rfl] at hstate
      exact ⟨_, hreset hop hstate, goes_of_keeps h (store _ _ _) _⟩
    | false =>
      rw [hop, if_neg Bool.false_ne_true] at hstate
      obtain h0 | h1 : futState (u.futWord0 loc) = 0 ∨ futState (u.futWord0 loc) = 1 := by omega
      · exact ⟨_, hfirst hop h0, goes_of_keeps h (store _ _ _) _⟩
      · exact ⟨_, hwaited hop h1, goes_of_keeps h ((store _ _ _).trans (Keeps.walkJoins (fun _ => rfl) _ _ _ _ _)) _⟩
  · intro f s u u2 u3 c E pc card list ls fl futs loc h hi hne hfree hcard hlist husable hform hforms hls hsq hloads hfuts
      hfutForms hplace hfl hpoison hh hnone
    obtain ⟨k, hk, hbelow, hfreeK⟩ := exists_lowest_join hh hnone
    have hu : Keeps (fun _ => ()) s u := (leaves_placeAll _ s c E _ _ _).ok _ hls
    have hu2 : Keeps (fun _ => ()) u u2 := (leaves_place _ u c E _ card _ _).ok _ hplace
    have hu3 : Keeps (fun _ => ()) u2 u3 := (leaves_placeAll _ u2 c E _ _ _).ok _ hfl
    refine ⟨_, futuresComplete.2.1 f s u u2 u3 c E pc card list ls fl futs loc k _ hi hne hfree hcard hlist husable hform
      hforms hls hsq hloads hfuts hfutForms hplace hfl hpoison hk hbelow hfreeK rfl, goes_of_keeps hi ?_ _⟩
    exact ((hu.trans hu2).trans hu3).trans ((Keeps.joinPut (fun _ => rfl) u3 _ _ _).trans
      (Keeps.trans (.foldl _ (fun s p => Keeps.register (fun _ => rfl) s _ _ _ _ _ _ _) _ _) (Keeps.exists_modGroup _ _ _ _)))
  · intro f s u c E pc a loc h hne hfree hfree' ha hplace hloads hqueued hstate
    obtain ⟨hready, -⟩ := futuresComplete.2.2 f s u c E pc a loc h hne hfree hfree' ha hplace hloads hqueued
    have hu : Keeps (fun _ => ()) s u := (leaves_place _ s c E _ a _ _).ok _ hplace
    exact ⟨_, hready (.inr hstate), goes_of_keeps h (hu.trans (Keeps.readFuture _ _ _ _ _ _)) _⟩
  · intro f s u c E pc ws h hne hin hmask hvec halign hlow hfetch hentry hroom
    obtain ⟨hg, -⟩ := State.ctx?_group h.group
    refine ⟨⟨_, trapsAndReturns.1.1 f s c E pc h hne, ?_⟩, fun hstop => ⟨_, trapsAndReturns.1.2.1 f s c E pc h hne hstop, ?_⟩⟩
    · exact group?_issued (group?_deliver (b := 5) hg hin rfl hmask hvec halign hlow hfetch hentry hroom) _ _ fun _ => rfl
    · exact group?_issued (group?_deliver (b := 5) hg hin rfl hmask hvec halign hlow hfetch hentry hroom) _ _ fun _ => rfl
  · intro f s c E pc eb b fs d ms m ps acts cm rest h hin hrets hmark hdepth hslot hslot' hterm
    obtain ⟨hg, -⟩ := State.ctx?_group h.group
    obtain ⟨-, hplain, hskip⟩ := (trapsAndReturns.2 f s c E pc h).1 hin hmark hdepth hslot hslot'
    have leaves (p : PC) := leaveHandler_of_handler p hrets
    cases hop : f.op.getLsbD 0 with
    | false =>
      refine ⟨_, hplain hterm hop, ?_⟩
      rw [group?_issued (group?_withGroup hg _) _ (fun g => (g.pc, g.csr.inHandler, g.depth)) fun _ => rfl]
      exact congrArg some (leaves _)
    | true =>
      refine ⟨_, hskip hterm hop, ?_⟩
      rw [group?_issued (group?_withGroup hg _) _ (fun g => (g.pc, g.csr.inHandler, g.depth)) fun _ => rfl, if_pos rfl]
      refine congrArg some ?_
      split
      · exact leaves _
      · exact leaves _

end Sys2Proof.Machine
